-- ==== Sys2Proof/Word.lean ====
section
/-! DEFINITION. The word types of the links and of deck time, and the update of one place of a vector. -/

namespace Sys2Proof

/-- One byte of a link or board frame (R190). -/
abbrev Byte := BitVec 8

/-- Two bytes: an event number, a rejection number, a bit set (R190). -/
abbrev Word16 := BitVec 16

/-- Four bytes: a time, a tag, a parameter value (R190). -/
abbrev Word32 := BitVec 32

/-- Deck time, a 32-bit count of units that wraps (R18). -/
abbrev DeckTime := BitVec 32

/-- The vector with the value at one place replaced by its image. -/
def updAt {α : Type} {n : Nat} (v : Vector α n) (i : Fin n) (f : α → α) : Vector α n :=
  v.set i.val (f (v.get i)) i.isLt

end Sys2Proof
end

