-- ==== Sys2Proof/Syntax.lean ====
section
/-! DEFINITION. The commands of spec/opcode_table.json, one constructor per row, with the operands their bodies
carry (R190, R191), and the names those operands are made of. -/

namespace Sys2Proof

/-- The three console links (00_scope, Identifiers). -/
inductive Link where
  | cl0 | cl1 | cl2
  deriving DecidableEq, Repr

/-- The two walls, END A and END B. -/
inductive End where
  | a | b
  deriving DecidableEq, Repr

/-- Lanes 0 to 9. -/
abbrev LaneNo := Fin 10

/-- The three button slots of a lane; the letter of a button line names its slot (R134). -/
inductive Slot where
  | one | two | three
  deriving DecidableEq, Repr

/-- The 73 deck lines (R134). -/
inductive Line where
  | pad (e : End) (lane : LaneNo)
  | platform (e : End) (lane : LaneNo)
  | button (lane : LaneNo) (slot : Slot)
  | start
  | marks
  | recall
  deriving DecidableEq, Repr

/-- The four bands of a four-level line; a two-level line shows ACTIVE or IDLE only (8.2). `opened` is OPEN. -/
inductive Level where
  | short | active | idle | opened
  deriving DecidableEq, Repr

/-- A segment item of a STAGE HEAT body; stroke 0xFF is an absent stroke (R190). -/
structure SegmentItem where
  lengths : Byte
  leg : Byte
  stroke : Byte
  deriving DecidableEq, Repr

/-- A lane entry of a STAGE HEAT body: the use code and the tags (R191). -/
structure LaneEntry where
  use : Byte
  tags : List Word32
  deriving DecidableEq, Repr

/-- The body of STAGE HEAT as received: codes are not yet checked, absent items are `none` (R1, R191). -/
structure HeatBody where
  event : Word16
  heat : Byte
  lengths : Byte
  poolLength : Option Byte
  startEnd : Option Byte
  startKind : Option Byte
  firstGuard : Option Word32
  minLength : Option Word32
  turnLockout : Option Word32
  weight : Option Byte
  basis : Option Byte
  laneMode : Option Byte
  collectTime : Option Word32
  backupTolerance : Option Word32
  exchangeAllowance : Option Word32
  releaseMode : Option Byte
  splitInterval : Option Byte
  segments : List SegmentItem
  lanes : List LaneEntry
  deriving DecidableEq, Repr

/-- An item of ASSIGN ENTRANT: a leg and a tag (R49). -/
structure TagItem where
  leg : Byte
  tag : Word32
  deriving DecidableEq, Repr

/-- The optional fields of SET LANE TIMING as received (R52). -/
structure TimingBody where
  mode : Option Byte
  weight : Option Byte
  basis : Option Byte
  deriving DecidableEq, Repr

/-- The commands. A request row carries the link it arrives on and its TAG; its numbers and codes are the bytes of its
body, checked when it is taken (R179). -/
inductive Instr where
  | stageHeat (link : Link) (tag : Byte) (body : HeatBody)
  | withdrawHeat (link : Link) (tag : Byte) (event : Word16) (heat : Byte)
  | listQueue (link : Link) (tag : Byte)
  | advance (link : Link) (tag : Byte)
  | abandon (link : Link) (tag : Byte)
  | startRace (link : Link) (tag : Byte)
  | readRace (link : Link) (tag : Byte) (part : Byte)
  | scratchLane (link : Link) (tag : Byte) (lane : Byte)
  | assignEntrant (link : Link) (tag : Byte) (lane : Byte) (items : List TagItem)
  | setLaneTiming (link : Link) (tag : Byte) (lane : Byte) (timing : TimingBody)
  | promoteTouch (link : Link) (tag : Byte) (lane : Byte) (number : Word16)
  | declareNoFinish (link : Link) (tag : Byte) (lane : Byte)
  | enterFinish (link : Link) (tag : Byte) (lane : Byte) (time : Word32)
  | adjustFinish (link : Link) (tag : Byte) (lane : Byte) (time : Word32)
  | readLane (link : Link) (tag : Byte) (lane : Byte)
  | readSplits (link : Link) (tag : Byte) (lane : Byte) (first : Byte)
  | holdLane (link : Link) (tag : Byte) (lane : Byte)
  | unholdLane (link : Link) (tag : Byte) (lane : Byte)
  | clearSystemHold (link : Link) (tag : Byte) (lane : Byte) (reasons : Byte)
  | releaseLane (link : Link) (tag : Byte) (lane : Byte)
  | disqualify (link : Link) (tag : Byte) (lane : Byte) (code : Byte)
  | reinstate (link : Link) (tag : Byte) (lane : Byte)
  | setParameter (link : Link) (tag : Byte) (param : Byte) (value : Word32)
  | getParameter (link : Link) (tag : Byte) (param : Byte)
  | setNoticeMask (link : Link) (tag : Byte) (kinds : Word16)
  | readFaults (link : Link) (tag : Byte) (record : Byte)
  | clearFaults (link : Link) (tag : Byte) (record : Byte)
  | resetDevice (link : Link) (tag : Byte)
  | unknownRequest (link : Link) (tag : Byte) (kind : Byte)
  | receivedByte (link : Link) (byte : Byte)
  | gapExpiry (link : Link)
  | linkTransmissionCompletes (link : Link)
  | deviceResetBegins
  | sensedLevelChange (line : Line) (level : Level)
  | candidateCompletes (line : Line)
  | stuckTimerExpiry (line : Line)
  | retryExpiry (input : Fin 71)
  | collecttimeExpiry (lane : LaneNo)
  | overtimeExpiry
  | advanceTimerExpiry
  | boardTransmissionCompletes
  | clockTimerExpiry
  | freezeTimerExpiry
  | idleTimerExpiry
  | powerOnReset
  | resetnLow
  | longResetnPulse
  | resetnHigh (micros : Nat)
  | startUpEnd
  deriving DecidableEq, Repr

end Sys2Proof
end

