-- ==== Sys2Proof/Config.lean ====
section
/-! DEFINITION. What the part fixes (its times in units and line times) and the free values the manual leaves open. -/

namespace Sys2Proof.Config

/-- Start-up lasts 200 ms (R18, R187). -/
def startUpUnits : Nat := 2000

/-- A RESETn low level of 5 ms is a long pulse (R158). -/
def longPulseUnits : Nat := 50

/-- The same 5 ms in microseconds (R158). -/
def longPulseMicros : Nat := 5000

/-- A RESETn pulse shorter than 20 µs is ignored (R158). -/
def shortPulseMicros : Nat := 20

/-- Microseconds in one unit of 0.1 ms. -/
def unitMicros : Nat := 100

/-- The gap that discards a frame, 5 ms (R177). -/
def gapUnits : Nat := 50

/-- A unit in the common measure of the two line times, 1/2,880,000 s: 10/230,400 s is 125 of them and
10/38,400 s is 750. -/
def unitSubticks : Nat := 288

/-- A byte on a console link, 10 bit times at 230,400 bit/s. -/
def linkByteSubticks : Nat := 125

/-- A byte on the board line, 10 bit times at 38,400 bit/s (R192). -/
def boardByteSubticks : Nat := 750

/-- FREE VALUE (log 3): which of several events that fall due at one deck time is taken first. The spec judges
either order (R40, R84, R103, R161, R175) and gives none. -/
opaque simultaneousChoice : Nat → Nat

/-- FREE VALUE (log 14): whether a FAULT notice of cause CLEARED for pad record `input` at a deck time, the record
having neither service class nor present condition, names PAD_LINE (true) or PAD_STUCK (false); R155 names no class
for it. -/
opaque clearedPadClassIsLine : Nat → DeckTime → Bool

end Sys2Proof.Config
end

