-- ==== Sys2Proof/Machine/State.lean ====
section
/-! DEFINITION. The whole state of the hub as plain data, block by block, the reasons a step can stop, and the state
after a power-on reset. -/

namespace Sys2Proof.Machine

open Sys2Proof

/-- The reasons a step can stop. The spec describes no stop; these two are for terms that are no command of the spec
(log 24). -/
inductive Fault where
  /-- Raised by SENSED_LEVEL_CHANGE: a two-level line is said to show SHORT or OPEN, levels it does not have (8.2).
  Safe: no line of the part can do this. -/
  | levelOfNoSuchBand
  /-- Raised by UNKNOWN_REQUEST: its KIND names a request, so the frame is that request and not an unknown one (R179).
  Safe: such a frame arrives as the request's own row or byte by byte. -/
  | kindNamesARequest
  deriving DecidableEq, Repr

/-- A command without a meaning. -/
inductive Refusal where
  /-- Raised by `exec` in the arm of a command that has no meaning yet. Safe: nothing can be proved of its effect. -/
  | notModelled (mnemonic : String)
  deriving DecidableEq, Repr

/-! ## Names of values (R190) -/

/-- Race states (02, The Race State Machine). -/
inductive RaceState where
  | empty | loaded | marks | running | review | final
  deriving DecidableEq, Repr

/-- The race states in which a heat is current: every state but EMPTY. -/
inductive RacePhase where
  | loaded | marks | running | review | final
  deriving DecidableEq, Repr

/-- Lane states (R45). -/
inductive LaneState where
  | vacant | ready | swimming | collect | finished | released
  deriving DecidableEq, Repr

/-- AUTO or MANUAL, for the lane mode and for the release mode (R1). -/
inductive Mode where
  | auto | manual
  deriving DecidableEq, Repr

/-- LAST or PREVIOUS (R66). -/
inductive Basis where
  | last | previous
  deriving DecidableEq, Repr

/-- BLOCK or WATER (R1). -/
inductive StartKind where
  | block | water
  deriving DecidableEq, Repr

/-- OPEN or VACANT, the use of a lane (R5, R44). `used` is OPEN. -/
inductive LaneUse where
  | used | vacant
  deriving DecidableEq, Repr

/-- Sources of a split entry; those of length N are the finish sources (R58). -/
inductive SplitSource where
  | pad | promoted | none | buttonMedian | buttonMean | buttonSingle | manual
  deriving DecidableEq, Repr

/-- Reasons of a rejection (R59). -/
inductive RejectReason where
  | early | wrongEnd
  deriving DecidableEq, Repr

/-- Causes of an UNJUDGED verdict (R113, R114). -/
inductive UnjudgedCause where
  | noneEntry | platformService | noTakeoff | noFurtherLength
  deriving DecidableEq, Repr

/-- Verdicts of an exchange record (R109). -/
inductive Verdict where
  | pending | ok | early
  | unjudged (cause : UnjudgedCause)
  deriving DecidableEq, Repr

/-- System reasons (R119). -/
inductive Reason where
  | falseStart | exchangeEarly | exchangeUnjudged | discrepant | padMissed | skippedLength
  deriving DecidableEq, Repr

/-- Class modes (R149). -/
inductive ClassMode where
  | off | report | latch | retrySlow | retryFast
  deriving DecidableEq, Repr

/-- Fault classes (R149). -/
inductive FaultClass where
  | padLine | padStuck | platformLine | buttonStuck | startLine | linkFrame
  deriving DecidableEq, Repr

/-- Conditions of a supervised input (R148). `opened` is OPEN. -/
inductive Condition where
  | none | short | opened | stuck
  deriving DecidableEq, Repr

/-- Kinds of discard of a link frame (R154, R177). -/
inductive Discard where
  | crc | length | gap
  deriving DecidableEq, Repr

/-- States of an input's fault record (R148). -/
inductive FaultState where
  | clear | reporting | latched | retryWait | retryTiming
  deriving DecidableEq, Repr

/-- The 39 device parameters, in identifier order (R190). -/
inductive ParamId where
  | touchDeglitch | platformDeglitch | buttonDeglitch | starterDeglitch | lineDeglitch | stuckTime
  | padOffsetA | padOffsetB | slowRetry | fastRetry
  | padLineMode | padStuckMode | platformLineMode | buttonStuckMode | startLineMode | linkFrameMode
  | recallWindow | raceTimeLimit | autoAdvance | advanceDelay
  | clockInterval | idleInterval | freezeHold | idlePattern
  | defaultPoolLength | defaultStartEnd | defaultStartKind | defaultStroke | defaultFirstGuard
  | defaultMinLength | defaultTurnLockout | defaultWindowWeight | defaultBasis | defaultLaneMode
  | defaultCollectTime | defaultBackupTolerance | defaultExchangeAllowance | defaultReleaseMode
  | defaultSplitInterval
  deriving DecidableEq, Repr

/-- Result codes of answers (R179). -/
inductive Result where
  | done | busy | unknownRequest | malformed | invalid | wrongState | laneBusy | held | final | notHeld | already
  | queueFull | queueEmpty | duplicate | notFound | stale | order | lineInService | notFinalLength | legStarted | lastLane
  deriving DecidableEq, Repr

/-- Notice kinds (R181). -/
inductive NoticeKind where
  | started | raceState | queueChange | split | reject | reaction | exchange | finish | placeChange | holdChange
  | release | fault | parameterChanged | recallIgnored
  deriving DecidableEq, Repr

/-- Causes of a RACE_STATE notice (R39). -/
inductive RaceCause where
  | load | marksOn | marksOff | startLine | startRequest | recall | overtime | lastFinish | allReleased | advance
  | advanceTimer | abandon
  deriving DecidableEq, Repr

/-- Causes of a QUEUE_CHANGE notice (R16). -/
inductive QueueCause where
  | staged | withdrawn | loaded
  deriving DecidableEq, Repr

/-- Causes of a HOLD_CHANGE notice (R122). -/
inductive HoldCause where
  | hold | unhold | clear | reasonAdded | reasonRemoved | scratch | recall | disqualify | reinstate
  deriving DecidableEq, Repr

/-- Causes of a FAULT notice (R155). -/
inductive FaultCause where
  | begins | kind | ends | retryExpiry | cleared | mode
  deriving DecidableEq, Repr

/-- Which test of R31 an ignored RECALL failed. -/
inductive RecallTest where
  | window | result
  deriving DecidableEq, Repr

/-- Causes of a reset, carried by STARTED (R187). -/
inductive StartCause where
  | powerOn | resetn
  | resetDevice (link : Link)
  deriving DecidableEq, Repr

/-! ## Heat definitions (01) -/

/-- A heat ID; two are the same when both numbers are equal (R11). -/
structure HeatId where
  event : Word16
  heat : Byte
  deriving DecidableEq, Repr

/-- A segment of a complete definition (R1, R3). -/
structure Segment where
  lengths : Nat
  leg : Nat
  stroke : Nat
  deriving DecidableEq, Repr

/-- A lane assignment (R5). -/
structure Assignment where
  use : LaneUse
  tags : List Word32
  deriving DecidableEq, Repr

/-- A complete heat definition (R1). Times are in units. -/
structure Definition where
  id : HeatId
  lengths : Nat
  poolLength : Nat
  startEnd : End
  startKind : StartKind
  segments : List Segment
  lanes : Vector Assignment 10
  firstGuard : Nat
  minLength : Nat
  turnLockout : Nat
  weight : Nat
  basis : Basis
  laneMode : Mode
  collectTime : Nat
  backupTolerance : Nat
  exchangeAllowance : Nat
  releaseMode : Mode
  splitInterval : Nat
  deriving DecidableEq, Repr

/-- An entry of the heat queue: the definition and the link that staged it (R11). -/
structure QueueEntry where
  definition : Definition
  link : Link
  deriving DecidableEq, Repr

/-! ## The Parameter Table (11.5) -/

/-- The values of the 39 device parameters (R184). Times are in units. -/
structure Params where
  touchDeglitch : Nat
  platformDeglitch : Nat
  buttonDeglitch : Nat
  starterDeglitch : Nat
  lineDeglitch : Nat
  stuckTime : Nat
  padOffsetA : Int
  padOffsetB : Int
  slowRetry : Nat
  fastRetry : Nat
  padLineMode : ClassMode
  padStuckMode : ClassMode
  platformLineMode : ClassMode
  buttonStuckMode : ClassMode
  startLineMode : ClassMode
  linkFrameMode : ClassMode
  recallWindow : Nat
  raceTimeLimit : Nat
  autoAdvance : Bool
  advanceDelay : Nat
  clockInterval : Nat
  idleInterval : Nat
  freezeHold : Nat
  idlePattern : Nat
  defaultPoolLength : Nat
  defaultStartEnd : End
  defaultStartKind : StartKind
  defaultStroke : Nat
  defaultFirstGuard : Nat
  defaultMinLength : Nat
  defaultTurnLockout : Nat
  defaultWindowWeight : Nat
  defaultBasis : Basis
  defaultLaneMode : Mode
  defaultCollectTime : Nat
  defaultBackupTolerance : Nat
  defaultExchangeAllowance : Nat
  defaultReleaseMode : Mode
  defaultSplitInterval : Nat
  deriving DecidableEq, Repr

/-! ## Lane records (03) -/

/-- A lane's timing (R51). -/
structure LaneTiming where
  mode : Mode
  weight : Nat
  basis : Basis
  deriving DecidableEq, Repr

/-- Pending timing: up to three fields (R53). -/
structure PendingTiming where
  mode : Option Mode
  weight : Option Nat
  basis : Option Basis
  deriving DecidableEq, Repr

/-- The expectation of a SWIMMING lane (R65). Times are race times in units. -/
structure Expectation where
  length : Nat
  finish : End
  reference : Nat
  window : Nat
  deriving DecidableEq, Repr

/-- An entry of the split list (R58). -/
structure SplitEntry where
  length : Nat
  finish : End
  leg : Nat
  time : Option Nat
  source : SplitSource
  deriving DecidableEq, Repr

/-- An entry of the rejected list (R59). -/
structure RejectedEntry where
  number : Nat
  time : Nat
  finish : End
  reason : RejectReason
  expected : Nat
  deriving DecidableEq, Repr

/-- The collection record of a lane in COLLECT (R86). -/
structure Collection where
  opening : Nat
  pad : Option Nat
  one : Option Nat
  two : Option Nat
  three : Option Nat
  deriving DecidableEq, Repr

/-- The reaction record of a BLOCK start (R105). `arming` is a deck time; `armed` says whether the start-end platform
is still armed for it (R104, R108). -/
structure Reaction where
  arming : DeckTime
  release : Option Nat
  reaction : Option Nat
  early : Bool
  unmeasured : Bool
  armed : Bool
  deriving DecidableEq, Repr

/-- The exchange record for leg `leg` (R109). -/
structure Exchange where
  leg : Nat
  finish : End
  arming : Option Nat
  touch : Option Nat
  release : Option Nat
  margin : Option Int
  verdict : Verdict
  deriving DecidableEq, Repr

/-- The result core: outcome TIME with its official time, finish source, backup value and replaced time, or outcome
NO_FINISH, which has none of them (R55, R91). -/
inductive ResultCore where
  | time (official : Nat) (source : SplitSource) (backup : Option Nat) (replaced : Option Nat)
  | noFinish
  deriving DecidableEq, Repr

/-- A lane record (R42); its lane number is its place among the ten, its use is computed from its state (R44). -/
structure Lane where
  state : LaneState
  tags : List Word32
  leg : Option Nat
  timing : LaneTiming
  pendingTiming : Option PendingTiming
  expectation : Option Expectation
  d1 : Option Nat
  d2 : Option Nat
  splits : List SplitEntry
  rejected : List RejectedEntry
  rejections : Nat
  collection : Option Collection
  reaction : Option Reaction
  exchanges : List Exchange
  result : Option ResultCore
  deriving DecidableEq, Repr

/-! ## The Result Desk (07) -/

/-- The set of reasons SYSTEM carries; SYSTEM is in the hold set exactly when one stands (R119). -/
structure ReasonSet where
  falseStart : Bool
  exchangeEarly : Bool
  exchangeUnjudged : Bool
  discrepant : Bool
  padMissed : Bool
  skippedLength : Bool
  deriving DecidableEq, Repr

/-- A hold set (R119). -/
structure HoldSet where
  cl0 : Bool
  cl1 : Bool
  cl2 : Bool
  reasons : ReasonSet
  deriving DecidableEq, Repr

/-- What the RDK keeps for one lane: hold set, DQ mark and place (07, 05). -/
structure Desk where
  hold : HoldSet
  dq : Option Byte
  place : Option Nat
  deriving DecidableEq, Repr

/-! ## The race (02) -/

/-- A timer with the deck time it was started at and the time it runs for. -/
structure Timer where
  start : DeckTime
  limit : Nat
  deriving DecidableEq, Repr

/-- The current race: everything that exists exactly while a heat is loaded (R21, R42, R119). `overtimeTimer` says
whether the overtime timer runs (its start is the start deck time, R33); `advance` is advance pending with its timer
(R24). -/
structure Heat where
  definition : Definition
  phase : RacePhase
  startTime : Option DeckTime
  stopTime : Option Nat
  recalls : Nat
  overtimeFlag : Bool
  overtimeTimer : Bool
  advance : Option Timer
  lanes : Vector Lane 10
  desks : Vector Desk 10
  placing : List LaneNo
  deriving DecidableEq, Repr

/-! ## Deck inputs and supervision (08, 09) -/

/-- A level the line has moved to and the deck time of the move (R135). -/
structure Candidate where
  level : Level
  since : DeckTime
  deriving DecidableEq, Repr

/-- The stuck timer: stopped, running since the counted-level beginning, or expired with STUCK reported (R143). -/
inductive StuckTimer where
  | stopped | running | expired
  deriving DecidableEq, Repr

/-- A line decoder (R135); its line condition is computed from the counted level (R142). -/
structure Decoder where
  sensed : Level
  counted : Level
  since : DeckTime
  candidate : Option Candidate
  stuck : StuckTimer
  deriving DecidableEq, Repr

/-- The fault record of a supervised input (R148); in service is computed from the state. -/
structure FaultRecord where
  state : FaultState
  present : Condition
  last : Option Condition
  seen : Bool
  serviceClass : Option FaultClass
  retryStart : Option DeckTime
  deriving DecidableEq, Repr

/-- The fault record of a link: its state is always CLEAR and it is always in service (R154). -/
structure LinkFault where
  last : Option Discard
  seen : Bool
  deriving DecidableEq, Repr

/-! ## Notices (R181) -/

/-- What a PROMOTED entry's SPLIT notice carries beside it (R80). -/
structure Promotion where
  link : Link
  number : Nat
  deriving DecidableEq, Repr

/-- A condition as a FAULT notice or READ FAULTS names it: one of an input or a link's discard (R190). -/
inductive LastCondition where
  | input (c : Condition)
  | link (d : Discard)
  deriving DecidableEq, Repr

/-- The content of a FAULT notice (R155); `record` is a fault record number (R190). -/
structure FaultNotice where
  record : Nat
  cls : FaultClass
  cause : FaultCause
  state : FaultState
  inService : Bool
  present : Condition
  last : Option LastCondition
  seen : Bool
  time : DeckTime
  link : Option Link
  deriving DecidableEq, Repr

/-- A notice with its content, fixed when it is raised (R181). -/
inductive Notice where
  | started (cause : StartCause)
  | raceState (state : RaceState) (cause : RaceCause) (link : Option Link) (id : Option HeatId) (recalls : Nat)
      (start : Option DeckTime) (stop : Option Nat)
  | queueChange (cause : QueueCause) (id : HeatId) (link : Option Link) (count : Nat)
  | split (lane : LaneNo) (entry : SplitEntry) (promotion : Option Promotion)
  | reject (lane : LaneNo) (entry : RejectedEntry) (pushed : Option Nat)
  | reaction (lane : LaneNo) (early : Bool) (unmeasured : Bool) (capture : Option DeckTime) (release : Option Nat)
      (reaction : Option Nat)
  | exchange (lane : LaneNo) (record : Exchange)
  | finish (lane : LaneNo) (core : ResultCore) (link : Option Link)
  | placeChange (lane : LaneNo) (before : Option Nat) (after : Option Nat) (official : Nat)
  | holdChange (lane : LaneNo) (cause : HoldCause) (link : Option Link) (hold : HoldSet) (dq : Option Byte)
  | release (lane : LaneNo) (core : ResultCore) (place : Option Nat) (dq : Option Byte) (cause : Option Link)
  | fault (content : FaultNotice)
  | parameterChanged (param : ParamId) (old : Int) (new : Int) (link : Link)
  | recallIgnored (state : RaceState) (time : Nat) (test : Option RecallTest)
  deriving DecidableEq, Repr

/-- A queued notice with its LOST mark (R182). -/
structure QueuedNotice where
  lost : Bool
  notice : Notice
  deriving DecidableEq, Repr

/-- An answer frame: TAG, KIND, result and the bytes after the result (R179, R191). -/
structure Answer where
  tag : Byte
  kind : Byte
  result : Result
  data : List Byte
  deriving DecidableEq, Repr

/-! ## Console Link Units (11) -/

/-- The receive framer (R176, R177): in FRAME its buffer and the deck time of its last byte, from which the gap timer
runs. -/
inductive Framer where
  | hunt
  | frame (buffer : List Byte) (last : DeckTime)
  deriving DecidableEq, Repr

/-- What a link transmitter sends. -/
inductive LinkFrame where
  | answer (a : Answer)
  | notice (n : QueuedNotice)
  deriving DecidableEq, Repr

/-- A frame in flight on a link and the line time it still takes, in 1/288 of a unit (R180). -/
structure LinkFlight where
  frame : LinkFrame
  left : Nat
  deriving DecidableEq, Repr

/-- A Console Link Unit (R187's table). The transmitter is QUIET when `flight` is absent. -/
structure Clu where
  framer : Framer
  unanswered : Nat
  answers : List Answer
  notices : List QueuedNotice
  lost : Bool
  mask : List NoticeKind
  flight : Option LinkFlight
  deriving DecidableEq, Repr

/-- One thing for each of the three links. -/
structure PerLink (α : Type) where
  cl0 : α
  cl1 : α
  cl2 : α
  deriving DecidableEq, Repr

/-! ## The Board Transmitter (10) -/

/-- Race events shown on the board (R164). -/
inductive EventCode where
  | start | recall | abandon | overtime | final
  deriving DecidableEq, Repr

/-- An item of the event list, its content fixed when it joins (R164). -/
structure EventItem where
  code : EventCode
  id : HeatId
  value : Nat
  deriving DecidableEq, Repr

/-- Status of a LANE frame (R168). -/
inductive LaneStatus where
  | vacant | ready | swimming | dq | provisional | official | noFinish
  deriving DecidableEq, Repr

/-- The content of a LANE frame (R168). `legAndTag` is the current leg with its entrant tag. -/
structure LaneFrame where
  lane : LaneNo
  status : LaneStatus
  completed : Nat
  time : Option Nat
  place : Option Nat
  legAndTag : Option (Nat × Word32)
  deriving DecidableEq, Repr

/-- The content of a HEADER frame (R165). -/
structure HeaderFrame where
  id : HeatId
  distance : Nat
  legs : Nat
  stroke : Nat
  openLanes : List LaneNo
  deriving DecidableEq, Repr

/-- A board frame (R192). -/
inductive BoardFrame where
  | event (item : EventItem)
  | header (content : HeaderFrame)
  | clock (hundredths : Nat) (frozen : Bool)
  | lane (content : LaneFrame)
  | idle (pattern : Nat)
  deriving DecidableEq, Repr

/-- Board frame kinds (R192). -/
inductive FrameKind where
  | event | header | clock | lane | idle
  deriving DecidableEq, Repr

/-- A board frame in flight and the line time it still takes, in 1/288 of a unit (R162). -/
structure BoardFlight where
  frame : BoardFrame
  left : Nat
  deriving DecidableEq, Repr

/-- A running clock freeze: its timer and the frozen time in hundredths (R170). -/
structure Freeze where
  timer : Timer
  frozen : Nat
  deriving DecidableEq, Repr

/-- The Board Transmitter (R174's table). The transmitter is QUIET when `flight` is absent. -/
structure Board where
  flight : Option BoardFlight
  lastKind : Option FrameKind
  events : List EventItem
  headerPending : Bool
  laneQueue : List LaneNo
  clockDue : Bool
  clockTimer : Option Timer
  freeze : Option Freeze
  freezeUsed : Bool
  idleDue : Bool
  idleTimer : Option Timer
  deriving DecidableEq, Repr

/-! ## The device -/

/-- Whether the hub runs, is in start-up with so many units left, or is held in reset by RESETn (R187). -/
inductive Phase where
  | running
  | startUp (left : Nat) (cause : StartCause)
  | held
  deriving DecidableEq, Repr

/-- The state of the hub. `decoders` are numbered as the lines are by R134, MARKS 71 and RECALL 72; `faults` as the
inputs are. `choices` counts the free choices made (log 3). `pending` is the queue of waiting commands. -/
structure State where
  phase : Phase
  deckTime : DeckTime
  resetn : Option Nat
  resetPending : Option Link
  params : Params
  queue : List QueueEntry
  heat : Option Heat
  decoders : Vector Decoder 73
  faults : Vector FaultRecord 71
  linkFaults : PerLink LinkFault
  board : Board
  links : PerLink Clu
  choices : Nat
  pending : List Instr
  deriving DecidableEq, Repr

/-! ## Reset values -/

/-- The defaults of the parameters (the table of 11.5 and Definition Defaults). -/
def Params.default : Params where
  touchDeglitch := 20
  platformDeglitch := 100
  buttonDeglitch := 50
  starterDeglitch := 10
  lineDeglitch := 500
  stuckTime := 50000
  padOffsetA := 0
  padOffsetB := 0
  slowRetry := 50000
  fastRetry := 5000
  padLineMode := .retrySlow
  padStuckMode := .retryFast
  platformLineMode := .retrySlow
  buttonStuckMode := .retryFast
  startLineMode := .latch
  linkFrameMode := .report
  recallWindow := 300000
  raceTimeLimit := 36000000
  autoAdvance := false
  advanceDelay := 300000
  clockInterval := 1000
  idleInterval := 5000
  freezeHold := 50000
  idlePattern := 0x0055
  defaultPoolLength := 50
  defaultStartEnd := .a
  defaultStartKind := .block
  defaultStroke := 0
  defaultFirstGuard := 70000
  defaultMinLength := 70000
  defaultTurnLockout := 15000
  defaultWindowWeight := 20
  defaultBasis := .last
  defaultLaneMode := .auto
  defaultCollectTime := 30000
  defaultBackupTolerance := 3000
  defaultExchangeAllowance := 300
  defaultReleaseMode := .auto
  defaultSplitInterval := 1

/-- A fault record after reset (R148). -/
def FaultRecord.reset : FaultRecord where
  state := .clear
  present := .none
  last := none
  seen := false
  serviceClass := none
  retryStart := none

/-- A decoder before the end of start-up, on a line at the level `sensed` (R145; log 7 for the level itself). -/
def Decoder.reset (sensed : Level) : Decoder where
  sensed := sensed
  counted := .idle
  since := 0
  candidate := none
  stuck := .stopped

/-- The Board Transmitter during start-up (R174). -/
def Board.reset : Board where
  flight := none
  lastKind := none
  events := []
  headerPending := false
  laneQueue := []
  clockDue := false
  clockTimer := none
  freeze := none
  freezeUsed := false
  idleDue := false
  idleTimer := none

/-- The thirteen kinds a mask may admit, in code order (R183). -/
def NoticeKind.maskable : List NoticeKind :=
  [.raceState, .queueChange, .split, .reject, .reaction, .exchange, .finish, .placeChange, .holdChange, .release,
    .fault, .parameterChanged, .recallIgnored]

/-- A Console Link Unit during start-up, with the mask it holds (R187). -/
def Clu.reset (mask : List NoticeKind) : Clu where
  framer := .hunt
  unanswered := 0
  answers := []
  notices := []
  lost := false
  mask := mask
  flight := none

/-- The hub right after a power-on reset: start-up begins (R187, log 6). -/
def State.reset : State where
  phase := .startUp Config.startUpUnits .powerOn
  deckTime := 0
  resetn := none
  resetPending := none
  params := Params.default
  queue := []
  heat := none
  decoders := Vector.replicate 73 (Decoder.reset .idle)
  faults := Vector.replicate 71 FaultRecord.reset
  linkFaults := ⟨⟨none, false⟩, ⟨none, false⟩, ⟨none, false⟩⟩
  board := Board.reset
  links := ⟨Clu.reset NoticeKind.maskable, Clu.reset NoticeKind.maskable, Clu.reset NoticeKind.maskable⟩
  choices := 0
  pending := []

end Sys2Proof.Machine
end

