-- ==== Sys2Proof/Machine/Codes.lean ====
section
/-! DEFINITION. The codes of the enumerations and the bit sets of link bodies, both ways (R190), and the numbering of
the deck lines (R134). -/

namespace Sys2Proof

/-! ## Links, ends, levels and lines -/

def Link.code : Link → Nat
  | .cl0 => 0 | .cl1 => 1 | .cl2 => 2

/-- 0xFF stands for no link (R190). -/
def Link.optCode : Option Link → Nat
  | none => 0xFF
  | some l => l.code

def End.code : End → Nat
  | .a => 0 | .b => 1

def Level.code : Level → Nat
  | .short => 0 | .active => 1 | .idle => 2 | .opened => 3

/-- The opposite wall. -/
def End.other : End → End
  | .a => .b
  | .b => .a

/-- The decoder of a line: the input numbers of R134, then MARKS and RECALL. -/
def Line.index : Line → Fin 73
  | .pad .a n => ⟨n.val, by omega⟩
  | .pad .b n => ⟨10 + n.val, by omega⟩
  | .platform .a n => ⟨20 + n.val, by omega⟩
  | .platform .b n => ⟨30 + n.val, by omega⟩
  | .button n .one => ⟨40 + 3 * n.val, by omega⟩
  | .button n .two => ⟨41 + 3 * n.val, by omega⟩
  | .button n .three => ⟨42 + 3 * n.val, by omega⟩
  | .start => 70
  | .marks => 71
  | .recall => 72

/-- The input number of a supervised line; MARKS and RECALL have none (R134). -/
def Line.input (l : Line) : Option (Fin 71) :=
  if h : l.index.val < 71 then some ⟨l.index.val, h⟩ else none

/-- The line of an input number (R134). -/
def lineOfInput (i : Fin 71) : Line :=
  if i.val < 10 then .pad .a (Fin.ofNat 10 i.val)
  else if i.val < 20 then .pad .b (Fin.ofNat 10 (i.val - 10))
  else if i.val < 30 then .platform .a (Fin.ofNat 10 (i.val - 20))
  else if i.val < 40 then .platform .b (Fin.ofNat 10 (i.val - 30))
  else if i.val < 70 then
    .button (Fin.ofNat 10 ((i.val - 40) / 3))
      (if (i.val - 40) % 3 = 0 then .one else if (i.val - 40) % 3 = 1 then .two else .three)
  else .start

/-- Every deck line, in the order of its decoder. -/
def allLines : List Line := (List.finRange 71).map lineOfInput ++ [.marks, .recall]

/-- Pads, platforms and START have four-level decoders; buttons, MARKS and RECALL two-level ones (R134). -/
def Line.fourLevel : Line → Bool
  | .pad _ _ => true
  | .platform _ _ => true
  | .start => true
  | .button _ _ => false
  | .marks => false
  | .recall => false

/-- Pad and button decoders have a stuck timer (R143). -/
def Line.hasStuckTimer : Line → Bool
  | .pad _ _ => true
  | .button _ _ => true
  | .platform _ _ => false
  | .start => false
  | .marks => false
  | .recall => false

/-- SHORT and OPEN are the fault levels (8.2). -/
def Level.isFault : Level → Bool
  | .short => true
  | .opened => true
  | .active => false
  | .idle => false

end Sys2Proof

namespace Sys2Proof.Machine

open Sys2Proof

/-! ## Codes sent (R190) -/

/-- A number in one byte. -/
def byteOf (n : Nat) : Byte := BitVec.ofNat 8 n

def RaceState.code : RaceState → Nat
  | .empty => 0 | .loaded => 1 | .marks => 2 | .running => 3 | .review => 4 | .final => 5

def LaneState.code : LaneState → Nat
  | .vacant => 0 | .ready => 1 | .swimming => 2 | .collect => 3 | .finished => 4 | .released => 5

def Mode.code : Mode → Nat
  | .auto => 0 | .manual => 1

def Basis.code : Basis → Nat
  | .last => 0 | .previous => 1

def StartKind.code : StartKind → Nat
  | .block => 0 | .water => 1

def LaneUse.code : LaneUse → Nat
  | .used => 0 | .vacant => 1

def SplitSource.code : SplitSource → Nat
  | .pad => 0 | .promoted => 1 | .none => 2 | .buttonMedian => 3 | .buttonMean => 4 | .buttonSingle => 5 | .manual => 6

def RejectReason.code : RejectReason → Nat
  | .early => 0 | .wrongEnd => 1

def UnjudgedCause.code : UnjudgedCause → Nat
  | .noneEntry => 0 | .platformService => 1 | .noTakeoff => 2 | .noFurtherLength => 3

def Verdict.code : Verdict → Nat
  | .pending => 0 | .ok => 1 | .early => 2 | .unjudged _ => 3

def Reason.code : Reason → Nat
  | .falseStart => 0 | .exchangeEarly => 1 | .exchangeUnjudged => 2 | .discrepant => 3 | .padMissed => 4
  | .skippedLength => 5

def ClassMode.code : ClassMode → Nat
  | .off => 0 | .report => 1 | .latch => 2 | .retrySlow => 3 | .retryFast => 4

def FaultClass.code : FaultClass → Nat
  | .padLine => 0 | .padStuck => 1 | .platformLine => 2 | .buttonStuck => 3 | .startLine => 4 | .linkFrame => 5

def Condition.code : Condition → Nat
  | .none => 0 | .short => 1 | .opened => 2 | .stuck => 3

def Discard.code : Discard → Nat
  | .crc => 4 | .length => 5 | .gap => 6

/-- 0xFF for an absent last condition (R190). -/
def LastCondition.optCode : Option LastCondition → Nat
  | none => 0xFF
  | some (.input c) => c.code
  | some (.link d) => d.code

def FaultState.code : FaultState → Nat
  | .clear => 0 | .reporting => 1 | .latched => 2 | .retryWait => 3 | .retryTiming => 4

def Result.code : Result → Nat
  | .done => 0 | .busy => 1 | .unknownRequest => 2 | .malformed => 3 | .invalid => 4 | .wrongState => 5
  | .laneBusy => 6 | .held => 7 | .final => 8 | .notHeld => 9 | .already => 10 | .queueFull => 11 | .queueEmpty => 12
  | .duplicate => 13 | .notFound => 14 | .stale => 15 | .order => 16 | .lineInService => 17 | .notFinalLength => 18
  | .legStarted => 19 | .lastLane => 20

/-- Notice codes run from STARTED at 0x40 (R189). -/
def NoticeKind.code : NoticeKind → Nat
  | .started => 0x40 | .raceState => 0x41 | .queueChange => 0x42 | .split => 0x43 | .reject => 0x44
  | .reaction => 0x45 | .exchange => 0x46 | .finish => 0x47 | .placeChange => 0x48 | .holdChange => 0x49
  | .release => 0x4A | .fault => 0x4B | .parameterChanged => 0x4C | .recallIgnored => 0x4D

def RaceCause.code : RaceCause → Nat
  | .load => 0 | .marksOn => 1 | .marksOff => 2 | .startLine => 3 | .startRequest => 4 | .recall => 5 | .overtime => 6
  | .lastFinish => 7 | .allReleased => 8 | .advance => 9 | .advanceTimer => 10 | .abandon => 11

def QueueCause.code : QueueCause → Nat
  | .staged => 0 | .withdrawn => 1 | .loaded => 2

def HoldCause.code : HoldCause → Nat
  | .hold => 0 | .unhold => 1 | .clear => 2 | .reasonAdded => 3 | .reasonRemoved => 4 | .scratch => 5 | .recall => 6
  | .disqualify => 7 | .reinstate => 8

def FaultCause.code : FaultCause → Nat
  | .begins => 0 | .kind => 1 | .ends => 2 | .retryExpiry => 3 | .cleared => 4 | .mode => 5

def RecallTest.code : RecallTest → Nat
  | .window => 0 | .result => 1

def StartCause.code : StartCause → Nat
  | .powerOn => 0 | .resetn => 1 | .resetDevice _ => 2

/-- Board event codes (R192). -/
def EventCode.code : EventCode → Nat
  | .start => 0 | .recall => 1 | .abandon => 2 | .overtime => 3 | .final => 4

/-- Board frame kinds (R192). -/
def FrameKind.code : FrameKind → Nat
  | .event => 1 | .header => 2 | .clock => 3 | .lane => 4 | .idle => 5

/-- LANE status codes, in the order of R168 (R192). -/
def LaneStatus.code : LaneStatus → Nat
  | .vacant => 0 | .ready => 1 | .swimming => 2 | .dq => 3 | .provisional => 4 | .official => 5 | .noFinish => 6

/-- The parameters in identifier order, TouchDeglitch 0 to DefaultSplitInterval 38 (R190). -/
def ParamId.all : List ParamId :=
  [.touchDeglitch, .platformDeglitch, .buttonDeglitch, .starterDeglitch, .lineDeglitch, .stuckTime, .padOffsetA,
    .padOffsetB, .slowRetry, .fastRetry, .padLineMode, .padStuckMode, .platformLineMode, .buttonStuckMode,
    .startLineMode, .linkFrameMode, .recallWindow, .raceTimeLimit, .autoAdvance, .advanceDelay, .clockInterval,
    .idleInterval, .freezeHold, .idlePattern, .defaultPoolLength, .defaultStartEnd, .defaultStartKind, .defaultStroke,
    .defaultFirstGuard, .defaultMinLength, .defaultTurnLockout, .defaultWindowWeight, .defaultBasis, .defaultLaneMode,
    .defaultCollectTime, .defaultBackupTolerance, .defaultExchangeAllowance, .defaultReleaseMode,
    .defaultSplitInterval]

/-- A parameter's identifier: its place in `ParamId.all` (R190). -/
def ParamId.code (p : ParamId) : Nat := ParamId.all.idxOf p

/-- Request codes (R189), in the order of the table there. -/
def requestKinds : List Byte := (List.range 28).map fun i => byteOf (i + 1)

/-! ## Codes received (R190): a code beyond the last value of its list is none of them -/

def endOfCode (b : Byte) : Option End :=
  match b.toNat with
  | 0 => some .a
  | 1 => some .b
  | _ => none

def modeOfCode (b : Byte) : Option Mode :=
  match b.toNat with
  | 0 => some .auto
  | 1 => some .manual
  | _ => none

def basisOfCode (b : Byte) : Option Basis :=
  match b.toNat with
  | 0 => some .last
  | 1 => some .previous
  | _ => none

def startKindOfCode (b : Byte) : Option StartKind :=
  match b.toNat with
  | 0 => some .block
  | 1 => some .water
  | _ => none

def laneUseOfCode (b : Byte) : Option LaneUse :=
  match b.toNat with
  | 0 => some .used
  | 1 => some .vacant
  | _ => none

def classModeOfCode : Nat → Option ClassMode
  | 0 => some .off
  | 1 => some .report
  | 2 => some .latch
  | 3 => some .retrySlow
  | 4 => some .retryFast
  | _ => none

/-- A parameter identifier; outside the 39 it is none (R184). -/
def paramOfCode (b : Byte) : Option ParamId := ParamId.all[b.toNat]?

/-- A lane number; outside 0 to 9 the body is malformed (R47, R123). -/
def laneOfByte (b : Byte) : Option LaneNo :=
  if h : b.toNat < 10 then some ⟨b.toNat, h⟩ else none

end Sys2Proof.Machine
end

