-- ==== Sys2Proof/Machine/Parameters.lean ====
section
/-! DEFINITION. The Parameter Table: the value of each parameter as the links carry it, its range, writing one, and
reading modes and times out of the table (11.5, R184, R185). -/

namespace Sys2Proof.Machine

open Sys2Proof

/-- OFF 0, ON 1 (R190). -/
def onOffCode (b : Bool) : Nat := if b then 1 else 0

/-- The value a parameter holds, an enumerated one as its code (R190). -/
def Params.value (p : Params) : ParamId → Int
  | .touchDeglitch => p.touchDeglitch
  | .platformDeglitch => p.platformDeglitch
  | .buttonDeglitch => p.buttonDeglitch
  | .starterDeglitch => p.starterDeglitch
  | .lineDeglitch => p.lineDeglitch
  | .stuckTime => p.stuckTime
  | .padOffsetA => p.padOffsetA
  | .padOffsetB => p.padOffsetB
  | .slowRetry => p.slowRetry
  | .fastRetry => p.fastRetry
  | .padLineMode => p.padLineMode.code
  | .padStuckMode => p.padStuckMode.code
  | .platformLineMode => p.platformLineMode.code
  | .buttonStuckMode => p.buttonStuckMode.code
  | .startLineMode => p.startLineMode.code
  | .linkFrameMode => p.linkFrameMode.code
  | .recallWindow => p.recallWindow
  | .raceTimeLimit => p.raceTimeLimit
  | .autoAdvance => onOffCode p.autoAdvance
  | .advanceDelay => p.advanceDelay
  | .clockInterval => p.clockInterval
  | .idleInterval => p.idleInterval
  | .freezeHold => p.freezeHold
  | .idlePattern => p.idlePattern
  | .defaultPoolLength => p.defaultPoolLength
  | .defaultStartEnd => p.defaultStartEnd.code
  | .defaultStartKind => p.defaultStartKind.code
  | .defaultStroke => p.defaultStroke
  | .defaultFirstGuard => p.defaultFirstGuard
  | .defaultMinLength => p.defaultMinLength
  | .defaultTurnLockout => p.defaultTurnLockout
  | .defaultWindowWeight => p.defaultWindowWeight
  | .defaultBasis => p.defaultBasis.code
  | .defaultLaneMode => p.defaultLaneMode.code
  | .defaultCollectTime => p.defaultCollectTime
  | .defaultBackupTolerance => p.defaultBackupTolerance
  | .defaultExchangeAllowance => p.defaultExchangeAllowance
  | .defaultReleaseMode => p.defaultReleaseMode.code
  | .defaultSplitInterval => p.defaultSplitInterval

/-- The largest code of an enumerated parameter; a code beyond it makes SET PARAMETER malformed (R184). -/
def ParamId.lastCode : ParamId → Option Nat
  | .padLineMode | .padStuckMode | .platformLineMode | .buttonStuckMode | .startLineMode | .linkFrameMode => some 4
  | .autoAdvance | .defaultStartEnd | .defaultStartKind | .defaultBasis | .defaultLaneMode | .defaultReleaseMode =>
      some 1
  | _ => none

/-- The range of a parameter, both ends included (the table of 11.5; R1 for the defaults). -/
def ParamId.range : ParamId → Int × Int
  | .touchDeglitch => (5, 200)
  | .platformDeglitch => (10, 500)
  | .buttonDeglitch => (10, 500)
  | .starterDeglitch => (5, 100)
  | .lineDeglitch => (100, 5000)
  | .stuckTime => (10000, 300000)
  | .padOffsetA => (-127, 127)
  | .padOffsetB => (-127, 127)
  | .slowRetry => (10000, 600000)
  | .fastRetry => (1000, 50000)
  | .padLineMode => (0, 4)
  | .padStuckMode => (0, 4)
  | .platformLineMode => (0, 4)
  | .buttonStuckMode => (0, 4)
  | .startLineMode => (0, 4)
  | .linkFrameMode => (0, 1)
  | .recallWindow => (0, 1200000)
  | .raceTimeLimit => (600000, 59400000)
  | .autoAdvance => (0, 1)
  | .advanceDelay => (0, 6000000)
  | .clockInterval => (500, 10000)
  | .idleInterval => (1000, 50000)
  | .freezeHold => (0, 300000)
  | .idlePattern => (0, 0xFFFF)
  | .defaultPoolLength => (25, 50)
  | .defaultStartEnd => (0, 1)
  | .defaultStartKind => (0, 1)
  | .defaultStroke => (0, 7)
  | .defaultFirstGuard => (30000, 600000)
  | .defaultMinLength => (30000, 600000)
  | .defaultTurnLockout => (5000, 50000)
  | .defaultWindowWeight => (1, 31)
  | .defaultBasis => (0, 1)
  | .defaultLaneMode => (0, 1)
  | .defaultCollectTime => (10000, 100000)
  | .defaultBackupTolerance => (100, 20000)
  | .defaultExchangeAllowance => (0, 2000)
  | .defaultReleaseMode => (0, 1)
  | .defaultSplitInterval => (1, 8)

/-- Whether a value lies within a parameter's range; a pool length is 25 m or 50 m and nothing between (R10). -/
def ParamId.admits (p : ParamId) (v : Int) : Bool :=
  match p with
  | .defaultPoolLength => v == 25 || v == 50
  | p => decide (p.range.1 ≤ v) && decide (v ≤ p.range.2)

/-- The value four received bytes carry: two's complement for the pad offsets, unsigned for the rest (R190). -/
def ParamId.received (p : ParamId) (w : Word32) : Int :=
  match p with
  | .padOffsetA | .padOffsetB => w.toInt
  | _ => (w.toNat : Int)

/-- The end, mode, basis, start kind or class mode of a code within its set. -/
def endOfValue (v : Int) : End := if v = 0 then .a else .b
def modeOfValue (v : Int) : Mode := if v = 0 then .auto else .manual
def basisOfValue (v : Int) : Basis := if v = 0 then .last else .previous
def startKindOfValue (v : Int) : StartKind := if v = 0 then .block else .water
def classModeOfValue (v : Int) : ClassMode := (classModeOfCode v.toNat).getD .off

/-- The table with one parameter written (R184). -/
def Params.write (p : Params) (i : ParamId) (v : Int) : Params :=
  match i with
  | .touchDeglitch => { p with touchDeglitch := v.toNat }
  | .platformDeglitch => { p with platformDeglitch := v.toNat }
  | .buttonDeglitch => { p with buttonDeglitch := v.toNat }
  | .starterDeglitch => { p with starterDeglitch := v.toNat }
  | .lineDeglitch => { p with lineDeglitch := v.toNat }
  | .stuckTime => { p with stuckTime := v.toNat }
  | .padOffsetA => { p with padOffsetA := v }
  | .padOffsetB => { p with padOffsetB := v }
  | .slowRetry => { p with slowRetry := v.toNat }
  | .fastRetry => { p with fastRetry := v.toNat }
  | .padLineMode => { p with padLineMode := classModeOfValue v }
  | .padStuckMode => { p with padStuckMode := classModeOfValue v }
  | .platformLineMode => { p with platformLineMode := classModeOfValue v }
  | .buttonStuckMode => { p with buttonStuckMode := classModeOfValue v }
  | .startLineMode => { p with startLineMode := classModeOfValue v }
  | .linkFrameMode => { p with linkFrameMode := classModeOfValue v }
  | .recallWindow => { p with recallWindow := v.toNat }
  | .raceTimeLimit => { p with raceTimeLimit := v.toNat }
  | .autoAdvance => { p with autoAdvance := v != 0 }
  | .advanceDelay => { p with advanceDelay := v.toNat }
  | .clockInterval => { p with clockInterval := v.toNat }
  | .idleInterval => { p with idleInterval := v.toNat }
  | .freezeHold => { p with freezeHold := v.toNat }
  | .idlePattern => { p with idlePattern := v.toNat }
  | .defaultPoolLength => { p with defaultPoolLength := v.toNat }
  | .defaultStartEnd => { p with defaultStartEnd := endOfValue v }
  | .defaultStartKind => { p with defaultStartKind := startKindOfValue v }
  | .defaultStroke => { p with defaultStroke := v.toNat }
  | .defaultFirstGuard => { p with defaultFirstGuard := v.toNat }
  | .defaultMinLength => { p with defaultMinLength := v.toNat }
  | .defaultTurnLockout => { p with defaultTurnLockout := v.toNat }
  | .defaultWindowWeight => { p with defaultWindowWeight := v.toNat }
  | .defaultBasis => { p with defaultBasis := basisOfValue v }
  | .defaultLaneMode => { p with defaultLaneMode := modeOfValue v }
  | .defaultCollectTime => { p with defaultCollectTime := v.toNat }
  | .defaultBackupTolerance => { p with defaultBackupTolerance := v.toNat }
  | .defaultExchangeAllowance => { p with defaultExchangeAllowance := v.toNat }
  | .defaultReleaseMode => { p with defaultReleaseMode := modeOfValue v }
  | .defaultSplitInterval => { p with defaultSplitInterval := v.toNat }

/-- The mode of a fault class, read live (R149). -/
def Params.mode (p : Params) : FaultClass → ClassMode
  | .padLine => p.padLineMode
  | .padStuck => p.padStuckMode
  | .platformLine => p.platformLineMode
  | .buttonStuck => p.buttonStuckMode
  | .startLine => p.startLineMode
  | .linkFrame => p.linkFrameMode

/-- The class whose mode a parameter is (R149). -/
def ParamId.faultClass : ParamId → Option FaultClass
  | .padLineMode => some .padLine
  | .padStuckMode => some .padStuck
  | .platformLineMode => some .platformLine
  | .buttonStuckMode => some .buttonStuck
  | .startLineMode => some .startLine
  | .linkFrameMode => some .linkFrame
  | _ => none

/-- The time a record whose class is in this mode spends in RETRY_TIMING (R153); only a RETRY mode has one. -/
def Params.retryTime (p : Params) : ClassMode → Option Nat
  | .retrySlow => some p.slowRetry
  | .retryFast => some p.fastRetry
  | .off | .report | .latch => none

/-- The correction of pad touches at an end (R141). -/
def Params.padOffset (p : Params) : End → Int
  | .a => p.padOffsetA
  | .b => p.padOffsetB

/-- The parameter that deglitches a change of a line between two levels (R136, R137). -/
def deglitchParam (l : Line) (old new : Level) : ParamId :=
  match l with
  | .pad _ _ => if old.isFault || new.isFault then .lineDeglitch else .touchDeglitch
  | .platform _ _ => if old.isFault || new.isFault then .lineDeglitch else .platformDeglitch
  | .start => if old.isFault || new.isFault then .lineDeglitch else .starterDeglitch
  | .button _ _ => .buttonDeglitch
  | .marks => .starterDeglitch
  | .recall => .starterDeglitch

/-- The deglitch time of a change of a line, read live (R136, R138). -/
def Params.deglitch (p : Params) (l : Line) (old new : Level) : Nat :=
  (p.value (deglitchParam l old new)).toNat

end Sys2Proof.Machine
end

