-- ==== Sys2Proof/Machine/Operands.lean ====
section
/-! DEFINITION. The operands of the requests: their codes and numbers checked as the CLU checks a body (R179, R190), and
the body of STAGE HEAT filled from the defaults (R2). -/

namespace Sys2Proof.Machine

open Sys2Proof

/-- An absent item stays absent; a present one must decode. -/
def decodeOpt {α β : Type} (f : α → Option β) : Option α → Option (Option β)
  | none => some none
  | some a => (f a).map some

/-- Every item of a list decoded, or none. -/
def decodeAll {α β : Type} (f : α → Option β) : List α → Option (List β)
  | [] => some []
  | a :: as =>
    match f a, decodeAll f as with
    | some b, some bs => some (b :: bs)
    | _, _ => none

/-- The enumerated items of a STAGE HEAT body, decoded (R190). -/
structure HeatCodes where
  startEnd : Option End
  startKind : Option StartKind
  basis : Option Basis
  laneMode : Option Mode
  releaseMode : Option Mode
  lanes : Vector Assignment 10

/-- A lane entry with its use code decoded. -/
def LaneEntry.assignment (e : LaneEntry) : Option Assignment :=
  (laneUseOfCode e.use).map fun u => ⟨u, e.tags⟩

/-- The ten lane entries of a body; any other number of them cannot be parsed (R5, R191). -/
def decodeLanes (es : List LaneEntry) : Option (Vector Assignment 10) :=
  match decodeAll LaneEntry.assignment es with
  | none => none
  | some as => if h : as.length = 10 then some ⟨as.toArray, by simp [h]⟩ else none

/-- The codes of a STAGE HEAT body, or none where one lies outside its set: the body is then malformed (01, Validation). -/
def decodeHeatCodes (b : HeatBody) : Option HeatCodes :=
  match decodeOpt endOfCode b.startEnd, decodeOpt startKindOfCode b.startKind, decodeOpt basisOfCode b.basis,
    decodeOpt modeOfCode b.laneMode, decodeOpt modeOfCode b.releaseMode, decodeLanes b.lanes with
  | some e, some k, some ba, some lm, some rm, some ls => some ⟨e, k, ba, lm, rm, ls⟩
  | _, _, _, _, _, _ => none

/-- A segment item with an absent stroke filled by DefaultStroke (R2); 0xFF is an absent stroke (R190). -/
def SegmentItem.fill (p : Params) (i : SegmentItem) : Segment where
  lengths := i.lengths.toNat
  leg := i.leg.toNat
  stroke := if i.stroke = 0xFF then p.defaultStroke else i.stroke.toNat

/-- The definition a STAGE HEAT body gives, every absent item filled from its default at that moment (R2). -/
def fillDefinition (p : Params) (b : HeatBody) (c : HeatCodes) : Definition where
  id := ⟨b.event, b.heat⟩
  lengths := b.lengths.toNat
  poolLength := (b.poolLength.map BitVec.toNat).getD p.defaultPoolLength
  startEnd := c.startEnd.getD p.defaultStartEnd
  startKind := c.startKind.getD p.defaultStartKind
  segments := b.segments.map (SegmentItem.fill p)
  lanes := c.lanes
  firstGuard := (b.firstGuard.map BitVec.toNat).getD p.defaultFirstGuard
  minLength := (b.minLength.map BitVec.toNat).getD p.defaultMinLength
  turnLockout := (b.turnLockout.map BitVec.toNat).getD p.defaultTurnLockout
  weight := (b.weight.map BitVec.toNat).getD p.defaultWindowWeight
  basis := c.basis.getD p.defaultBasis
  laneMode := c.laneMode.getD p.defaultLaneMode
  collectTime := (b.collectTime.map BitVec.toNat).getD p.defaultCollectTime
  backupTolerance := (b.backupTolerance.map BitVec.toNat).getD p.defaultBackupTolerance
  exchangeAllowance := (b.exchangeAllowance.map BitVec.toNat).getD p.defaultExchangeAllowance
  releaseMode := c.releaseMode.getD p.defaultReleaseMode
  splitInterval := (b.splitInterval.map BitVec.toNat).getD p.defaultSplitInterval

/-- The fields of SET LANE TIMING with their codes decoded; a body with none of them is malformed (R52). -/
def decodeTiming (t : TimingBody) : Option PendingTiming :=
  match decodeOpt modeOfCode t.mode, decodeOpt basisOfCode t.basis with
  | some m, some b =>
    if t.mode.isNone && t.weight.isNone && t.basis.isNone then none
    else some ⟨m, t.weight.map BitVec.toNat, b⟩
  | _, _ => none

/-- The reasons CLEAR SYSTEM HOLD names. -/
inductive ReasonChoice where
  | all
  | these (reasons : ReasonSet)

/-- The reason set of one byte: bit i is the reason with code i (R190). -/
def reasonSetOfByte (b : Byte) : ReasonSet :=
  ⟨b.getLsbD 0, b.getLsbD 1, b.getLsbD 2, b.getLsbD 3, b.getLsbD 4, b.getLsbD 5⟩

/-- The reasons byte of CLEAR SYSTEM HOLD: ALL is 0xFF (DESIGN CHOICE, log 18); an empty set or a bit beyond
SKIPPED_LENGTH is malformed (R126, R190). -/
def decodeReasons (b : Byte) : Option ReasonChoice :=
  if b = 0xFF then some .all
  else if b = 0 || b.getLsbD 6 || b.getLsbD 7 then none
  else some (.these (reasonSetOfByte b))

/-- What GET PARAMETER names: ALL is 0xFF (R190). -/
inductive ParamChoice where
  | all
  | one (p : ParamId)

def decodeParamChoice (b : Byte) : Option ParamChoice :=
  if b = 0xFF then some .all else (paramOfCode b).map .one

/-- A parameter value four bytes carry, or none where it lies outside an enumeration's set (R184). -/
def decodeParamValue (p : ParamId) (w : Word32) : Option Int :=
  match p.lastCode with
  | none => some (p.received w)
  | some m => if w.toNat ≤ m then some (p.received w) else none

/-- What READ FAULTS and CLEAR FAULTS name (R156, R190): inputs 0 to 70, links 71 to 73, ALL 0xFF. -/
inductive RecordChoice where
  | all
  | input (i : Fin 71)
  | link (l : Link)

def decodeRecord (b : Byte) : Option RecordChoice :=
  if b = 0xFF then some .all
  else if h : b.toNat < 71 then some (.input ⟨b.toNat, h⟩)
  else if b.toNat = 71 then some (.link .cl0)
  else if b.toNat = 72 then some (.link .cl1)
  else if b.toNat = 73 then some (.link .cl2)
  else none

/-- A notice mask of two bytes, bit i the kind of code 0x40 + i; STARTED is passed over, a bit beyond RECALL_IGNORED is
malformed (R183, R190). -/
def decodeMask (w : Word16) : Option (List NoticeKind) :=
  if w.getLsbD 14 || w.getLsbD 15 then none
  else some (NoticeKind.maskable.filter fun k => w.getLsbD (k.code - 0x40))

end Sys2Proof.Machine
end

