-- ==== Sys2Proof/Machine/Course.lean ====
section
/-! DEFINITION. What follows from a heat definition (legs, ends, boundaries, distance, R3 and R4) and the eight checks of
a staged definition (R7 to R10). -/

namespace Sys2Proof.Machine

open Sys2Proof

/-! ## The course plan (R3, R4) -/

/-- The segment that covers length k, the first segment of the list covering lengths from `first` on (R3). -/
def segmentCovering (k : Nat) : Nat → List Segment → Option Segment
  | _, [] => none
  | first, s :: ss => if k < first + s.lengths then some s else segmentCovering k (first + s.lengths) ss

/-- The leg of length k (R3). -/
def Definition.legOf (d : Definition) (k : Nat) : Nat := ((segmentCovering k 1 d.segments).map Segment.leg).getD 0

/-- L, the leg of the last segment (R3). -/
def Definition.legs (d : Definition) : Nat := (d.segments.getLast?.map Segment.leg).getD 0

/-- The last length of the last segment on leg j, `done` lengths lying before the list (R3). -/
def lastLengthOf (j : Nat) : Nat → List Segment → Option Nat
  | _, [] => none
  | done, s :: ss =>
    match lastLengthOf j (done + s.lengths) ss with
    | some m => some m
    | none => if s.leg = j then some (done + s.lengths) else none

/-- The boundary length of the exchange record for a leg: the last length of the leg before it (R3, R109). -/
def Definition.boundary (d : Definition) (leg : Nat) : Option Nat := lastLengthOf (leg - 1) 0 d.segments

/-- The end at which length k finishes: the start end when k is even, the other end when odd (R4). -/
def Definition.endOf (d : Definition) (k : Nat) : End := if k % 2 = 0 then d.startEnd else d.startEnd.other

/-- The finish end of the race, the end of length N (R4). -/
def Definition.finishEnd (d : Definition) : End := d.endOf d.lengths

/-- The distance in metres (R4). -/
def Definition.distance (d : Definition) : Nat := d.lengths * d.poolLength

/-- The lanes a definition opens, in lane order. -/
def Definition.openLanes (d : Definition) : List LaneNo :=
  (List.finRange 10).filter fun n => decide ((d.lanes.get n).use = .used)

/-! ## Validation (R7 to R10) -/

/-- Check codes of INVALID, in the order of R7's table. -/
inductive CheckCode where
  | segmentCount | lengths | planMismatch | legOrder | tagCount | noOpenLane | range | lockout
  deriving DecidableEq, Repr

def CheckCode.code : CheckCode → Nat
  | .segmentCount => 0 | .lengths => 1 | .planMismatch => 2 | .legOrder => 3 | .tagCount => 4 | .noOpenLane => 5
  | .range => 6 | .lockout => 7

/-- Field codes of INVALID, in the order of R10, then LEG (R190). -/
inductive FieldCode where
  | eventNumber | heatNumber | poolLength | stroke | firstGuard | minLength | turnLockout | windowWeight | collectTime
  | backupTolerance | exchangeAllowance | splitInterval | leg
  deriving DecidableEq, Repr

def FieldCode.code : FieldCode → Nat
  | .eventNumber => 0 | .heatNumber => 1 | .poolLength => 2 | .stroke => 3 | .firstGuard => 4 | .minLength => 5
  | .turnLockout => 6 | .windowWeight => 7 | .collectTime => 8 | .backupTolerance => 9 | .exchangeAllowance => 10
  | .splitInterval => 11 | .leg => 12

/-- What an INVALID answer carries; an absent index or value is sent as 0, an absent field as 0xFF (R191). -/
structure Invalid where
  check : CheckCode
  field : Option Nat
  index : Nat
  value : Nat
  deriving DecidableEq, Repr

/-- A failed check that names neither field nor index nor value. -/
def Invalid.plain (c : CheckCode) : Invalid := ⟨c, none, 0, 0⟩

/-- A value outside an inclusive range. -/
def outside (lo hi v : Nat) : Bool := decide (v < lo) || decide (hi < v)

/-- The position, from 1, of the first segment with a bad count of lengths (R7, check 2). -/
def badLengthsAt : Nat → List Segment → Option Nat
  | _, [] => none
  | i, s :: ss => if outside 1 64 s.lengths then some i else badLengthsAt (i + 1) ss

/-- The sum of the segments' lengths (R7, check 3). -/
def planSum (ss : List Segment) : Nat := (ss.map Segment.lengths).sum

/-- The position of the first segment after one on leg `prev` that breaks R8: neither the same leg nor one higher, or
above leg 4. -/
def badLegAfter (prev : Nat) : Nat → List Segment → Option Nat
  | _, [] => none
  | i, s :: ss =>
    if (s.leg = prev || s.leg = prev + 1) && decide (s.leg ≤ 4) then badLegAfter s.leg (i + 1) ss else some i

/-- The position of the first segment that breaks R8; the first segment must be on leg 1. -/
def badLegAt : List Segment → Option Nat
  | [] => none
  | s :: ss => if s.leg = 1 then badLegAfter 1 2 ss else some 1

/-- The first lane whose tag list breaks R9. -/
def Definition.badTagLane (d : Definition) : Option LaneNo :=
  (List.finRange 10).find? fun n =>
    match (d.lanes.get n).use with
    | .used => decide ((d.lanes.get n).tags.length ≠ d.legs)
    | .vacant => decide ((d.lanes.get n).tags ≠ [])

/-- The position of the first segment whose stroke code is above 7 (R10). -/
def badStrokeAt : Nat → List Segment → Option Nat
  | _, [] => none
  | i, s :: ss => if 7 < s.stroke then some i else badStrokeAt (i + 1) ss

/-- The RANGE check: the first field of R10's list outside its range, with the segment's position for STROKE. -/
def Definition.badRange (d : Definition) : Option (FieldCode × Nat) :=
  if d.id.event = 0 then some (.eventNumber, 0)
  else if d.id.heat = 0 then some (.heatNumber, 0)
  else if d.poolLength ≠ 25 ∧ d.poolLength ≠ 50 then some (.poolLength, 0)
  else match badStrokeAt 1 d.segments with
  | some i => some (.stroke, i)
  | none =>
    if outside 30000 600000 d.firstGuard then some (.firstGuard, 0)
    else if outside 30000 600000 d.minLength then some (.minLength, 0)
    else if outside 5000 50000 d.turnLockout then some (.turnLockout, 0)
    else if outside 1 31 d.weight then some (.windowWeight, 0)
    else if outside 10000 100000 d.collectTime then some (.collectTime, 0)
    else if outside 100 20000 d.backupTolerance then some (.backupTolerance, 0)
    else if outside 0 2000 d.exchangeAllowance then some (.exchangeAllowance, 0)
    else if outside 1 8 d.splitInterval then some (.splitInterval, 0)
    else none

/-- The eight checks of R7 in their order; none when the definition is valid. -/
def Definition.invalid (d : Definition) : Option Invalid :=
  if outside 1 8 d.segments.length then some ⟨.segmentCount, none, 0, d.segments.length⟩
  else if outside 1 64 d.lengths then some (.plain .lengths)
  else match badLengthsAt 1 d.segments with
  | some i => some ⟨.lengths, none, i, 0⟩
  | none =>
    if planSum d.segments ≠ d.lengths then some ⟨.planMismatch, none, 0, planSum d.segments⟩
    else match badLegAt d.segments with
    | some i => some ⟨.legOrder, none, i, 0⟩
    | none =>
      match d.badTagLane with
      | some n => some ⟨.tagCount, none, n.val, 0⟩
      | none =>
        if d.openLanes = [] then some (.plain .noOpenLane)
        else match d.badRange with
        | some (f, i) => some ⟨.range, some f.code, i, 0⟩
        | none => if d.minLength ≤ d.turnLockout then some (.plain .lockout) else none

end Sys2Proof.Machine
end

