-- ==== Sys2Proof/Machine/Flags.lean ====
section
/-! DEFINITION. The flag sets of the hub: the reasons and holders of a hold set (R119), the in-service item of a fault
record (R148), the line condition of a decoder (R142), the kinds of notices and frames, and sets of lanes. -/

namespace Sys2Proof.Machine

open Sys2Proof

/-! ## Hold sets (R119) -/

/-- No reason. -/
def ReasonSet.empty : ReasonSet := ⟨false, false, false, false, false, false⟩

def ReasonSet.has (r : ReasonSet) : Reason → Bool
  | .falseStart => r.falseStart
  | .exchangeEarly => r.exchangeEarly
  | .exchangeUnjudged => r.exchangeUnjudged
  | .discrepant => r.discrepant
  | .padMissed => r.padMissed
  | .skippedLength => r.skippedLength

def ReasonSet.put (r : ReasonSet) (x : Reason) (v : Bool) : ReasonSet :=
  match x with
  | .falseStart => { r with falseStart := v }
  | .exchangeEarly => { r with exchangeEarly := v }
  | .exchangeUnjudged => { r with exchangeUnjudged := v }
  | .discrepant => { r with discrepant := v }
  | .padMissed => { r with padMissed := v }
  | .skippedLength => { r with skippedLength := v }

/-- The reasons of both sets. -/
def ReasonSet.common (r t : ReasonSet) : ReasonSet :=
  ⟨r.falseStart && t.falseStart, r.exchangeEarly && t.exchangeEarly, r.exchangeUnjudged && t.exchangeUnjudged,
    r.discrepant && t.discrepant, r.padMissed && t.padMissed, r.skippedLength && t.skippedLength⟩

/-- The reasons of the first set that are not in the second. -/
def ReasonSet.without (r t : ReasonSet) : ReasonSet :=
  ⟨r.falseStart && !t.falseStart, r.exchangeEarly && !t.exchangeEarly, r.exchangeUnjudged && !t.exchangeUnjudged,
    r.discrepant && !t.discrepant, r.padMissed && !t.padMissed, r.skippedLength && !t.skippedLength⟩

def ReasonSet.isEmpty (r : ReasonSet) : Bool :=
  !(r.falseStart || r.exchangeEarly || r.exchangeUnjudged || r.discrepant || r.padMissed || r.skippedLength)

/-- The empty hold set (R43). -/
def HoldSet.empty : HoldSet := ⟨false, false, false, ReasonSet.empty⟩

/-- Whether a link is a holder. -/
def HoldSet.holds (h : HoldSet) : Link → Bool
  | .cl0 => h.cl0
  | .cl1 => h.cl1
  | .cl2 => h.cl2

/-- A link made a holder, or no longer one. -/
def HoldSet.put (h : HoldSet) (l : Link) (v : Bool) : HoldSet :=
  match l with
  | .cl0 => { h with cl0 := v }
  | .cl1 => { h with cl1 := v }
  | .cl2 => { h with cl2 := v }

/-- SYSTEM is a holder exactly when a reason stands (R119). -/
def HoldSet.system (h : HoldSet) : Bool := !h.reasons.isEmpty

/-- A hold set is empty when it holds no holder (R119). -/
def HoldSet.isEmpty (h : HoldSet) : Bool := !(h.cl0 || h.cl1 || h.cl2 || h.system)

/-- What the RDK builds for a lane at a load (R43). -/
def Desk.empty : Desk := ⟨HoldSet.empty, none, none⟩

/-! ## Per link -/

def PerLink.get {α : Type} (p : PerLink α) : Link → α
  | .cl0 => p.cl0
  | .cl1 => p.cl1
  | .cl2 => p.cl2

def PerLink.put {α : Type} (p : PerLink α) (l : Link) (v : α) : PerLink α :=
  match l with
  | .cl0 => { p with cl0 := v }
  | .cl1 => { p with cl1 := v }
  | .cl2 => { p with cl2 := v }

def PerLink.map {α β : Type} (p : PerLink α) (f : α → β) : PerLink β := ⟨f p.cl0, f p.cl1, f p.cl2⟩

/-! ## Fault records and decoders -/

/-- In service in CLEAR and REPORTING, out of service in the other states (R148). -/
def FaultState.inService : FaultState → Bool
  | .clear => true
  | .reporting => true
  | .latched => false
  | .retryWait => false
  | .retryTiming => false

/-- The line condition of a four-level decoder follows its counted level (R142). -/
def Decoder.condition (d : Decoder) : Condition :=
  match d.counted with
  | .short => .short
  | .opened => .opened
  | .active => .none
  | .idle => .none

/-- The class of a condition of an input, fixed by the kinds of both (R149). -/
def conditionClass (i : Fin 71) (c : Condition) : FaultClass :=
  match lineOfInput i with
  | .pad _ _ => if c = .stuck then .padStuck else .padLine
  | .platform _ _ => .platformLine
  | .button _ _ => .buttonStuck
  | .start => .startLine
  | .marks => .startLine
  | .recall => .startLine

/-! ## Kinds -/

def Notice.kind : Notice → NoticeKind
  | .started _ => .started
  | .raceState _ _ _ _ _ _ _ => .raceState
  | .queueChange _ _ _ _ => .queueChange
  | .split _ _ _ => .split
  | .reject _ _ _ => .reject
  | .reaction _ _ _ _ _ _ => .reaction
  | .exchange _ _ => .exchange
  | .finish _ _ _ => .finish
  | .placeChange _ _ _ _ => .placeChange
  | .holdChange _ _ _ _ _ => .holdChange
  | .release _ _ _ _ _ => .release
  | .fault _ => .fault
  | .parameterChanged _ _ _ _ => .parameterChanged
  | .recallIgnored _ _ _ => .recallIgnored

def BoardFrame.kind : BoardFrame → FrameKind
  | .event _ => .event
  | .header _ => .header
  | .clock _ _ => .clock
  | .lane _ => .lane
  | .idle _ => .idle

/-! ## Lanes -/

/-- The race state of a phase. -/
def RacePhase.state : RacePhase → RaceState
  | .loaded => .loaded
  | .marks => .marks
  | .running => .running
  | .review => .review
  | .final => .final

/-- The use of a lane is VACANT exactly while its state is (R44). -/
def Lane.use (l : Lane) : LaneUse := if l.state = .vacant then .vacant else .used

/-- The lanes whose record meets a test, in lane order. -/
def Heat.lanesWhere (h : Heat) (p : Lane → Bool) : List LaneNo := (List.finRange 10).filter fun n => p (h.lanes.get n)

/-- The ten lanes in lane order. -/
def allLanes : List LaneNo := List.finRange 10

/-- The 71 supervised inputs in input order. -/
def allInputs : List (Fin 71) := List.finRange 71

end Sys2Proof.Machine
end

