-- ==== Sys2Proof/Machine/Layout.lean ====
section
/-! DEFINITION. The bytes of link frames and board frames: the CRC, the envelope, the field encodings, and the bodies of
answers, notices and board frames (R189 to R192; log 17 where a body is not tabulated). -/

namespace Sys2Proof.Machine

open Sys2Proof

/-! ## Fields (R190) -/

def le2 (n : Nat) : List Byte := [byteOf n, byteOf (n / 256)]

def le4 (n : Nat) : List Byte := [byteOf n, byteOf (n / 256), byteOf (n / 65536), byteOf (n / 16777216)]

/-- Four bytes of a signed value, two's complement. -/
def le4Int (v : Int) : List Byte := le4 (BitVec.ofInt 32 v).toNat

def bit (b : Bool) (weight : Nat) : Nat := if b then weight else 0

def flag (b : Bool) : Byte := byteOf (bit b 1)

/-- The number whose bit i is the i-th of the list. -/
def bitSet : List Bool → Nat
  | [] => 0
  | b :: bs => bit b 1 + 2 * bitSet bs

/-- A group of optional fields under one presence byte (R190). -/
def optionalGroup (fields : List (Option (List Byte))) : List Byte :=
  byteOf (bitSet (fields.map Option.isSome)) :: (fields.map fun f => f.getD []).flatten

/-- A list: its count in one byte, then its items. -/
def countedList {α : Type} (f : α → List Byte) (as : List α) : List Byte :=
  byteOf as.length :: (as.map f).flatten

def HeatId.bytes (i : HeatId) : List Byte := le2 i.event.toNat ++ [i.heat]

/-- A lane set: two bytes, bit n for lane n. -/
def laneSetBytes (ns : List LaneNo) : List Byte := le2 (bitSet (allLanes.map fun n => ns.contains n))

def tagBytes (t : Word32) : List Byte := le4 t.toNat

def ReasonSet.byte (r : ReasonSet) : Byte :=
  byteOf (bitSet [r.falseStart, r.exchangeEarly, r.exchangeUnjudged, r.discrepant, r.padMissed, r.skippedLength])

/-- The holder set: CL0, CL1, CL2 and SYSTEM are bits 0 to 3. -/
def HoldSet.holderByte (h : HoldSet) : Byte := byteOf (bitSet [h.cl0, h.cl1, h.cl2, h.system])

def HoldSet.bytes (h : HoldSet) : List Byte := [h.holderByte, h.reasons.byte]

/-- A place, 0 when absent (R191). -/
def placeByte (p : Option Nat) : Byte := byteOf (p.getD 0)

/-- A notice-kind set: two bytes, bit i for code 0x40 + i (R190). Bit 0, STARTED, which every mask admits and no mask names, is
sent clear: the model's choice (log 41). -/
def maskBytes (m : List NoticeKind) : List Byte :=
  le2 (bitSet (false :: NoticeKind.maskable.map fun k => m.contains k))

/-! ## CRC and envelope (R189, R190) -/

/-- One data bit through the CRC register. -/
def crcBit (r : Word16) (b : Bool) : Word16 :=
  if r.msb ^^ b then (r <<< 1) ^^^ 0x1021 else r <<< 1

/-- One byte, most significant bit first. -/
def crcByte (r : Word16) (b : Byte) : Word16 :=
  [7, 6, 5, 4, 3, 2, 1, 0].foldl (fun r i => crcBit r (b.getLsbD i)) r

/-- The CRC-16 of a sequence of bytes, from 0xFFFF, without final inversion. -/
def crc16 (bs : List Byte) : Word16 := bs.foldl crcByte 0xFFFF

def crcHigh (c : Word16) : Byte := byteOf (c.toNat / 256)

def crcLow (c : Word16) : Byte := byteOf c.toNat

/-- SYNC, LEN, TAG, KIND, body, CRC high byte first. -/
def envelope (tag kind : Byte) (body : List Byte) : List Byte :=
  let counted := byteOf (body.length + 2) :: tag :: kind :: body
  let c := crc16 counted
  0xC3 :: counted ++ [crcHigh c, crcLow c]

/-! ## Records (R191) -/

def SplitEntry.bytes (e : SplitEntry) : List Byte :=
  [byteOf e.length, byteOf e.finish.code, byteOf e.leg, byteOf e.source.code] ++ ((e.time.map le4).getD [])

def RejectedEntry.bytes (e : RejectedEntry) : List Byte :=
  le2 e.number ++ le4 e.time ++ [byteOf e.finish.code, byteOf e.reason.code, byteOf e.expected]

def LaneTiming.bytes (t : LaneTiming) : List Byte := [byteOf t.mode.code, byteOf t.weight, byteOf t.basis.code]

/-- Pending timing under a presence byte; absent pending timing has every field absent (R52, R191). -/
def pendingBytes (p : Option PendingTiming) : List Byte :=
  optionalGroup
    [(p.bind PendingTiming.mode).map fun m => [byteOf m.code],
      (p.bind PendingTiming.weight).map fun w => [byteOf w],
      (p.bind PendingTiming.basis).map fun b => [byteOf b.code]]

def Expectation.bytes (x : Expectation) : List Byte :=
  [byteOf x.length, byteOf x.finish.code] ++ le4 x.reference ++ le4 x.window

/-- The collection record: opening race time, units remaining, and the slots under a presence byte. -/
def Collection.bytes (c : Collection) (remaining : Nat) : List Byte :=
  le4 c.opening ++ le4 remaining ++
    optionalGroup [c.pad.map le4, c.one.map le4, c.two.map le4, c.three.map le4]

def Reaction.bytes (r : Reaction) : List Byte :=
  byteOf (bitSet [r.early, r.unmeasured]) :: optionalGroup [r.release.map le4, r.reaction.map le4]

/-- The UNJUDGED cause of a verdict. -/
def Verdict.cause : Verdict → Option UnjudgedCause
  | .pending => none
  | .ok => none
  | .early => none
  | .unjudged c => some c

/-- The code of the UNJUDGED cause, 0xFF for another verdict (R191). -/
def Verdict.causeCode (v : Verdict) : Nat := (v.cause.map UnjudgedCause.code).getD 0xFF

def Exchange.bytes (x : Exchange) : List Byte :=
  [byteOf x.leg, byteOf x.finish.code, byteOf x.verdict.code, byteOf x.verdict.causeCode] ++
    optionalGroup [x.arming.map le4, x.touch.map le4, x.release.map le4, x.margin.map le4Int]

/-- The outcome code of a result core (R190). -/
def ResultCore.outcome : ResultCore → Nat
  | .time _ _ _ _ => 0
  | .noFinish => 1

/-- Official time, finish source, backup value and replaced time under a presence byte. -/
def ResultCore.fields : ResultCore → List Byte
  | .time t s b r => optionalGroup [some (le4 t), some [byteOf s.code], b.map le4, r.map le4]
  | .noFinish => optionalGroup [none, none, none, none]

def ResultCore.official : ResultCore → Option Nat
  | .time t _ _ _ => some t
  | .noFinish => none

/-- A lane entry of a definition: use, tag count, tags. -/
def Assignment.bytes (a : Assignment) : List Byte := byteOf a.use.code :: countedList tagBytes a.tags

def Segment.bytes (s : Segment) : List Byte := [byteOf s.lengths, byteOf s.leg, byteOf s.stroke]

/-- The definition of READ RACE part 0: items 1 to 5 with every presence bit set (R191). -/
def Definition.bytes (d : Definition) : List Byte :=
  d.id.bytes ++ [byteOf d.lengths] ++ le2 0x3FFF ++
    [byteOf d.poolLength, byteOf d.startEnd.code, byteOf d.startKind.code] ++
    le4 d.firstGuard ++ le4 d.minLength ++ le4 d.turnLockout ++
    [byteOf d.weight, byteOf d.basis.code, byteOf d.laneMode.code] ++
    le4 d.collectTime ++ le4 d.backupTolerance ++ le4 d.exchangeAllowance ++
    [byteOf d.releaseMode.code, byteOf d.splitInterval] ++
    countedList Segment.bytes d.segments

/-- The ten lane entries of a definition, lane 0 first. -/
def Definition.laneBytes (d : Definition) : List Byte := (d.lanes.toList.map Assignment.bytes).flatten

/-- A summary of LIST QUEUE (R14). -/
def QueueEntry.bytes (q : QueueEntry) : List Byte :=
  q.definition.id.bytes ++
    [byteOf q.definition.lengths, byteOf q.definition.poolLength, byteOf q.definition.legs,
      byteOf q.definition.startKind.code] ++
    laneSetBytes q.definition.openLanes ++ [byteOf q.link.code]

/-- The READ LANE answer after the result byte, items 1 to 14 in order (R60, R191); `remaining` is the units to the
CollectTime expiry. -/
def laneReport (n : LaneNo) (l : Lane) (k : Desk) (remaining : Nat) : List Byte :=
  [byteOf n.val, byteOf l.use.code, byteOf l.state.code, byteOf (l.leg.getD 0)] ++
  countedList tagBytes l.tags ++
  l.timing.bytes ++
  pendingBytes l.pendingTiming ++
  optionalGroup [l.expectation.map Expectation.bytes] ++
  optionalGroup [l.d1.map le4, l.d2.map le4] ++
  (byteOf l.splits.length :: ((l.splits.getLast?.map SplitEntry.bytes).getD [])) ++
  le2 l.rejections ++
  countedList RejectedEntry.bytes l.rejected ++
  optionalGroup [l.collection.map fun c => c.bytes remaining] ++
  optionalGroup [l.reaction.map Reaction.bytes] ++
  optionalGroup [if l.exchanges = [] then none else some (countedList Exchange.bytes l.exchanges)] ++
  optionalGroup [l.result.map fun r => byteOf r.outcome :: r.fields] ++
  k.hold.bytes ++
  optionalGroup [k.dq.map fun c => [c]] ++
  [placeByte k.place]

/-- What an INVALID answer carries (R191). -/
def Invalid.bytes (v : Invalid) : List Byte :=
  [byteOf v.check.code, byteOf (v.field.getD 0xFF), byteOf v.index] ++ le4 v.value

/-! ## Notices -/

/-- The link a STARTED notice names: the one that asked for RESET DEVICE (R146). -/
def StartCause.link : StartCause → Option Link
  | .powerOn => none
  | .resetn => none
  | .resetDevice l => some l

/-- The items of a notice after its LOST byte (R191). For the notices R191 does not tabulate log 17 says how an item is
sent that is not always there: a link as 0xFF (STARTED, FAULT), the items of REACTION, the cause of EXCHANGE and the test of
RECALL_IGNORED under presence bytes, and the flags of REACTION in one byte. -/
def Notice.bytes : Notice → List Byte
  | .started c => [byteOf c.code, byteOf (Link.optCode c.link)]
  | .raceState st c l i n start stop =>
    [byteOf st.code, byteOf c.code, byteOf (Link.optCode l)] ++ ((i.map HeatId.bytes).getD [0, 0, 0]) ++
      [byteOf n] ++ optionalGroup [start.map fun t => le4 t.toNat, stop.map le4]
  | .queueChange c i l n => byteOf c.code :: i.bytes ++ [byteOf (Link.optCode l), byteOf n]
  | .split n e p =>
    byteOf n.val :: e.bytes ++ ((p.map fun q => byteOf q.link.code :: le2 q.number).getD [])
  | .reject n e pushed =>
    byteOf n.val :: e.bytes ++ optionalGroup [pushed.map le2]
  | .reaction n early unmeasured capture rel rea =>
    [byteOf n.val, byteOf (bitSet [early, unmeasured])] ++
      optionalGroup [capture.map fun t => le4 t.toNat, rel.map le4, rea.map le4]
  | .exchange n x =>
    [byteOf n.val, byteOf x.leg, byteOf x.finish.code] ++
      optionalGroup [x.touch.map le4, x.release.map le4, x.margin.map le4Int] ++
      byteOf x.verdict.code :: optionalGroup [x.verdict.cause.map fun c => [byteOf c.code]]
  | .finish n r l => [byteOf n.val, byteOf r.outcome, byteOf (Link.optCode l)] ++ r.fields
  | .placeChange n before after official =>
    byteOf n.val :: optionalGroup [before.map fun p => [byteOf p], after.map fun p => [byteOf p]] ++ le4 official
  | .holdChange n c l h dq =>
    [byteOf n.val, byteOf c.code, byteOf (Link.optCode l)] ++ h.bytes ++ optionalGroup [dq.map fun c => [c]]
  | .release n r p dq l =>
    [byteOf n.val, byteOf r.outcome] ++
      optionalGroup [r.official.map le4, p.map fun p => [byteOf p], dq.map fun c => [c]] ++ [byteOf (Link.optCode l)]
  | .fault f =>
    [byteOf f.record, byteOf f.cls.code, byteOf f.cause.code, byteOf f.state.code, flag f.inService,
      byteOf f.present.code, byteOf (LastCondition.optCode f.last), flag f.seen] ++ le4 f.time.toNat ++
      [byteOf (Link.optCode f.link)]
  | .parameterChanged p old new l => byteOf p.code :: le4Int old ++ le4Int new ++ [byteOf l.code]
  | .recallIgnored st t test =>
    byteOf st.code :: le4 t ++ optionalGroup [test.map fun x => [byteOf x.code]]

/-- The bytes of a link frame: an answer's TAG and KIND with its result first, or TAG 0 and the notice code with the LOST
byte first (R189, R191). -/
def LinkFrame.bytes : LinkFrame → List Byte
  | .answer a => envelope a.tag a.kind (byteOf a.result.code :: a.data)
  | .notice q => envelope 0 (byteOf q.notice.kind.code) (flag q.lost :: q.notice.bytes)

/-! ## Board frames (R192) -/

/-- The kind byte and body of a board frame. -/
def BoardFrame.body : BoardFrame → List Byte
  | .event i => byteOf FrameKind.event.code :: byteOf i.code.code :: i.id.bytes ++ le4 i.value
  | .header h =>
    byteOf FrameKind.header.code :: h.id.bytes ++ le2 h.distance ++ [byteOf h.legs, byteOf h.stroke] ++
      laneSetBytes h.openLanes
  | .clock t frozen => byteOf FrameKind.clock.code :: le4 t ++ [flag frozen]
  | .lane f =>
    [byteOf FrameKind.lane.code, byteOf f.lane.val, byteOf f.status.code, byteOf f.completed,
      byteOf (bitSet [f.time.isSome, f.place.isSome, f.legAndTag.isSome])] ++
      le4 (f.time.getD 0) ++ [placeByte f.place] ++
      (match f.legAndTag with
      | none => [0, 0, 0, 0, 0]
      | some (g, t) => byteOf g :: tagBytes t)
  | .idle p => byteOf FrameKind.idle.code :: le2 p

/-- SYNC 0x96, kind and body, and the checksum that makes kind, body and checksum sum to 0 modulo 256. -/
def BoardFrame.bytes (f : BoardFrame) : List Byte :=
  0x96 :: f.body ++ [0 - f.body.foldl (· + ·) 0]

end Sys2Proof.Machine
end

