-- ==== Sys2Proof/Machine/Ops.lean ====
section
/-! DEFINITION. The operations every block shares: times, notices offered to the three links (R181, R182), the board's
pending work (R164 to R167), the two arbiters (R163, R180), one event taken whole, and the arrival of a request
(R178). -/

namespace Sys2Proof.Machine

open Sys2Proof

/-! ## Times (R18, R19) -/

/-- Units from one deck time to a later one, through a wrap (R18). -/
def elapsed (start now : DeckTime) : Nat := (now - start).toNat

/-- A timer has run for its limit. -/
def Timer.due (t : Timer) (now : DeckTime) : Bool := decide (t.limit ≤ elapsed t.start now)

/-- Units a timer still has to run. -/
def Timer.remaining (t : Timer) (now : DeckTime) : Nat := t.limit - elapsed t.start now

/-- Half the range of deck time: a remainder of this or more is a time before the start (R19). -/
def halfRange : Nat := 2147483648

/-- The race time of a deck time: the difference modulo 2^32 (R19). -/
def raceTimeFrom (start d : DeckTime) : Nat := (d - start).toNat

/-- A race time before the start (R19). -/
def beforeStart (t : Nat) : Bool := decide (halfRange ≤ t)

/-- A deck time lies at or after another, both within half the range (log 12). -/
def atOrAfter (d ref : DeckTime) : Bool := !beforeStart (d - ref).toNat

/-- The race time of a deck time in the current start; only read while there is one. -/
def Heat.raceTime (h : Heat) (d : DeckTime) : Nat := raceTimeFrom (h.startTime.getD 0) d

/-- The race clock: running, stopped, or absent (R20). -/
def Heat.raceClock (h : Heat) (now : DeckTime) : Option Nat :=
  match h.phase with
  | .running => h.startTime.map fun t => raceTimeFrom t now
  | .review => h.stopTime
  | .final => h.stopTime
  | .loaded => none
  | .marks => none

/-! ## Places of the state -/

/-- The race state (02, table). -/
def State.raceState (s : State) : RaceState :=
  match s.heat with
  | none => .empty
  | some h => h.phase.state

/-- The current heat changed, where there is one. -/
def State.modHeat (s : State) (f : Heat → Heat) : State := { s with heat := s.heat.map f }

def Heat.modLane (h : Heat) (n : LaneNo) (f : Lane → Lane) : Heat := { h with lanes := updAt h.lanes n f }

def Heat.modDesk (h : Heat) (n : LaneNo) (f : Desk → Desk) : Heat := { h with desks := updAt h.desks n f }

/-- One lane record changed. -/
def State.modLane (s : State) (n : LaneNo) (f : Lane → Lane) : State := s.modHeat fun h => h.modLane n f

/-- What the RDK keeps for one lane changed. -/
def State.modDesk (s : State) (n : LaneNo) (f : Desk → Desk) : State := s.modHeat fun h => h.modDesk n f

def State.modBoard (s : State) (f : Board → Board) : State := { s with board := f s.board }

def State.modLink (s : State) (l : Link) (f : Clu → Clu) : State := { s with links := s.links.put l (f (s.links.get l)) }

/-- Whether an input is in service (R148). -/
def State.inService (s : State) (i : Fin 71) : Bool := (s.faults.get i).state.inService

/-- Whether a line delivers its events: MARKS and RECALL are never out of service (R144). -/
def State.lineInService (s : State) (l : Line) : Bool :=
  match l.input with
  | none => true
  | some i => s.inService i

/-! ## Notices (R181, R182) -/

/-- A mask admits STARTED always, another kind when it names it (R183). -/
def Clu.admits (c : Clu) (k : NoticeKind) : Bool := k == .started || c.mask.contains k

/-- A notice offered to one link (R182). -/
def Clu.offer (n : Notice) (c : Clu) : Clu :=
  if c.admits n.kind then
    if c.notices.length < 32 then { c with notices := c.notices ++ [⟨c.lost, n⟩], lost := false }
    else { c with lost := true }
  else c

/-- A notice raised: offered to each of the three links in turn (R181). -/
def raise (n : Notice) (s : State) : State := { s with links := s.links.map (Clu.offer n) }

/-- The masks of the three links. -/
def State.masks (s : State) : PerLink (List NoticeKind) := s.links.map Clu.mask

/-- The masks of the three links replaced. -/
def State.withMasks (s : State) (m : PerLink (List NoticeKind)) : State :=
  { s with
    links := ⟨{ s.links.cl0 with mask := m.cl0 }, { s.links.cl1 with mask := m.cl1 }, { s.links.cl2 with mask := m.cl2 }⟩ }

/-- An operation whose notices of one kind are held back: no link takes one meanwhile. -/
def holdingBack (k : NoticeKind) (f : State → State) (s : State) : State :=
  (f (s.withMasks (s.masks.map fun m => m.filter fun j => j != k))).withMasks s.masks

/-! ## The board's pending work -/

/-- A lane queued for a board update, unless it waits already (R166). -/
def Board.queueLane (n : LaneNo) (b : Board) : Board :=
  if b.laneQueue.contains n then b else { b with laneQueue := b.laneQueue ++ [n] }

/-- An event item queued, or dropped when four wait (R164). -/
def Board.queueEvent (i : EventItem) (b : Board) : Board :=
  if b.events.length < 4 then { b with events := b.events ++ [i] } else b

def queueLane (n : LaneNo) (s : State) : State := s.modBoard (Board.queueLane n)

def queueEvent (i : EventItem) (s : State) : State := s.modBoard (Board.queueEvent i)

/-- The header-pending flag set (R165). -/
def owesHeader (s : State) : State := s.modBoard fun b => { b with headerPending := true }

/-- The clock and the freeze stop, clock-due clear: what leaving RUNNING does to the board (R169, R170). -/
def Board.stopClock (b : Board) : Board := { b with clockDue := false, clockTimer := none, freeze := none }

/-- The idle run begins (R171). -/
def Board.startIdle (p : Params) (now : DeckTime) (b : Board) : Board :=
  { b with idleDue := true, idleTimer := some ⟨now, p.idleInterval⟩ }

/-- What the BTX does when the race becomes EMPTY (R173). -/
def Board.becomeEmpty (p : Params) (now : DeckTime) (b : Board) : Board :=
  Board.startIdle p now { b.stopClock with laneQueue := [], headerPending := false }

/-! ## Board frames built when sent (R165, R168, R170) -/

/-- The last timed entry of a split list whose length meets a test. -/
def lastTimed (p : Nat → Bool) (es : List SplitEntry) : Option Nat :=
  (es.reverse.find? fun e => e.time.isSome && p e.length).bind SplitEntry.time

/-- Hundredths of a race time (R168). -/
def hundredths (t : Nat) : Nat := t / 100

def headerFrame (h : Heat) : HeaderFrame where
  id := h.definition.id
  distance := h.definition.distance
  legs := h.definition.legs
  stroke := (h.definition.segments.head?.map Segment.stroke).getD 0
  openLanes := h.lanesWhere fun l => l.use == .used

/-- The status of a lane on the board (R168). -/
def laneStatus (l : Lane) (k : Desk) : LaneStatus :=
  match l.state with
  | .vacant => .vacant
  | .ready => .ready
  | .swimming => if k.dq.isSome then .dq else .swimming
  | .collect => if k.dq.isSome then .dq else .swimming
  | .finished =>
    if k.dq.isSome then .dq else if (l.result.bind ResultCore.official).isSome then .provisional else .noFinish
  | .released =>
    if k.dq.isSome then .dq else if (l.result.bind ResultCore.official).isSome then .official else .noFinish

/-- The displayed time of a lane, in hundredths (R168). -/
def displayedTime (d : Definition) (l : Lane) (k : Desk) : Option Nat :=
  match laneStatus l k with
  | .swimming => (lastTimed (fun m => m % d.splitInterval == 0) l.splits).map hundredths
  | .provisional => (l.result.bind ResultCore.official).map hundredths
  | .official => (l.result.bind ResultCore.official).map hundredths
  | .vacant => none
  | .ready => none
  | .dq => none
  | .noFinish => none

/-- The tag of a leg in a tag list; tag i is leg i's (R5). -/
def tagOfLeg (tags : List Word32) (leg : Nat) : Word32 := (tags[leg - 1]?).getD 0

def laneFrame (h : Heat) (n : LaneNo) : LaneFrame where
  lane := n
  status := laneStatus (h.lanes.get n) (h.desks.get n)
  completed := (h.lanes.get n).splits.length
  time := displayedTime h.definition (h.lanes.get n) (h.desks.get n)
  place := (h.desks.get n).place
  legAndTag := (h.lanes.get n).leg.map fun g => (g, tagOfLeg (h.lanes.get n).tags g)

/-- The CLOCK frame of a moment: the frozen time during a freeze, else the race clock (R170). -/
def clockFrame (h : Heat) (f : Option Freeze) (now : DeckTime) : BoardFrame :=
  match f with
  | some z => .clock z.frozen true
  | none => .clock (hundredths (h.raceTime now)) false

/-! ## The board arbiter (R162, R163) -/

/-- A frame chosen: its transmission begins. -/
def Board.send (f : BoardFrame) (b : Board) : Board :=
  { b with flight := some ⟨f, f.bytes.length * Config.boardByteSubticks⟩ }

/-- Rule 3 of R163: CLOCK goes unless it went last and a lane waits. -/
def Board.clockGoes (b : Board) : Bool :=
  b.clockDue && !(b.lastKind == some .clock && !b.laneQueue.isEmpty)

/-- The first lane waiting, or the IDLE frame (R163, rules 4 and 5). -/
def Board.laneOrIdle (h : Option Heat) (p : Params) (b : Board) : Board :=
  match h, b.laneQueue with
  | some h, n :: ns => Board.send (.lane (laneFrame h n)) { b with laneQueue := ns }
  | _, _ => if b.idleDue then Board.send (.idle p.idlePattern) { b with idleDue := false } else b

/-- CLOCK, or what follows it (R163, rule 3). -/
def Board.clockOrLane (h : Option Heat) (p : Params) (now : DeckTime) (b : Board) : Board :=
  match h with
  | some g => if b.clockGoes then Board.send (clockFrame g b.freeze now) { b with clockDue := false }
      else b.laneOrIdle h p
  | none => b.laneOrIdle h p

/-- HEADER, or what follows it (R163, rule 2). -/
def Board.headerOrClock (h : Option Heat) (p : Params) (now : DeckTime) (b : Board) : Board :=
  match h with
  | some g => if b.headerPending then Board.send (.header (headerFrame g)) { b with headerPending := false }
      else b.clockOrLane h p now
  | none => b.clockOrLane h p now

/-- The board arbiter, run while QUIET: the first of R163's five that applies. HEADER, CLOCK and LANE frames are built
from the current race, which exists whenever their work waits (R165, R166, R169, R173). -/
def Board.arbitrate (h : Option Heat) (p : Params) (now : DeckTime) (b : Board) : Board :=
  match b.flight, b.events with
  | some _, _ => b
  | none, i :: is => Board.send (.event i) { b with events := is }
  | none, [] => b.headerOrClock h p now

/-! ## The link arbiter (R180) -/

/-- A frame chosen: its transmission begins. -/
def Clu.send (f : LinkFrame) (c : Clu) : Clu :=
  { c with flight := some ⟨f, f.bytes.length * Config.linkByteSubticks⟩ }

/-- The link arbiter, run while QUIET: answers before notices. -/
def Clu.arbitrate (c : Clu) : Clu :=
  match c.flight, c.answers, c.notices with
  | some _, _, _ => c
  | none, a :: as, _ => Clu.send (.answer a) { c with answers := as }
  | none, [], q :: qs => Clu.send (.notice q) { c with notices := qs }
  | none, [], [] => c

/-! ## One event -/

/-- The end of an event: every QUIET transmitter with work takes a frame (R162, R180; log 36). -/
def settle (s : State) : State :=
  { s with
    links := s.links.map Clu.arbitrate
    board := s.board.arbitrate s.heat s.params s.deckTime }

/-- An event taken whole, the transmitters' arbiters at its end. Only a running hub takes events (R187). -/
def event (f : State → State) (s : State) : State :=
  if s.phase = .running then settle (f s) else s

/-! ## Requests (R178, R179) -/

/-- What the owner of a request gives back: the state it leaves, a result code and the bytes after it. -/
structure Reply where
  state : State
  result : Result
  data : List Byte

/-- A refusal that carries nothing; the state stays. -/
def refuse (r : Result) (s : State) : Reply := ⟨s, r, []⟩

/-- WRONG_STATE with the race state (R191). -/
def wrongRace (s : State) : Reply := ⟨s, .wrongState, [0, byteOf s.raceState.code]⟩

/-- WRONG_STATE with the lane state (R191). -/
def wrongLane (l : Lane) (s : State) : Reply := ⟨s, .wrongState, [1, byteOf l.state.code]⟩

/-- INVALID with its items (R191). -/
def invalid (v : Invalid) (s : State) : Reply := ⟨s, .invalid, v.bytes⟩

def malformed (s : State) : Reply := refuse .malformed s

def done (data : List Byte) (s : State) : Reply := ⟨s, .done, data⟩

/-- How many BUSY refusals wait in an answer queue (R178). -/
def busyCount (as : List Answer) : Nat := as.countP fun a => a.result == .busy

/-- An answer joins the tail of its link's answer queue. -/
def pushAnswer (l : Link) (a : Answer) (s : State) : State :=
  s.modLink l fun c => { c with answers := c.answers ++ [a] }

/-- A BUSY refusal joins the answer queue, unless four wait already (R178). -/
def refuseBusy (l : Link) (tag kind : Byte) (s : State) : State :=
  if busyCount (s.links.get l).answers < 4 then pushAnswer l ⟨tag, kind, .busy, []⟩ s else s

/-- Whether an arrival on a link is refused BUSY (R178). -/
def State.refusesArrival (s : State) (l : Link) : Bool :=
  s.resetPending.isSome || decide (4 ≤ (s.links.get l).unanswered)

/-- A request taken: counted, performed by its owner, its answer queued (R178, R179). -/
def take (l : Link) (tag kind : Byte) (perform : State → Reply) (s : State) : State :=
  let r := perform (s.modLink l fun c => { c with unanswered := c.unanswered + 1 })
  pushAnswer l ⟨tag, kind, r.result, r.data⟩ r.state

/-- An arrival judged in the event of its CRC check (R178). -/
def judgeArrival (l : Link) (tag kind : Byte) (perform : State → Reply) (s : State) : State :=
  if s.refusesArrival l then refuseBusy l tag kind s else take l tag kind perform s

/-- The arrival of a request as one event. -/
def arrive (l : Link) (tag kind : Byte) (perform : State → Reply) (s : State) : State :=
  event (judgeArrival l tag kind perform) s

/-! ## Lane requests (R47, R123) -/

/-- What the table of R47 or R123 says of a request and a lane state. -/
inductive LaneGate where
  | taken | wrong | busy | final
  deriving DecidableEq

/-- A row of R47's or R123's table: for VACANT, READY, SWIMMING, COLLECT, FINISHED, RELEASED. -/
def laneGate (vacant ready swimming collect finished released : LaneGate) : LaneState → LaneGate
  | .vacant => vacant
  | .ready => ready
  | .swimming => swimming
  | .collect => collect
  | .finished => finished
  | .released => released

/-- The checks 1 to 3 of R47 and R123, then the request's own rule. -/
def laneRequest (b : Byte) (row : LaneState → LaneGate) (own : LaneNo → Heat → Lane → State → Reply) (s : State) : Reply :=
  match laneOfByte b with
  | none => malformed s
  | some n =>
    match s.heat with
    | none => wrongRace s
    | some h =>
      match row (h.lanes.get n).state with
      | .taken => own n h (h.lanes.get n) s
      | .wrong => wrongLane (h.lanes.get n) s
      | .busy => refuse .laneBusy s
      | .final => refuse .final s

end Sys2Proof.Machine
end

