-- ==== Sys2Proof/Machine/Results.lean ====
section
/-! DEFINITION. The shared operations of the Result Desk and of the end of the race: hold sets (R119 to R122), the placing
list (R100, R101), release (R127, R129), entry to REVIEW and FINAL (R35, R36) and the effects common to every finish
(R56). -/

namespace Sys2Proof.Machine

open Sys2Proof

/-! ## Race notices and race moves -/

/-- The RACE_STATE notice of the current race (R39). The stop race time goes with LAST_FINISH. -/
def Heat.raceNotice (h : Heat) (cause : RaceCause) (link : Option Link) : Notice :=
  .raceState h.phase.state cause link (some h.definition.id) h.recalls h.startTime
    (if cause = .lastFinish then h.stopTime else none)

/-- The RACE_STATE notice of the race as it stands; in EMPTY it names no heat and no recall (R39). -/
def raceNotice (cause : RaceCause) (link : Option Link) (s : State) : State :=
  raise (match s.heat with
    | none => .raceState .empty cause link none 0 none none
    | some h => h.raceNotice cause link) s

/-- An item of the event list for the current heat (R164). -/
def heatEvent (code : EventCode) (value : Nat) (s : State) : State :=
  match s.heat with
  | none => s
  | some h => queueEvent ⟨code, h.definition.id, value⟩ s

/-- The advance timer started: advance pending is set (R24). -/
def startAdvance (s : State) : State :=
  s.modHeat fun h => { h with advance := some ⟨s.deckTime, s.params.advanceDelay⟩ }

/-- Whether a lane keeps the race in RUNNING (R35). -/
def Lane.unfinished (l : Lane) : Bool :=
  match l.state with
  | .ready => true
  | .swimming => true
  | .collect => true
  | .vacant => false
  | .finished => false
  | .released => false

/-- Whether a lane keeps the race from FINAL (R36). -/
def Lane.unreleased (l : Lane) : Bool :=
  match l.state with
  | .vacant => false
  | .released => false
  | .ready => true
  | .swimming => true
  | .collect => true
  | .finished => true

/-- R35: a RUNNING race none of whose lanes is READY, SWIMMING or COLLECT enters REVIEW. -/
def testReview (s : State) : State :=
  match s.heat with
  | none => s
  | some h =>
    if h.phase = .running ∧ h.lanesWhere Lane.unfinished = [] then
      let s := s.modHeat fun h =>
        { h with phase := .review, stopTime := some (h.raceTime s.deckTime), overtimeTimer := false }
      raceNotice .lastFinish none (s.modBoard Board.stopClock)
    else s

/-- R36: a race in REVIEW whose non-VACANT lanes are all RELEASED enters FINAL. -/
def testFinal (s : State) : State :=
  match s.heat with
  | none => s
  | some h =>
    if h.phase = .review ∧ h.lanesWhere Lane.unreleased = [] then
      let s := raceNotice .allReleased none (heatEvent .final 0 (s.modHeat fun h => { h with phase := .final }))
      if s.params.autoAdvance then startAdvance s else s
    else s

/-! ## Hold sets and DQ marks (R119 to R122) -/

/-- What the RDK keeps for a lane of the current race. -/
def State.deskOf (s : State) (n : LaneNo) : Option Desk := s.heat.map fun h => h.desks.get n

/-- The HOLD_CHANGE notice of a lane whose hold set or DQ mark differs from an earlier state's (R122). -/
def reportDesk (n : LaneNo) (cause : HoldCause) (link : Option Link) (before s : State) : State :=
  match s.deskOf n with
  | none => s
  | some k => if before.deskOf n = some k then s else raise (.holdChange n cause link k.hold k.dq) s

/-- A lane's desk items changed: a HOLD_CHANGE notice when the hold set or the DQ mark changes, else nothing (R122). -/
def changeDesk (n : LaneNo) (cause : HoldCause) (link : Option Link) (f : Desk → Desk) (s : State) : State :=
  reportDesk n cause link s (s.modDesk n f)

def Desk.addReason (r : Reason) (k : Desk) : Desk := { k with hold := { k.hold with reasons := k.hold.reasons.put r true } }

/-- Reasons taken out of a hold set. -/
def Desk.dropReasons (r : ReasonSet) (k : Desk) : Desk :=
  { k with hold := { k.hold with reasons := k.hold.reasons.without r } }

/-- A system reason reported by the LEN joins the lane's hold set (R120; it carries no link, log 16). -/
def addReason (n : LaneNo) (r : Reason) (s : State) : State := changeDesk n .reasonAdded none (Desk.addReason r) s

def addReasons (n : LaneNo) (rs : List Reason) (s : State) : State := rs.foldl (fun s r => addReason n r s) s

/-! ## Places (R100, R101) -/

/-- The hundredths a lane is ranked by, when it has outcome TIME and no DQ mark (R100). -/
def Heat.rankTime (h : Heat) (n : LaneNo) : Option Nat :=
  if (h.desks.get n).dq.isSome then none
  else ((h.lanes.get n).result.bind ResultCore.official).map hundredths

/-- A lane's place: one plus the number of ranked lanes with fewer hundredths (R100). -/
def Heat.placeOf (h : Heat) (n : LaneNo) : Option Nat :=
  (h.rankTime n).map fun t => 1 + allLanes.countP fun m => (h.rankTime m).any fun u => decide (u < t)

/-- A lane put into a list ordered by hundredths, behind those not slower. -/
def insertRanked (n : LaneNo) (t : Nat) : List (LaneNo × Nat) → List (LaneNo × Nat)
  | [] => [(n, t)]
  | (m, u) :: rest => if t < u then (n, t) :: (m, u) :: rest else (m, u) :: insertRanked n t rest

/-- The placing list: the ranked lanes by hundredths, then by lane number (R100). -/
def Heat.rankedLanes (h : Heat) : List LaneNo :=
  (allLanes.foldl (fun acc n => ((h.rankTime n).map fun t => insertRanked n t acc).getD acc) []).map Prod.fst

/-- One lane given its place; a change raises PLACE_CHANGE and queues a board update (R101). -/
def placeLane (s : State) (n : LaneNo) : State :=
  match s.heat with
  | none => s
  | some h =>
    if h.placeOf n = (h.desks.get n).place then s
    else
      queueLane n (raise
        (.placeChange n (h.desks.get n).place (h.placeOf n)
          (((h.lanes.get n).result.bind ResultCore.official).getD 0))
        (s.modDesk n fun k => { k with place := h.placeOf n }))

/-- The placing list and every place recomputed, the lanes in order (R100, R101). -/
def recomputePlaces (s : State) : State :=
  allLanes.foldl placeLane (s.modHeat fun h => { h with placing := h.rankedLanes })

/-! ## Release (R127, R129) -/

/-- A lane released: RELEASED, its notice, its board update, and the test of R36. -/
def releaseLane (n : LaneNo) (cause : Option Link) (s : State) : State :=
  match s.heat with
  | none => s
  | some h =>
    match (h.lanes.get n).result with
    | none => s
    | some core =>
      testFinal (queueLane n (raise (.release n core (h.desks.get n).place (h.desks.get n).dq cause)
        (s.modLane n fun l => { l with state := .released })))

/-- The automatic release check of a lane (R127). -/
def releaseCheck (n : LaneNo) (s : State) : State :=
  match s.heat with
  | none => s
  | some h =>
    if h.definition.releaseMode = .auto ∧ (h.lanes.get n).state = .finished ∧ (h.desks.get n).hold.isEmpty = true then
      releaseLane n none s
    else s

/-! ## The finish of a lane (R55, R56, R94) -/

/-- The record of a lane that becomes FINISHED: what belongs to SWIMMING and COLLECT alone is gone, no platform is armed
for its reaction (R54, R65, R91, R108). -/
def Lane.finish (core : ResultCore) (l : Lane) : Lane :=
  { l with
    state := .finished
    expectation := none
    pendingTiming := none
    collection := none
    reaction := l.reaction.map fun r => { r with armed := false }
    result := some core }

/-- The effects common to every finish, in the order of R56 and R94: core and state, FINISH notice, board update,
reasons, places, release check, the tests of R35 and R36. -/
def finishLane (n : LaneNo) (core : ResultCore) (link : Option Link) (reasons : List Reason) (s : State) : State :=
  let s := queueLane n (raise (.finish n core link) (s.modLane n (Lane.finish core)))
  let s := addReasons n reasons s
  let s := if core.official.isSome then recomputePlaces s else s
  testFinal (testReview (releaseCheck n s))

end Sys2Proof.Machine
end

