-- ==== Sys2Proof/Machine/Judging.lean ====
section
/-! DEFINITION. Start and exchange judging (06): arming, reaction records, exchange records and their verdicts, the order
within an event (R115), platform releases and the loss of a platform. -/

namespace Sys2Proof.Machine

open Sys2Proof

/-! ## Platforms -/

/-- The input of a lane's platform at an end (R134). -/
def platformInput (n : LaneNo) : End → Fin 71
  | .a => ⟨20 + n.val, by omega⟩
  | .b => ⟨30 + n.val, by omega⟩

/-- The input of a lane's pad at an end (R134). -/
def padInput (n : LaneNo) : End → Fin 71
  | .a => ⟨n.val, by omega⟩
  | .b => ⟨10 + n.val, by omega⟩

/-! ## Reaction records (R105 to R108) -/

/-- A new reaction record armed from a deck time (R105). -/
def Reaction.new (arming : DeckTime) : Reaction := ⟨arming, none, none, false, false, true⟩

/-- A READY lane of a BLOCK start armed for false-start capture (R25, R105). -/
def armForMarks (n : LaneNo) (s : State) : State :=
  s.modLane n fun l => if l.state = .ready then { l with reaction := some (Reaction.new s.deckTime) } else l

/-- A REACTION notice of a record (R106, R108). -/
def Reaction.notice (r : Reaction) (n : LaneNo) (capture : Option DeckTime) : Notice :=
  .reaction n r.early r.unmeasured capture r.release r.reaction

/-- A reaction record written, with its REACTION notice. -/
def writeReaction (n : LaneNo) (r : Reaction) (capture : Option DeckTime) (s : State) : State :=
  raise (r.notice n capture) (s.modLane n fun l => { l with reaction := some r })

/-- A record UNMEASURED: its arming ends (R108). -/
def Reaction.lost (r : Reaction) : Reaction := { r with unmeasured := true, armed := false }

/-- An early release: the first sets PLATFORM_EARLY and reports FALSE_START, further ones change nothing (R106). -/
def earlyRelease (n : LaneNo) (r : Reaction) (capture : DeckTime) (s : State) : State :=
  if r.early then s
  else addReason n .falseStart (writeReaction n { r with early := true } (some capture) s)

/-- A release offered to a reaction record: ignored before the arming time, early before the start, else the reaction
(R104, R106, R108). -/
def offerToReaction (n : LaneNo) (h : Heat) (r : Reaction) (capture : DeckTime) (s : State) : State :=
  if atOrAfter capture r.arming then
    match h.startTime with
    | none => earlyRelease n r capture s
    | some start =>
      let t := raceTimeFrom start capture
      if beforeStart t then earlyRelease n r capture s
      else writeReaction n { r with release := some t, reaction := some t, armed := false } none s
  else s

/-- The reaction arming of a lane ends, its record standing (R108). -/
def endReactionArming (n : LaneNo) (s : State) : State :=
  s.modLane n fun l => { l with reaction := l.reaction.map fun r => { r with armed := false } }

/-! ## Exchange records (R109 to R114) -/

/-- The exchange records of a start, one for each of legs 2 to L (R109). -/
def Definition.exchanges (d : Definition) : List Exchange :=
  (List.range (d.legs - 1)).map fun i =>
    ⟨i + 2, d.endOf ((d.boundary (i + 2)).getD 0), none, none, none, none, .pending⟩

/-- A record armed and its takeoff still awaited (R104). -/
def Exchange.armed (x : Exchange) : Bool := x.arming.isSome && x.release.isNone && x.verdict == .pending

/-- One exchange record of a lane changed. -/
def State.modExchange (s : State) (n : LaneNo) (leg : Nat) (f : Exchange → Exchange) : State :=
  s.modLane n fun l => { l with exchanges := l.exchanges.map fun x => if x.leg = leg then f x else x }

/-- The reason a verdict brings (R112, R113). -/
def Verdict.reason : Verdict → Option Reason
  | .pending => none
  | .ok => none
  | .early => some .exchangeEarly
  | .unjudged _ => some .exchangeUnjudged

/-- A record completed: written, its EXCHANGE notice, then its reason with its HOLD_CHANGE (R116). -/
def completeExchange (n : LaneNo) (x : Exchange) (reason : Option Reason) (s : State) : State :=
  let s := raise (.exchange n x) (s.modExchange n x.leg fun _ => x)
  match reason with
  | none => s
  | some r => addReason n r s

/-- A verdict given to a record, with the reason of R112 and R113. -/
def giveVerdict (n : LaneNo) (x : Exchange) (v : Verdict) (s : State) : State :=
  completeExchange n { x with verdict := v } v.reason s

/-- The verdict of a margin: EARLY below minus the allowance (R112). -/
def marginVerdict (allowance : Nat) (margin : Int) : Verdict :=
  if margin < -(allowance : Int) then .early else .ok

/-- A record with its touch time or its takeoff newly written: the margin and the verdict when both are known, else it
waits (R111, R112). -/
def judgeMargin (n : LaneNo) (allowance : Nat) (x : Exchange) (s : State) : State :=
  match x.touch, x.release with
  | some t, some r =>
    giveVerdict n { x with margin := some ((r : Int) - (t : Int)) } (marginVerdict allowance ((r : Int) - (t : Int))) s
  | _, _ => s.modExchange n x.leg fun _ => x

/-- The record of the boundary after a length, while its verdict is PENDING. -/
def Heat.pendingAt (h : Heat) (n : LaneNo) (m : Nat) : Option Exchange :=
  (h.lanes.get n).exchanges.find? fun x => h.definition.boundary x.leg == some m && x.verdict == .pending

/-- The record of the boundary after an entry's length takes its touch time, or UNJUDGED from a NONE entry (R112, R113). -/
def settleTouch (n : LaneNo) (e : SplitEntry) (s : State) : State :=
  match s.heat with
  | none => s
  | some h =>
    match h.pendingAt n e.length with
    | none => s
    | some x =>
      match e.time with
      | none => giveVerdict n x (.unjudged .noneEntry) s
      | some t => judgeMargin n h.definition.exchangeAllowance { x with touch := some t } s

/-- The record of the boundary after the previous length takes the NO_TAKEOFF test (R113). -/
def settleTakeoff (n : LaneNo) (e : SplitEntry) (s : State) : State :=
  match s.heat with
  | none => s
  | some h =>
    match h.pendingAt n (e.length - 1) with
    | none => s
    | some x => if x.release.isNone then giveVerdict n x (.unjudged .noTakeoff) s else s

/-- The record of the boundary after length m is armed at the present deck time, or UNJUDGED at once when its platform is
out of service (R110; log 11). -/
def armExchange (n : LaneNo) (m : Nat) (s : State) : State :=
  match s.heat with
  | none => s
  | some h =>
    match h.pendingAt n m with
    | none => s
    | some x =>
      if s.inService (platformInput n x.finish) then
        s.modExchange n x.leg fun y => { y with arming := some (h.raceTime s.deckTime) }
      else giveVerdict n x (.unjudged .platformService) s

/-- Exchange judging of one split entry, in the order of R115. -/
def judgeEntry (n : LaneNo) (s : State) (e : SplitEntry) : State :=
  let s := if e.length = 1 then endReactionArming n s else s
  armExchange n (e.length + 1) (settleTakeoff n e (settleTouch n e s))

/-- Exchange judging of the entries that joined a lane's list behind its first `count`, in length order (R115). -/
def judgeFrom (n : LaneNo) (count : Nat) (s : State) : State :=
  match s.heat with
  | none => s
  | some h => ((h.lanes.get n).splits.drop count).foldl (judgeEntry n) s

/-- A lane that will reach no further length: one PENDING record UNJUDGED, with a reason when it had been armed (R114). -/
def abandonExchange (n : LaneNo) (s : State) (x : Exchange) : State :=
  if x.verdict = .pending then
    completeExchange n { x with verdict := .unjudged .noFurtherLength }
      (if x.arming.isSome then some .exchangeUnjudged else none) s
  else s

/-- Every PENDING record of a lane settled by R114; that they are taken in leg order is the model's choice (log 40). -/
def abandonExchanges (n : LaneNo) (s : State) : State :=
  match s.heat with
  | none => s
  | some h => (h.lanes.get n).exchanges.foldl (abandonExchange n) s

/-! ## Platform events -/

/-- A release offered to an armed exchange record: its takeoff when it counts, judged at the end of the event (R104, R111,
R122). -/
def offerToExchange (n : LaneNo) (h : Heat) (x : Exchange) (capture : DeckTime) (s : State) : State :=
  match x.arming with
  | none => s
  | some a =>
    if atOrAfter capture (h.startTime.getD 0 + BitVec.ofNat 32 a) then
      s.modExchange n x.leg fun _ => { x with release := some (h.raceTime capture) }
    else s

/-- The exchange records of a lane of the current race. -/
def State.exchangesOf (s : State) (n : LaneNo) : List Exchange := ((s.heat.map fun h => h.lanes.get n).map Lane.exchanges).getD []

/-- The PENDING records of a lane that took their takeoff since an earlier state. -/
def newTakeoffs (before s : State) (n : LaneNo) : List Exchange :=
  (s.exchangesOf n).filter fun x => x.release.isSome && x.verdict == .pending && !(before.exchangesOf n).contains x

/-- The verdict that a takeoff brings when the touch time is known (R111, R112). -/
def judgeTakeoff (n : LaneNo) (s : State) (x : Exchange) : State :=
  match s.heat with
  | none => s
  | some h => judgeMargin n h.definition.exchangeAllowance x s

/-- The takeoffs a lane took since an earlier state judged, in leg order (log 38). -/
def judgeTakeoffs (before : State) (n : LaneNo) (s : State) : State := (newTakeoffs before s n).foldl (judgeTakeoff n) s

/-- A lane's takeoffs since an earlier state judged, and one HOLD_CHANGE for all the reasons the lane was given since it: that of
the first verdict that brings a reason, else one of its own (R116, R122; log 16). -/
def reportLane (before s : State) (n : LaneNo) : State :=
  let t := judgeTakeoffs before n s
  if t.deskOf n = s.deskOf n then reportDesk n .reasonAdded none before t else t

/-- The reaction record a platform is armed for (R104). -/
def Heat.reactionAt (h : Heat) (n : LaneNo) (e : End) : Option Reaction :=
  if e = h.definition.startEnd then (h.lanes.get n).reaction.filter Reaction.armed else none

/-- The exchange record a platform is armed for (R104). -/
def Heat.exchangeAt (h : Heat) (n : LaneNo) (e : End) : Option Exchange :=
  (h.lanes.get n).exchanges.find? fun x => x.armed && x.finish == e

/-- A RELEASE taken: offered to the one record its platform is armed for, else ignored (R104). No platform is armed for a
lane that is VACANT, FINISHED or RELEASED (R108, R114). -/
def takeRelease (n : LaneNo) (e : End) (capture : DeckTime) (s : State) : State :=
  match s.heat with
  | none => s
  | some h =>
    if (h.lanes.get n).unfinished then
      match h.reactionAt n e, h.exchangeAt n e with
      | some r, _ => offerToReaction n h r capture s
      | none, some x => offerToExchange n h x capture s
      | none, none => s
    else s

/-- A platform leaves service: a reaction record armed after the start takes UNMEASURED (R108), an exchange record armed
and without takeoff UNJUDGED (R113). In MARKS an armed reaction record stays (log 31). -/
def platformLost (n : LaneNo) (e : End) (s : State) : State :=
  match s.heat with
  | none => s
  | some h =>
    if (h.lanes.get n).unfinished then
      match h.reactionAt n e, h.exchangeAt n e with
      | some r, _ => if (h.lanes.get n).state = .swimming then writeReaction n r.lost none s else s
      | none, some x => giveVerdict n x (.unjudged .platformService) s
      | none, none => s
    else s

end Sys2Proof.Machine
end

