-- ==== Sys2Proof/Machine/Touch.lean ====
section
/-! DEFINITION. Touch acceptance (04): the expectation and its window, acceptance, skip, rejection, inference, the opening
and filling of a collection (05, R85 to R87), and the meaning of PROMOTE TOUCH. -/

namespace Sys2Proof.Machine

open Sys2Proof

/-! ## Window and expectation (R65 to R67) -/

/-- The basis duration of AUTO mode; PREVIOUS falls back on D1 (R66). -/
def Lane.basisDuration (l : Lane) : Option Nat :=
  match l.timing.basis with
  | .last => l.d1
  | .previous => l.d2.or l.d1

/-- The window offset sized from timing and durations (R66). A duration is present after every accepted touch. -/
def Lane.sizedOffset (d : Definition) (l : Lane) : Nat :=
  match l.timing.mode with
  | .manual => d.minLength
  | .auto => max d.minLength (l.timing.weight * l.basisDuration.getD 0 / 32)

/-- The length of the last timed entry, 0 when no entry is timed (R67). -/
def lastTimedLength (es : List SplitEntry) : Nat :=
  ((es.reverse.find? fun e => e.time.isSome).map SplitEntry.length).getD 0

/-- The race time of the last timed entry, 0 when no entry is timed: the floor of R87, the bound of R95 and R97. -/
def lastTimedTime (es : List SplitEntry) : Nat := (lastTimed (fun _ => true) es).getD 0

/-- The window offset: FirstGuard while no entry is timed (R67). -/
def Lane.offset (d : Definition) (l : Lane) : Nat :=
  if lastTimedLength l.splits = 0 then d.firstGuard else l.sizedOffset d

/-- The span of length k (R67). -/
def Lane.span (l : Lane) (k : Nat) : Nat := k - lastTimedLength l.splits

/-- The expectation of length k from a reference (R67); the current leg moves with it (R44). -/
def Lane.expect (d : Definition) (k reference : Nat) (l : Lane) : Lane :=
  { l with
    expectation := some ⟨k, d.endOf k, reference, reference + l.span k * l.offset d⟩
    leg := some (d.legOf k) }

/-- The expectation of a lane set in the current race. -/
def expectLength (n : LaneNo) (k reference : Nat) (s : State) : State :=
  s.modHeat fun h => h.modLane n (Lane.expect h.definition k reference)

/-! ## Split entries (R57, R80, R167) -/

/-- Whether an entry queues a board update: a NONE entry always, a timed one on the split interval or at N (R167). -/
def SplitEntry.updatesBoard (d : Definition) (e : SplitEntry) : Bool :=
  e.source == .none || e.length % d.splitInterval == 0 || e.length == d.lengths

/-- An entry joins a lane's split list, with its SPLIT notice and its board update. -/
def addSplit (n : LaneNo) (e : SplitEntry) (p : Option Promotion) (s : State) : State :=
  match s.heat with
  | none => s
  | some h =>
    let s := raise (.split n e p) (s.modLane n fun l => { l with splits := l.splits ++ [e] })
    if e.updatesBoard h.definition then queueLane n s else s

/-- A length written down as missed: its NONE entry, then SKIPPED_LENGTH with its HOLD_CHANGE (R74, R77, R80). -/
def addMissed (n : LaneNo) (k : Nat) (s : State) : State :=
  match s.heat with
  | none => s
  | some h =>
    addReason n .skippedLength
      (addSplit n ⟨k, h.definition.endOf k, h.definition.legOf k, none, .none⟩ none s)

/-- Inference while the expected pad cannot report, through at most `fuel` lengths (R77). -/
def infer (n : LaneNo) : Nat → State → State
  | 0, s => s
  | fuel + 1, s =>
    match s.heat with
    | none => s
    | some h =>
      match (h.lanes.get n).expectation with
      | none => s
      | some x =>
        if x.length < h.definition.lengths ∧ s.inService (padInput n x.finish) = false then
          infer n fuel (expectLength n (x.length + 1) x.reference (addMissed n x.length s))
        else s

/-- The test of R77 after an expectation is set; N lengths bound its chain. -/
def inferAll (n : LaneNo) (s : State) : State :=
  match s.heat with
  | none => s
  | some h => infer n h.definition.lengths s

/-! ## Acceptance (R70, R71) -/

/-- The durations after a touch that closes so many lengths in an interval (R71). -/
def Lane.shiftDurations (closed interval : Nat) (l : Lane) : Lane :=
  if closed ≤ 1 then { l with d1 := some interval, d2 := l.d1 }
  else { l with d1 := some (interval / closed), d2 := some (interval / closed) }

/-- Pending fields over a lane's timing (R54). -/
def LaneTiming.apply (t : LaneTiming) (p : PendingTiming) : LaneTiming :=
  ⟨p.mode.getD t.mode, p.weight.getD t.weight, p.basis.getD t.basis⟩

/-- The pending timing applied and gone (R54). -/
def Lane.applyPending (l : Lane) : Lane :=
  match l.pendingTiming with
  | none => l
  | some p => { l with timing := l.timing.apply p, pendingTiming := none }

/-- A touch accepted for length k below N: entry, durations, reference, pending timing, the next expectation and its
inference (R70); exchange judging follows at the end of the event (R115). The lengths closed are those since the last
timed entry (R71). -/
def acceptLength (n : LaneNo) (k t : Nat) (source : SplitSource) (p : Option Promotion) (s : State) : State :=
  match s.heat with
  | none => s
  | some h =>
    match (h.lanes.get n).expectation with
    | none => s
    | some x =>
      let closed := (h.lanes.get n).span k
      let s := addSplit n ⟨k, h.definition.endOf k, h.definition.legOf k, some t, source⟩ p s
      let s := s.modLane n fun l => (l.shiftDurations closed (t - x.reference)).applyPending
      inferAll n (expectLength n (k + 1) t s)

/-! ## Collections (R72, R85 to R87) -/

/-- A slot of a collection record (R86, R134). -/
inductive CollectionSlot where
  | pad
  | button (slot : Slot)

def Collection.read (c : Collection) : CollectionSlot → Option Nat
  | .pad => c.pad
  | .button .one => c.one
  | .button .two => c.two
  | .button .three => c.three

def Collection.write (c : Collection) (k : CollectionSlot) (t : Nat) : Collection :=
  match k with
  | .pad => { c with pad := some t }
  | .button .one => { c with one := some t }
  | .button .two => { c with two := some t }
  | .button .three => { c with three := some t }

/-- The record of a lane whose collection opens: expectation and pending timing gone, no reaction armed, leg L, one slot
filled (R44, R72, R86, R108). -/
def Lane.open (d : Definition) (opening : Nat) (k : CollectionSlot) (t : Nat) (l : Lane) : Lane :=
  { l with
    state := .collect
    expectation := none
    pendingTiming := none
    leg := some d.legs
    reaction := l.reaction.map fun r => { r with armed := false }
    collection := some ((Collection.mk opening none none none none).write k t) }

/-- COLLECT opens on a lane (R45, R72, R85, R86). -/
def openCollect (n : LaneNo) (opening : Nat) (k : CollectionSlot) (t : Nat) (s : State) : State :=
  queueLane n (s.modHeat fun h => h.modLane n (Lane.open h.definition opening k t))

/-- A contact during COLLECT: above the floor it fills its slot if that is empty (R87). -/
def fillSlot (n : LaneNo) (k : CollectionSlot) (t : Nat) (s : State) : State :=
  s.modLane n fun l =>
    match l.collection with
    | none => l
    | some c =>
      if beforeStart t || decide (t ≤ lastTimedTime l.splits) || (c.read k).isSome then l
      else { l with collection := some (c.write k t) }

/-! ## Rejection (R59, R69, R75, R76) -/

/-- The next rejection number: from 65535 to 1 (R59). -/
def nextRejection (count : Nat) : Nat := if count = 65535 then 1 else count + 1

/-- A touch turned away: the count, the entry, the oldest pushed out of a full list, the REJECT notice. -/
def rejectTouch (n : LaneNo) (t : Nat) (e : End) (reason : RejectReason) (k : Nat) (s : State) : State :=
  match s.heat with
  | none => s
  | some h =>
    let l := h.lanes.get n
    let entry : RejectedEntry := ⟨nextRejection l.rejections, t, e, reason, k⟩
    let full := decide (8 ≤ l.rejected.length)
    raise (.reject n entry (if full then l.rejected.head?.map RejectedEntry.number else none))
      (s.modLane n fun l =>
        { l with
          rejections := nextRejection l.rejections
          rejected := (if full then l.rejected.drop 1 else l.rejected) ++ [entry] })

/-! ## A deck touch (R68 to R75) -/

/-- The window length k+1 would have had (R74). -/
def skipWindow (d : Definition) (l : Lane) (x : Expectation) : Nat :=
  x.reference + (l.span x.length + 1) * l.offset d

/-- A skip: the NONE entry of k, then k+1 accepted, or COLLECT opened when k+1 is N (R74). -/
def takeSkip (n : LaneNo) (d : Definition) (x : Expectation) (t : Nat) (s : State) : State :=
  let s := expectLength n (x.length + 1) x.reference (addMissed n x.length s)
  if x.length + 1 < d.lengths then acceptLength n (x.length + 1) t .pad none s else openCollect n t .pad t s

/-- A touch on a SWIMMING lane judged by the first row of R68 that fits; exchange judging of the entries follows at the end of
the event (R115, R116). -/
def judgeTouch (n : LaneNo) (h : Heat) (x : Expectation) (e : End) (t : Nat) (s : State) : State :=
  let l := h.lanes.get n
  let d := h.definition
  if beforeStart t then s
  else if e = x.finish then
    if t < x.window then rejectTouch n t e .early x.length s
    else if x.length < d.lengths then acceptLength n x.length t .pad none s
    else openCollect n t .pad t s
  else if t < x.reference + d.turnLockout then s
  else if x.length < d.lengths ∧ skipWindow d l x ≤ t then takeSkip n d x t s
  else rejectTouch n t e .wrongEnd x.length s

/-- A TOUCH of a pad taken by its lane, by lane state (R46, R68, R87). -/
def takeTouch (n : LaneNo) (e : End) (capture : DeckTime) (s : State) : State :=
  match s.heat with
  | none => s
  | some h =>
    match (h.lanes.get n).state, (h.lanes.get n).expectation with
    | .swimming, some x => judgeTouch n h x e (h.raceTime capture) s
    | .collect, _ => if e = h.definition.finishEnd then fillSlot n .pad (h.raceTime capture) s else s
    | _, _ => s

/-- A PRESS of a button taken by its lane (R46, R85, R87). -/
def takePress (n : LaneNo) (slot : Slot) (capture : DeckTime) (s : State) : State :=
  match s.heat with
  | none => s
  | some h =>
    let t := h.raceTime capture
    match (h.lanes.get n).state, (h.lanes.get n).expectation with
    | .swimming, some x =>
      if x.length = h.definition.lengths ∧ beforeStart t = false ∧ x.window ≤ t then
        openCollect n t (.button slot) t s
      else s
    | .collect, _ => fillSlot n (.button slot) t s
    | _, _ => s

/-- A pad leaves service: inference when it is the expected end of a SWIMMING lane below N (R78); exchange judging follows
at the end of the event (R115, R116). -/
def padLost (n : LaneNo) (e : End) (s : State) : State :=
  match s.heat with
  | none => s
  | some h =>
    match (h.lanes.get n).state, (h.lanes.get n).expectation with
    | .swimming, some x =>
      if x.finish = e then inferAll n s else s
    | _, _ => s

/-! ## PROMOTE TOUCH (R81 to R83) -/

/-- What a taken promotion answers: the length accepted, the expectation now standing under a presence byte (absent when
COLLECT has opened), and the size of the rejected list (R82, R83; log 17). -/
def promoteAnswer (n : LaneNo) (k : Nat) (s : State) : Reply :=
  match s.heat with
  | none => done [] s
  | some h =>
    done (byteOf k :: optionalGroup [(h.lanes.get n).expectation.map Expectation.bytes] ++
      [byteOf (h.lanes.get n).rejected.length]) s

/-- A promotion that passed its checks (R82, R83). -/
def promoteEntry (link : Link) (n : LaneNo) (h : Heat) (x : Expectation) (r : RejectedEntry) (s : State) : State :=
  let count := (h.lanes.get n).splits.length
  let s := s.modLane n fun l => { l with rejected := l.rejected.filter fun q => q.number != r.number }
  if x.length < h.definition.lengths then
    judgeFrom n count (acceptLength n x.length r.time .promoted (some ⟨link, r.number⟩) s)
  else openCollect n (h.raceTime s.deckTime) .pad r.time s

/-- The checks 3 to 5 of R81. -/
def promote (link : Link) (number : Nat) (n : LaneNo) (h : Heat) (l : Lane) (s : State) : Reply :=
  match l.expectation, l.rejected.find? fun q => q.number == number with
  | some x, some r =>
    if r.finish ≠ x.finish ∨ r.time ≤ x.reference then refuse .stale s
    else promoteAnswer n x.length (promoteEntry link n h x r s)
  | _, _ => refuse .notFound s

/-- PROMOTE TOUCH as its owner takes it; a rejection number of 0 is malformed (R81). -/
def performPromote (link : Link) (lane : Byte) (number : Word16) (s : State) : Reply :=
  if number = 0 then malformed s
  else laneRequest lane (laneGate .wrong .wrong .taken .busy .wrong .wrong) (promote link number.toNat) s

/-- PROMOTE_TOUCH. -/
def execPromoteTouch (link : Link) (tag lane : Byte) (number : Word16) (s : State) :
    Host.Outcome State Fault Refusal :=
  .next (arrive link tag 0x0B (performPromote link lane number) s)

end Sys2Proof.Machine
end

