-- ==== Sys2Proof/Machine/Finish.lean ====
section
/-! DEFINITION. The finish (05): the backup value, the resolution at the CollectTime expiry, ENTER FINISH, ADJUST FINISH and
DECLARE NO FINISH (03, R55). -/

namespace Sys2Proof.Machine

open Sys2Proof

/-! ## Resolution (R90 to R94) -/

/-- The middle of three times. -/
def median3 (a b c : Nat) : Nat := max (min a b) (min (max a b) c)

/-- The filled button slots, in slot order. -/
def Collection.buttons (c : Collection) : List Nat := [c.one, c.two, c.three].filterMap id

/-- The backup value (R90). -/
def Collection.backup (c : Collection) : Option Nat :=
  match c.buttons with
  | [a, b, d] => some (median3 a b d)
  | [a, b] => some ((a + b) / 2)
  | [a] => some a
  | _ => none

/-- The finish source of a collection without a pad time (R91). -/
def Collection.buttonSource (c : Collection) : SplitSource :=
  match c.buttons with
  | [_, _, _] => .buttonMedian
  | [_, _] => .buttonMean
  | _ => .buttonSingle

/-- The difference of two times. -/
def timeGap (a b : Nat) : Nat := max a b - min a b

/-- DISCREPANT: a pad time and at least two buttons, differing by more than BackupTolerance (R92). -/
def Collection.discrepant (c : Collection) (tolerance pad : Nat) : Bool :=
  decide (2 ≤ c.buttons.length) && (c.backup.any fun b => decide (tolerance < timeGap pad b))

/-- Official time, finish source and system reasons of a collection (R91 to R93). Every collection has a source (R88). -/
def Collection.resolve (c : Collection) (tolerance : Nat) (padInService : Bool) :
    Option (Nat × SplitSource × List Reason) :=
  match c.pad, c.backup with
  | some t, _ => some (t, .pad, if c.discrepant tolerance t then [.discrepant] else [])
  | none, some b => some (b, c.buttonSource, if padInService then [.padMissed] else [])
  | none, none => none

/-- The final split entry, its notice and its exchange judging (R94, R96). -/
def addFinalSplit (n : LaneNo) (t : Nat) (source : SplitSource) (s : State) : State :=
  match s.heat with
  | none => s
  | some h =>
    judgeFrom n (h.lanes.get n).splits.length
      (addSplit n ⟨h.definition.lengths, h.definition.finishEnd, h.definition.legs, some t, source⟩ none s)

/-- The first resolution of a start with outcome TIME begins the freeze; with FreezeHold 0 it is only marked used (R170,
log 19). -/
def Board.beginFreeze (p : Params) (now : DeckTime) (t : Nat) (b : Board) : Board :=
  if b.freezeUsed then b
  else if p.freezeHold = 0 then { b with freezeUsed := true }
  else { b with freeze := some ⟨⟨now, p.freezeHold⟩, hundredths t⟩, clockDue := true, freezeUsed := true }

/-- The finish of a lane resolved at its CollectTime expiry (R94). -/
def resolveFinish (n : LaneNo) (s : State) : State :=
  match s.heat with
  | none => s
  | some h =>
    match (h.lanes.get n).collection with
    | none => s
    | some c =>
      match c.resolve h.definition.backupTolerance (s.inService (padInput n h.definition.finishEnd)) with
      | none => s
      | some (t, source, reasons) =>
        let s := addFinalSplit n t source s
        let s := s.modBoard (Board.beginFreeze s.params s.deckTime t)
        finishLane n (.time t source c.backup none) none reasons s

/-- Whether a lane's CollectTime timer has run out: its opening race time plus CollectTime is reached (R86). -/
def collectDue (n : LaneNo) (s : State) : Bool :=
  match s.heat with
  | none => false
  | some h =>
    (h.lanes.get n).state == .collect &&
      (h.lanes.get n).collection.any fun c => decide (c.opening + h.definition.collectTime ≤ h.raceTime s.deckTime)

/-- COLLECTTIME_EXPIRY: without an expiry to take, nothing happens (log 2). -/
def execCollecttimeExpiry (n : LaneNo) (s : State) : Host.Outcome State Fault Refusal :=
  .next (event (fun s => if collectDue n s then resolveFinish n s else s) s)

/-! ## Requests -/

/-- A lane's place as ENTER FINISH, ADJUST FINISH, DISQUALIFY and REINSTATE answer it: absent or present under a presence
byte (R190); that the 0 of READ LANE (R191) is not meant here is the model's reading (log 17). -/
def placeAnswer (n : LaneNo) (s : State) : List Byte :=
  optionalGroup [(s.heat.bind fun h => (h.desks.get n).place).map fun p => [byteOf p]]

/-- A lane ended without a time: its exchanges settled, then the effects of R56 (R55, R114; log 35). -/
def finishWithoutTime (n : LaneNo) (link : Option Link) (s : State) : State :=
  finishLane n .noFinish link [] (abandonExchanges n s)

/-- DECLARE NO FINISH as its owner takes it (R47, R55). -/
def performDeclareNoFinish (link : Link) (lane : Byte) (s : State) : Reply :=
  laneRequest lane (laneGate .wrong .wrong .taken .busy .wrong .wrong)
    (fun n _ _ s => done [] (finishWithoutTime n (some link) s)) s

/-- DECLARE_NO_FINISH. -/
def execDeclareNoFinish (link : Link) (tag lane : Byte) (s : State) : Host.Outcome State Fault Refusal :=
  .next (arrive link tag 0x0C (performDeclareNoFinish link lane) s)

/-- The checks 2 to 4 of R95 and the effect of R96. -/
def enterFinish (link : Link) (t : Nat) (n : LaneNo) (h : Heat) (l : Lane) (s : State) : Reply :=
  if (l.expectation.map Expectation.length) ≠ some h.definition.lengths then refuse .notFinalLength s
  else if t ≤ lastTimedTime l.splits ∨ h.raceTime s.deckTime < t then refuse .order s
  else
    let s := addFinalSplit n t .manual s
    let s := finishLane n (.time t .manual none none) (some link) [] s
    done (le4 t ++ placeAnswer n s) s

/-- ENTER FINISH as its owner takes it (R47, R95, R96). -/
def performEnterFinish (link : Link) (lane : Byte) (time : Word32) (s : State) : Reply :=
  laneRequest lane (laneGate .wrong .wrong .taken .busy .wrong .wrong) (enterFinish link time.toNat) s

/-- ENTER_FINISH. -/
def execEnterFinish (link : Link) (tag lane : Byte) (time : Word32) (s : State) : Host.Outcome State Fault Refusal :=
  .next (arrive link tag 0x0D (performEnterFinish link lane time) s)

/-- The split list with the final entry's time replaced (R98). -/
def adjustSplits (d : Definition) (t : Nat) (es : List SplitEntry) : List SplitEntry :=
  es.map fun e => if e.length = d.lengths then { e with time := some t, source := .manual } else e

/-- DISCREPANT and PAD_MISSED, the reasons an adjustment removes (R98, R121). -/
def finishReasons : ReasonSet := (ReasonSet.empty.put .discrepant true).put .padMissed true

/-- The effect of R98: the backup value stays in the core, and the FINISH notice carries the items R98 lists, which it is
not among (log 30). -/
def replaceFinish (link : Link) (t old : Nat) (backup : Option Nat) (n : LaneNo) (s : State) : State :=
  let core : ResultCore := .time t .manual backup (some old)
  let s := s.modHeat fun h => h.modLane n fun l =>
    { l with result := some core, splits := adjustSplits h.definition t l.splits }
  let s := queueLane n (raise (.finish n (.time t .manual none (some old)) (some link)) s)
  releaseCheck n (recomputePlaces (changeDesk n .reasonRemoved (some link) (Desk.dropReasons finishReasons) s))

/-- The checks 2 to 4 of R97: the time is tested against the race clock, which in REVIEW is the stop race time. -/
def adjustFinish (link : Link) (t : Nat) (n : LaneNo) (h : Heat) (l : Lane) (s : State) : Reply :=
  match l.result with
  | some (.time old _ backup _) =>
    if t ≤ lastTimedTime (l.splits.filter fun e => e.length != h.definition.lengths)
        ∨ (h.raceClock s.deckTime).any (fun c => decide (c < t)) then refuse .order s
    else
      let s := replaceFinish link t old backup n s
      done (le4 t ++ le4 old ++ placeAnswer n s) s
  | some .noFinish => wrongLane l s
  | none => wrongLane l s

/-- ADJUST FINISH as its owner takes it (R47, R97, R98). -/
def performAdjustFinish (link : Link) (lane : Byte) (time : Word32) (s : State) : Reply :=
  laneRequest lane (laneGate .wrong .wrong .wrong .busy .taken .final) (adjustFinish link time.toNat) s

/-- ADJUST_FINISH. -/
def execAdjustFinish (link : Link) (tag lane : Byte) (time : Word32) (s : State) : Host.Outcome State Fault Refusal :=
  .next (arrive link tag 0x0E (performAdjustFinish link lane time) s)

end Sys2Proof.Machine
end

