-- ==== Sys2Proof/Machine/LaneRequests.lean ====
section
/-! DEFINITION. The lane requests of chapter 03 that no deck touch concerns: SCRATCH LANE, ASSIGN ENTRANT, SET LANE TIMING,
READ LANE and READ SPLITS. -/

namespace Sys2Proof.Machine

open Sys2Proof

/-! ## SCRATCH LANE (R48) -/

/-- A scratched lane: VACANT, no tags, no leg, no reaction record; its timing stays. -/
def Lane.scratch (l : Lane) : Lane := { l with state := .vacant, tags := [], leg := none, reaction := none }

/-- Hold set and DQ mark gone (R48, R121). -/
def Desk.scratch (k : Desk) : Desk := { k with hold := HoldSet.empty, dq := none }

/-- The lanes that are READY. -/
def Heat.readyLanes (h : Heat) : List LaneNo := h.lanesWhere fun l => l.state == .ready

/-- The effect of R48. -/
def scratch (link : Link) (n : LaneNo) (s : State) : State :=
  changeDesk n .scratch (some link) Desk.scratch (owesHeader (queueLane n (s.modLane n Lane.scratch)))

/-- The number of READY lanes in an answer (R48), one byte (log 17). -/
def readyCount (s : State) : Nat :=
  match s.heat with
  | none => 0
  | some h => h.readyLanes.length

/-- SCRATCH LANE as its owner takes it (R47, R48). -/
def performScratchLane (link : Link) (lane : Byte) (s : State) : Reply :=
  laneRequest lane (laneGate .wrong .taken .wrong .busy .wrong .wrong)
    (fun n h _ s =>
      if h.readyLanes = [n] then refuse .lastLane s
      else
        let s := scratch link n s
        done [byteOf (readyCount s)] s) s

/-- SCRATCH_LANE. -/
def execScratchLane (link : Link) (tag lane : Byte) (s : State) : Host.Outcome State Fault Refusal :=
  .next (arrive link tag 0x08 (performScratchLane link lane) s)

/-! ## ASSIGN ENTRANT (R49, R50) -/

/-- The position, from 1, of the first item whose leg lies outside 1 to L (R49, check 1; log 17). -/
def badLegItem (legs : Nat) : Nat → List TagItem → Option Nat
  | _, [] => none
  | i, t :: ts => if outside 1 legs t.leg.toNat then some i else badLegItem legs (i + 1) ts

/-- Whether a leg is named by two items (R49, check 2). -/
def repeatedLeg (items : List TagItem) : Bool := !decide ((items.map TagItem.leg).Nodup)

/-- Whether every leg from 1 to L is named (R49, check 3). -/
def namesEveryLeg (legs : Nat) (items : List TagItem) : Bool :=
  (List.range legs).all fun j => items.any fun t => t.leg.toNat == j + 1

/-- The first leg in list order that is at or below the current leg (R49, check 5); which leg is reported when several are
is the model's choice (log 37). -/
def startedLeg (l : Lane) (items : List TagItem) : Option Byte :=
  (items.find? fun t => decide (t.leg.toNat ≤ l.leg.getD 0)).map TagItem.leg

/-- A tag list with the items' tags written at their legs (R50). -/
def writeTags (tags : List Word32) (items : List TagItem) : List Word32 :=
  items.foldl (fun ts t => ts.set (t.leg.toNat - 1) t.tag) tags

/-- A lane in use with the items' tags written (R50). -/
def retag (items : List TagItem) (n : LaneNo) (s : State) : State :=
  queueLane n (s.modLane n fun l => { l with tags := writeTags l.tags items })

/-- A VACANT lane made READY (R50); in the marks of a BLOCK start it is armed at once (R105). -/
def enterLane (items : List TagItem) (n : LaneNo) (h : Heat) (s : State) : State :=
  let s := s.modLane n fun l =>
    { l with
      state := .ready
      leg := some 1
      tags := writeTags (List.replicate h.definition.legs 0) items }
  let s := if h.phase = .marks ∧ h.definition.startKind = .block then armForMarks n s else s
  owesHeader (queueLane n s)

/-- The tag list of a lane in an answer (R50). -/
def tagAnswer (n : LaneNo) (s : State) : List Byte :=
  countedList tagBytes ((s.heat.map fun h => (h.lanes.get n).tags).getD [])

/-- A taken ASSIGN ENTRANT by lane state (R49, checks 3 to 5; R50). -/
def assignByState (items : List TagItem) (n : LaneNo) (h : Heat) (l : Lane) (s : State) : Reply :=
  if l.state = .vacant then
    if !namesEveryLeg h.definition.legs items then invalid (.plain .tagCount) s
    else if h.phase = .loaded ∨ h.phase = .marks then
      let s := enterLane items n h s
      done (tagAnswer n s) s
    else wrongRace s
  else
    match (if l.state = .swimming then startedLeg l items else none) with
    | some g => ⟨s, .legStarted, [g]⟩
    | none =>
      let s := retag items n s
      done (tagAnswer n s) s

/-- The checks of R49 in their order. -/
def assign (items : List TagItem) (n : LaneNo) (h : Heat) (l : Lane) (s : State) : Reply :=
  if outside 1 4 items.length then invalid (.plain .tagCount) s
  else
    match badLegItem h.definition.legs 1 items with
    | some i => invalid ⟨.range, some FieldCode.leg.code, i, 0⟩ s
    | none =>
      if repeatedLeg items then invalid (.plain .tagCount) s
      else assignByState items n h l s

/-- ASSIGN ENTRANT as its owner takes it (R47, R49, R50). -/
def performAssignEntrant (lane : Byte) (items : List TagItem) (s : State) : Reply :=
  laneRequest lane (laneGate .taken .taken .taken .busy .wrong .wrong) (assign items) s

/-- ASSIGN_ENTRANT. -/
def execAssignEntrant (link : Link) (tag lane : Byte) (items : List TagItem) (s : State) :
    Host.Outcome State Fault Refusal :=
  .next (arrive link tag 0x09 (performAssignEntrant lane items) s)

/-! ## SET LANE TIMING (R52, R53) -/

/-- Given fields over a pending record (R53). -/
def mergePending (old : Option PendingTiming) (p : PendingTiming) : PendingTiming :=
  match old with
  | none => p
  | some q => ⟨p.mode.or q.mode, p.weight.or q.weight, p.basis.or q.basis⟩

/-- A lane with the fields taken: at once when READY, into the pending timing when SWIMMING (R52, R53). -/
def Lane.setTiming (p : PendingTiming) (l : Lane) : Lane :=
  if l.state = .swimming then { l with pendingTiming := some (mergePending l.pendingTiming p) }
  else { l with timing := l.timing.apply p }

/-- The lane timing and the pending timing in an answer (R52). -/
def timingAnswer (n : LaneNo) (s : State) : List Byte :=
  match s.heat with
  | none => []
  | some h => (h.lanes.get n).timing.bytes ++ pendingBytes (h.lanes.get n).pendingTiming

/-- The check of W and the effect of R52. -/
def setTiming (p : PendingTiming) (n : LaneNo) (_h : Heat) (_l : Lane) (s : State) : Reply :=
  if p.weight.any (outside 1 31) then invalid ⟨.range, some FieldCode.windowWeight.code, 0, 0⟩ s
  else
    let s := s.modLane n (Lane.setTiming p)
    done (timingAnswer n s) s

/-- SET LANE TIMING as its owner takes it; a body with no field or a code outside its set is malformed (R52). -/
def performSetLaneTiming (lane : Byte) (timing : TimingBody) (s : State) : Reply :=
  match decodeTiming timing with
  | none => malformed s
  | some p => laneRequest lane (laneGate .wrong .taken .taken .busy .wrong .wrong) (setTiming p) s

/-- SET_LANE_TIMING. -/
def execSetLaneTiming (link : Link) (tag lane : Byte) (timing : TimingBody) (s : State) :
    Host.Outcome State Fault Refusal :=
  .next (arrive link tag 0x0A (performSetLaneTiming lane timing) s)

/-! ## READ LANE and READ SPLITS (R60, R61) -/

/-- Every request of a row that takes all lane states. -/
def anyLane : LaneState → LaneGate := laneGate .taken .taken .taken .taken .taken .taken

/-- Units remaining to a lane's CollectTime expiry (R60, R86). -/
def collectRemaining (h : Heat) (l : Lane) (now : DeckTime) : Nat :=
  match l.collection with
  | none => 0
  | some c => c.opening + h.definition.collectTime - h.raceTime now

/-- READ LANE as its owner takes it (R60). -/
def performReadLane (lane : Byte) (s : State) : Reply :=
  laneRequest lane anyLane
    (fun n h l s => done (laneReport n l (h.desks.get n) (collectRemaining h l s.deckTime)) s) s

/-- READ_LANE. -/
def execReadLane (link : Link) (tag lane : Byte) (s : State) : Host.Outcome State Fault Refusal :=
  .next (arrive link tag 0x0F (performReadLane lane) s)

/-- The entries of a list from length f onward, at most 24 (R61); the entry in position k is for length k (R57). -/
def splitPage (f : Nat) (es : List SplitEntry) : List SplitEntry := (es.drop (f - 1)).take 24

/-- The READ SPLITS answer (R61; log 17 for the count of the page). -/
def splitsAnswer (n : LaneNo) (f : Nat) (l : Lane) : List Byte :=
  [byteOf n.val, byteOf l.splits.length] ++ countedList SplitEntry.bytes (splitPage f l.splits)

/-- READ SPLITS as its owner takes it; a first length outside 1 to 64 is malformed (R61). -/
def performReadSplits (lane first : Byte) (s : State) : Reply :=
  if outside 1 64 first.toNat then malformed s
  else laneRequest lane anyLane (fun n _ l s => done (splitsAnswer n first.toNat l) s) s

/-- READ_SPLITS. -/
def execReadSplits (link : Link) (tag lane first : Byte) (s : State) : Host.Outcome State Fault Refusal :=
  .next (arrive link tag 0x10 (performReadSplits lane first) s)

end Sys2Proof.Machine
end

