-- ==== Sys2Proof/Machine/Holds.lean ====
section
/-! DEFINITION. The six result requests (07): HOLD LANE, UNHOLD LANE, CLEAR SYSTEM HOLD, RELEASE LANE, DISQUALIFY and
REINSTATE. -/

namespace Sys2Proof.Machine

open Sys2Proof

/-- The row of R123 for HOLD LANE, UNHOLD LANE and CLEAR SYSTEM HOLD. -/
def holdRow : LaneState → LaneGate := laneGate .wrong .taken .taken .taken .taken .final

/-- The row of R123 for DISQUALIFY and REINSTATE. -/
def markRow : LaneState → LaneGate := laneGate .wrong .wrong .taken .busy .taken .final

/-- A lane's hold set as an answer carries it: holders and reasons (R190). -/
def holdAnswer (n : LaneNo) (s : State) : List Byte :=
  match s.heat with
  | none => []
  | some h => (h.desks.get n).hold.bytes

/-- A lane's state as an answer carries it. -/
def stateAnswer (n : LaneNo) (s : State) : List Byte :=
  match s.heat with
  | none => []
  | some h => [byteOf (h.lanes.get n).state.code]

def Desk.setHolder (l : Link) (v : Bool) (k : Desk) : Desk := { k with hold := k.hold.put l v }

/-- HOLD LANE as its owner takes it (R123, R124). -/
def performHoldLane (link : Link) (lane : Byte) (s : State) : Reply :=
  laneRequest lane holdRow
    (fun n h _ s =>
      if (h.desks.get n).hold.holds link then refuse .already s
      else
        let s := changeDesk n .hold (some link) (Desk.setHolder link true) s
        done (holdAnswer n s) s) s

/-- HOLD_LANE. -/
def execHoldLane (link : Link) (tag lane : Byte) (s : State) : Host.Outcome State Fault Refusal :=
  .next (arrive link tag 0x11 (performHoldLane link lane) s)

/-- UNHOLD LANE as its owner takes it (R123, R125). -/
def performUnholdLane (link : Link) (lane : Byte) (s : State) : Reply :=
  laneRequest lane holdRow
    (fun n h _ s =>
      if (h.desks.get n).hold.holds link then
        let s := releaseCheck n (changeDesk n .unhold (some link) (Desk.setHolder link false) s)
        done (holdAnswer n s ++ stateAnswer n s) s
      else refuse .notHeld s) s

/-- UNHOLD_LANE. -/
def execUnholdLane (link : Link) (tag lane : Byte) (s : State) : Host.Outcome State Fault Refusal :=
  .next (arrive link tag 0x12 (performUnholdLane link lane) s)

/-- The reasons a choice takes out of those that stand (R126). -/
def ReasonChoice.named (c : ReasonChoice) (standing : ReasonSet) : ReasonSet :=
  match c with
  | .all => standing
  | .these r => standing.common r

/-- The reasons SYSTEM still carries, in an answer (R126). -/
def reasonAnswer (n : LaneNo) (s : State) : List Byte :=
  match s.heat with
  | none => []
  | some h => [(h.desks.get n).hold.reasons.byte]

/-- CLEAR SYSTEM HOLD as its owner takes it; an empty set or a reason outside the six is malformed (R123, R126). -/
def performClearSystemHold (link : Link) (lane reasons : Byte) (s : State) : Reply :=
  match decodeReasons reasons with
  | none => malformed s
  | some c =>
    laneRequest lane holdRow
      (fun n h _ s =>
        if (c.named (h.desks.get n).hold.reasons).isEmpty then refuse .notHeld s
        else
          let s := releaseCheck n
            (changeDesk n .clear (some link) (Desk.dropReasons (c.named (h.desks.get n).hold.reasons)) s)
          done (reasonAnswer n s ++ stateAnswer n s) s) s

/-- CLEAR_SYSTEM_HOLD. -/
def execClearSystemHold (link : Link) (tag lane reasons : Byte) (s : State) : Host.Outcome State Fault Refusal :=
  .next (arrive link tag 0x13 (performClearSystemHold link lane reasons) s)

/-- RELEASE LANE as its owner takes it: in release mode AUTO a FINISHED lane is held, and the request is refused with the
hold set (R123, R128). -/
def performReleaseLane (link : Link) (lane : Byte) (s : State) : Reply :=
  laneRequest lane (laneGate .wrong .wrong .wrong .busy .taken .final)
    (fun n h _ s =>
      if h.definition.releaseMode = .manual ∧ (h.desks.get n).hold.isEmpty = true then
        done [] (releaseLane n (some link) s)
      else ⟨s, .held, (h.desks.get n).hold.bytes⟩) s

/-- RELEASE_LANE. -/
def execReleaseLane (link : Link) (tag lane : Byte) (s : State) : Host.Outcome State Fault Refusal :=
  .next (arrive link tag 0x14 (performReleaseLane link lane) s)

/-- Places recomputed when the lane's outcome is TIME (R130, R131). -/
def replaceIfTimed (l : Lane) (s : State) : State :=
  if (l.result.bind ResultCore.official).isSome then recomputePlaces s else s

/-- DISQUALIFY as its owner takes it (R123, R130). -/
def performDisqualify (link : Link) (lane code : Byte) (s : State) : Reply :=
  laneRequest lane markRow
    (fun n h l s =>
      if (h.desks.get n).dq = some code then refuse .already s
      else
        let s := queueLane n (changeDesk n .disqualify (some link) (fun k => { k with dq := some code }) s)
        let s := replaceIfTimed l s
        done (code :: placeAnswer n s) s) s

/-- DISQUALIFY. -/
def execDisqualify (link : Link) (tag lane code : Byte) (s : State) : Host.Outcome State Fault Refusal :=
  .next (arrive link tag 0x15 (performDisqualify link lane code) s)

/-- REINSTATE as its owner takes it (R123, R131). -/
def performReinstate (link : Link) (lane : Byte) (s : State) : Reply :=
  laneRequest lane markRow
    (fun n h l s =>
      if (h.desks.get n).dq = none then refuse .already s
      else
        let s := queueLane n (changeDesk n .reinstate (some link) (fun k => { k with dq := none }) s)
        let s := replaceIfTimed l s
        done (placeAnswer n s) s) s

/-- REINSTATE. -/
def execReinstate (link : Link) (tag lane : Byte) (s : State) : Host.Outcome State Fault Refusal :=
  .next (arrive link tag 0x16 (performReinstate link lane) s)

end Sys2Proof.Machine
end

