-- ==== Sys2Proof/Machine/Race.lean ====
section
/-! DEFINITION. The Race Controller (01, 02): the heat queue and its requests, loading and emptying the race, marks, start,
recall, overtime, the advance timer, ABANDON and READ RACE. -/

namespace Sys2Proof.Machine

open Sys2Proof

/-! ## Loading and emptying (R15, R22, R23, R43) -/

/-- A lane record built at a load (R43). -/
def Lane.build (d : Definition) (n : LaneNo) : Lane where
  state := match (d.lanes.get n).use with
    | .used => .ready
    | .vacant => .vacant
  tags := (d.lanes.get n).tags
  leg := match (d.lanes.get n).use with
    | .used => some 1
    | .vacant => none
  timing := ⟨d.laneMode, d.weight, d.basis⟩
  pendingTiming := none
  expectation := none
  d1 := none
  d2 := none
  splits := []
  rejected := []
  rejections := 0
  collection := none
  reaction := none
  exchanges := []
  result := none

/-- The race a load makes (R22, R43). -/
def Heat.build (d : Definition) : Heat where
  definition := d
  phase := .loaded
  startTime := none
  stopTime := none
  recalls := 0
  overtimeFlag := false
  overtimeTimer := false
  advance := none
  lanes := Vector.ofFn fun n => Lane.build d n
  desks := Vector.replicate 10 Desk.empty
  placing := []

/-- The board at a load: header owed, the ten lanes queued afresh, the idle run ended (R165, R167, R171). -/
def Board.load (b : Board) : Board :=
  { b with headerPending := true, laneQueue := allLanes, idleDue := false, idleTimer := none }

/-- The head of the queue loaded (R15, R22): QUEUE_CHANGE, then RACE_STATE. -/
def load (link : Option Link) (s : State) : State :=
  match s.queue with
  | [] => s
  | e :: rest =>
    let s := { s with queue := rest, heat := some (Heat.build e.definition) }
    let s := raise (.queueChange .loaded e.definition.id link rest.length) (s.modBoard Board.load)
    raceNotice .load link s

/-- The race made EMPTY, everything of it discarded (R23, R37, R63, R173), with its RACE_STATE notice. -/
def emptyRace (cause : RaceCause) (link : Option Link) (s : State) : State :=
  raceNotice cause link
    { s with heat := none, board := s.board.becomeEmpty s.params s.deckTime }

/-- A load when a definition is queued, else the race made EMPTY: ADVANCE and the advance timer in FINAL (R23, R24). -/
def advanceRace (cause : RaceCause) (link : Option Link) (s : State) : State :=
  if s.queue = [] then emptyRace cause link s else load link s

/-! ## Heat queue requests (R12 to R14) -/

/-- The heat ID of the current race (R11). -/
def State.currentId (s : State) : Option HeatId := s.heat.map fun h => h.definition.id

/-- Whether an ID is queued (R11). -/
def State.queued (s : State) (i : HeatId) : Bool := s.queue.any fun e => e.definition.id == i

/-- A valid definition joins the tail (R12, step 4), and with AutoAdvance on in EMPTY the head is loaded. -/
def stage (link : Link) (d : Definition) (s : State) : State :=
  let s := { s with queue := s.queue ++ [⟨d, link⟩] }
  let s := raise (.queueChange .staged d.id (some link) s.queue.length) s
  if s.params.autoAdvance = true ∧ s.heat = none then load (some link) s else s

/-- The decisions of R12 on a filled definition. -/
def stageDefinition (link : Link) (d : Definition) (s : State) : Reply :=
  match d.invalid with
  | some v => invalid v s
  | none =>
    if s.queued d.id ∨ s.currentId = some d.id then refuse .duplicate s
    else if 4 ≤ s.queue.length then refuse .queueFull s
    else
      let s := stage link d s
      done (d.id.bytes ++ [byteOf s.queue.length]) s

/-- STAGE HEAT as its owner takes it: filled, then judged (R2, R12). -/
def performStageHeat (link : Link) (body : HeatBody) (s : State) : Reply :=
  match decodeHeatCodes body with
  | none => malformed s
  | some c => stageDefinition link (fillDefinition s.params body c) s

/-- STAGE_HEAT. -/
def execStageHeat (link : Link) (tag : Byte) (body : HeatBody) (s : State) : Host.Outcome State Fault Refusal :=
  .next (arrive link tag 0x01 (performStageHeat link body) s)

/-- WITHDRAW HEAT as its owner takes it (R13). -/
def performWithdrawHeat (link : Link) (i : HeatId) (s : State) : Reply :=
  if s.queued i then
    let s := { s with queue := s.queue.filter fun e => e.definition.id != i }
    done [byteOf s.queue.length] (raise (.queueChange .withdrawn i (some link) s.queue.length) s)
  else if s.currentId = some i then wrongRace s
  else refuse .notFound s

/-- WITHDRAW_HEAT. -/
def execWithdrawHeat (link : Link) (tag : Byte) (number : Word16) (heat : Byte) (s : State) :
    Host.Outcome State Fault Refusal :=
  .next (arrive link tag 0x02 (performWithdrawHeat link ⟨number, heat⟩) s)

/-- LIST QUEUE as its owner takes it (R14). -/
def performListQueue (s : State) : Reply := done (countedList QueueEntry.bytes s.queue) s

/-- LIST_QUEUE. -/
def execListQueue (link : Link) (tag : Byte) (s : State) : Host.Outcome State Fault Refusal :=
  .next (arrive link tag 0x03 performListQueue s)

/-! ## ADVANCE and the advance timer (R23, R24) -/

/-- The race state, and after a load the heat ID now current, in the ADVANCE answer (R23); the presence byte over the heat
ID is the model's (log 17). -/
def advanceAnswer (s : State) : List Byte :=
  byteOf s.raceState.code :: optionalGroup [s.currentId.map HeatId.bytes]

/-- ADVANCE as its owner takes it (R23). -/
def performAdvance (link : Link) (s : State) : Reply :=
  match s.heat with
  | none =>
    if s.queue = [] then refuse .queueEmpty s
    else
      let s := load (some link) s
      done (advanceAnswer s) s
  | some h =>
    match h.phase with
    | .final =>
      let s := advanceRace .advance (some link) (s.modHeat fun h => { h with advance := none })
      done (advanceAnswer s) s
    | .review => ⟨s, .held, laneSetBytes (h.lanesWhere Lane.unreleased)⟩
    | .loaded => wrongRace s
    | .marks => wrongRace s
    | .running => wrongRace s

/-- ADVANCE. -/
def execAdvance (link : Link) (tag : Byte) (s : State) : Host.Outcome State Fault Refusal :=
  .next (arrive link tag 0x04 (performAdvance link) s)

/-- Whether the advance timer has run out (R24). -/
def advanceDue (s : State) : Bool :=
  match s.heat with
  | none => false
  | some h => h.advance.any fun t => t.due s.deckTime

/-- ADVANCE_TIMER_EXPIRY: advance pending clears, then the load or the emptying (R24). -/
def execAdvanceTimerExpiry (s : State) : Host.Outcome State Fault Refusal :=
  .next (event (fun s =>
    if advanceDue s then advanceRace .advanceTimer none (s.modHeat fun h => { h with advance := none }) else s) s)

/-! ## ABANDON (R37) -/

/-- ABANDON as its owner takes it. -/
def performAbandon (link : Link) (s : State) : Reply :=
  if s.heat = none then wrongRace s
  else done [] (emptyRace .abandon (some link) (heatEvent .abandon 0 s))

/-- ABANDON. -/
def execAbandon (link : Link) (tag : Byte) (s : State) : Host.Outcome State Fault Refusal :=
  .next (arrive link tag 0x05 (performAbandon link) s)

/-! ## Marks (R25, R26) -/

/-- A MARKS rise (R25). -/
def marksRise (s : State) : State :=
  match s.heat with
  | none => s
  | some h =>
    if h.phase = .loaded then
      let s := s.modHeat fun h => { h with phase := .marks }
      let s := if h.definition.startKind = .block then allLanes.foldl (fun s n => armForMarks n s) s else s
      raceNotice .marksOn none s
    else s

/-- FALSE_START, the reason a cancelled marks removes (R107, R121). -/
def falseStartOnly : ReasonSet := ReasonSet.empty.put .falseStart true

/-- The marks cancelled: LOADED, the reaction records and their FALSE_START reasons gone (R26, R30, R107). -/
def cancelMarks (cause : RaceCause) (s : State) : State :=
  let s := s.modHeat fun h =>
    { h with phase := .loaded, lanes := h.lanes.map fun l => { l with reaction := none } }
  allLanes.foldl (fun s n => changeDesk n .reasonRemoved none (Desk.dropReasons falseStartOnly) s)
    (raceNotice cause none s)

/-- A MARKS fall (R26). -/
def marksFall (s : State) : State :=
  match s.heat with
  | none => s
  | some h => if h.phase = .marks then cancelMarks .marksOff s else s

/-! ## The start (R27, R28, R65, R108, R109) -/

/-- The lane record of a READY lane at a start: SWIMMING, its lists empty, its exchange records and, for a BLOCK start,
its reaction record; the one made at marks stays (R105, R109). -/
def Lane.start (d : Definition) (start : DeckTime) (l : Lane) : Lane :=
  { l with
    state := .swimming
    d1 := none
    d2 := none
    splits := []
    rejected := []
    rejections := 0
    exchanges := d.exchanges
    reaction := match d.startKind with
      | .block => some (l.reaction.getD (Reaction.new start))
      | .water => none }

/-- The start-end platform of a lane tested at a start (R108). -/
def testStartPlatform (n : LaneNo) (s : State) : State :=
  match s.heat with
  | none => s
  | some h =>
    match (h.lanes.get n).reaction with
    | none => s
    | some r =>
      if s.inService (platformInput n h.definition.startEnd) then s else writeReaction n r.lost none s

/-- A READY lane started: SWIMMING, its reaction tested, expecting length 1 from reference 0, with any inference of the
start; its exchange judging follows behind the SPLIT notices of every lane (R21, R27, R65, R77, R116; log 15). -/
def startLane (start : DeckTime) (s : State) (n : LaneNo) : State :=
  match s.heat with
  | none => s
  | some h =>
    if (h.lanes.get n).state = .ready then
      inferAll n (expectLength n 1 0 (testStartPlatform n (queueLane n (s.modLane n (Lane.start h.definition start)))))
    else s

/-- Exchange judging of a lane at a start: the boundary after length 1 armed, then the entries of the start's inference (R110,
R115). -/
def judgeStart (s : State) (n : LaneNo) : State := judgeFrom n 0 (armExchange n 1 s)

/-- The board at a start: START item, clock-due and clock timer, the freeze of this start unused (R164, R169, R170). -/
def boardStart (h : Heat) (s : State) : State :=
  (heatEvent .start h.recalls s).modBoard fun b =>
    { b with clockDue := true, clockTimer := some ⟨s.deckTime, s.params.clockInterval⟩, freezeUsed := false }

/-- The race started with its start deck time: its READY lanes in order, then their exchange judging in order (R21, R27,
R116). -/
def startRace (start : DeckTime) (cause : RaceCause) (link : Option Link) (s : State) : State :=
  match s.heat with
  | none => s
  | some h =>
    let s := s.modHeat fun h =>
      { h with phase := .running, startTime := some start, overtimeFlag := false, overtimeTimer := true }
    (h.lanesWhere fun l => l.state == .ready).foldl judgeStart
      (allLanes.foldl (startLane start) (boardStart h (raceNotice cause link s)))

/-- A START event; in another state it has no effect (R27). -/
def startEvent (capture : DeckTime) (s : State) : State :=
  match s.heat with
  | none => s
  | some h => if h.phase = .loaded ∨ h.phase = .marks then startRace capture .startLine none s else s

/-- The START line's input (R134). -/
def startInput : Fin 71 := 70

/-- START RACE as its owner takes it (R28). -/
def performStartRace (link : Link) (s : State) : Reply :=
  if s.inService startInput then refuse .lineInService s
  else
    match s.heat with
    | none => wrongRace s
    | some h =>
      if h.phase = .loaded ∨ h.phase = .marks then
        done (le4 s.deckTime.toNat) (startRace s.deckTime .startRequest (some link) s)
      else wrongRace s

/-- START_RACE. -/
def execStartRace (link : Link) (tag : Byte) (s : State) : Host.Outcome State Fault Refusal :=
  .next (arrive link tag 0x06 (performStartRace link) s)

/-! ## Recall (R29 to R32, R62) -/

/-- A lane returned to READY by an honoured recall (R62). -/
def Lane.recall (l : Lane) : Lane :=
  if l.state = .vacant then l
  else
    { l with
      state := .ready
      leg := some 1
      pendingTiming := none
      expectation := none
      d1 := none
      d2 := none
      splits := []
      rejected := []
      rejections := 0
      collection := none
      reaction := none
      exchanges := []
      result := none }

/-- The recall count after an honoured recall: it stays at 255 (R29). -/
def nextRecall (n : Nat) : Nat := min 255 (n + 1)

/-- SYSTEM leaves a hold set with all its reasons (R32). -/
def Desk.recall (k : Desk) : Desk := { k with hold := { k.hold with reasons := ReasonSet.empty } }

/-- An honoured recall (R32). -/
def honourRecall (s : State) : State :=
  match s.heat with
  | none => s
  | some h =>
    let s := s.modHeat fun h =>
      { h with
        phase := .loaded
        startTime := none
        overtimeTimer := false
        overtimeFlag := false
        recalls := nextRecall h.recalls
        lanes := h.lanes.map Lane.recall }
    let s := raceNotice .recall none s
    let s := owesHeader (heatEvent .recall (nextRecall h.recalls) (s.modBoard Board.stopClock))
    let s := (h.lanesWhere fun l => l.state != .vacant).foldl (fun s n => queueLane n s) s
    allLanes.foldl (fun s n => changeDesk n .recall none Desk.recall s) s

/-- Whether a lane closes the recall window (R31). -/
def Lane.closesRecall (l : Lane) : Bool :=
  match l.state with
  | .collect => true
  | .finished => true
  | .released => true
  | .vacant => false
  | .ready => false
  | .swimming => false

/-- The race time of a RECALL capture; one before the start counts as 0 (R31). -/
def Heat.recallTime (h : Heat) (capture : DeckTime) : Nat :=
  if beforeStart (h.raceTime capture) then 0 else h.raceTime capture

/-- The test a RECALL in RUNNING fails, WINDOW before RESULT, or none (R31). -/
def Heat.recallTest (h : Heat) (p : Params) (t : Nat) : Option RecallTest :=
  if p.recallWindow ≤ t then some .window
  else if h.lanesWhere Lane.closesRecall ≠ [] then some .result
  else none

/-- A RECALL taken (R30, R31). A RECALL_IGNORED in RUNNING carries the race time of R31's test, 0 for a capture before the start;
that it is not the remainder of R19 is the model's choice (log 42). -/
def takeRecall (capture : DeckTime) (s : State) : State :=
  match s.heat with
  | none => raise (.recallIgnored .empty capture.toNat none) s
  | some h =>
    match h.phase with
    | .marks => cancelMarks .recall s
    | .running =>
      match h.recallTest s.params (h.recallTime capture) with
      | none => honourRecall s
      | some test => raise (.recallIgnored .running (h.recallTime capture) (some test)) s
    | .loaded => raise (.recallIgnored .loaded capture.toNat none) s
    | .review => raise (.recallIgnored .review capture.toNat none) s
    | .final => raise (.recallIgnored .final capture.toNat none) s

/-! ## Overtime (R33, R34, R99) -/

/-- Whether the overtime timer has reached the limit (R33). -/
def overtimeDue (s : State) : Bool :=
  match s.heat with
  | none => false
  | some h => h.phase == .running && h.overtimeTimer && decide (s.params.raceTimeLimit ≤ h.raceTime s.deckTime)

/-- A lane at overtime: only SWIMMING lanes are finished, with NO_FINISH (R33, R99). -/
def overtimeLane (s : State) (n : LaneNo) : State :=
  match s.heat with
  | none => s
  | some h => if (h.lanes.get n).state = .swimming then finishWithoutTime n none s else s

/-- Overtime (R33): the flag, the board item, the RACE_STATE notice, then the lanes in order. -/
def overtime (s : State) : State :=
  let s := s.modHeat fun h => { h with overtimeFlag := true, overtimeTimer := false }
  allLanes.foldl overtimeLane (raceNotice .overtime none (heatEvent .overtime (hundredths s.params.raceTimeLimit) s))

/-- Overtime where it is due. -/
def overtimeIfDue (s : State) : State := if overtimeDue s then overtime s else s

/-- OVERTIME_EXPIRY. -/
def execOvertimeExpiry (s : State) : Host.Outcome State Fault Refusal := .next (event overtimeIfDue s)

/-! ## READ RACE (R38, R191) -/

/-- The answer to part 0. -/
def readRaceState (s : State) : List Byte :=
  [byteOf s.raceState.code, byteOf ((s.heat.map Heat.recalls).getD 0),
    flag ((s.heat.map Heat.overtimeFlag).getD false), flag (s.heat.any fun h => h.advance.isSome),
    byteOf s.queue.length] ++
  [byteOf (bitSet [s.heat.isSome, (s.heat.bind Heat.startTime).isSome,
    (s.heat.bind fun h => h.raceClock s.deckTime).isSome, s.heat.any fun h => h.advance.isSome])] ++
  (((s.heat.bind Heat.startTime).map fun t => le4 t.toNat).getD []) ++
  (((s.heat.bind fun h => h.raceClock s.deckTime).map le4).getD []) ++
  (((s.heat.bind Heat.advance).map fun t => le4 (t.remaining s.deckTime)).getD []) ++
  ((s.heat.map fun h => h.definition.bytes).getD [])

/-- The answer to part 1. -/
def readRaceLanes (s : State) : List Byte :=
  optionalGroup [s.heat.map fun h => h.definition.id.bytes ++ h.definition.laneBytes]

/-- READ RACE as its owner takes it; a part other than 0 or 1 is malformed (R38). -/
def performReadRace (part : Byte) (s : State) : Reply :=
  if part = 0 then done (readRaceState s) s
  else if part = 1 then done (readRaceLanes s) s
  else malformed s

/-- READ_RACE. -/
def execReadRace (link : Link) (tag part : Byte) (s : State) : Host.Outcome State Fault Refusal :=
  .next (arrive link tag 0x07 (performReadRace part) s)

end Sys2Proof.Machine
end

