-- ==== Sys2Proof/Machine/Faults.lean ====
section
/-! DEFINITION. The Fault Supervisor (09): how a fault record moves, the FAULT notices, the consequences of a service
change, link discards, READ FAULTS and CLEAR FAULTS, retry expiries and mode changes. -/

namespace Sys2Proof.Machine

open Sys2Proof

/-! ## One fault record (R150 to R153, R157, R159) -/

/-- A record put into a state by a condition judged under a mode other than OFF; no retry timer runs. -/
def FaultRecord.caught (st : FaultState) (cls : FaultClass) (c : Condition) (r : FaultRecord) : FaultRecord :=
  { r with state := st, last := some c, seen := true, serviceClass := some cls, retryStart := none }

/-- A condition judged by the mode of its class (R150). -/
def FaultRecord.judge (p : Params) (cls : FaultClass) (c : Condition) (r : FaultRecord) : FaultRecord :=
  match p.mode cls with
  | .off => r
  | .report => r.caught .reporting cls c
  | .latch => r.caught .latched cls c
  | .retrySlow => r.caught .retryWait cls c
  | .retryFast => r.caught .retryWait cls c

/-- A condition begins (R150). REPORTING and RETRY_WAIT hold a present condition, so none can begin there. -/
def FaultRecord.begins (p : Params) (cls : FaultClass) (c : Condition) (r : FaultRecord) : FaultRecord :=
  let r := { r with present := c }
  match r.state with
  | .clear => r.judge p cls c
  | .retryTiming => r.judge p cls c
  | .latched => if p.mode cls = .off then r else { r with seen := true, last := some c }
  | .reporting => r
  | .retryWait => r

/-- A line condition changes kind (R151). -/
def FaultRecord.changesKind (c : Condition) (r : FaultRecord) : FaultRecord :=
  { r with present := c, last := if r.state = .clear then r.last else some c }

/-- A record in CLEAR: no service class, no retry timer. -/
def FaultRecord.toClear (r : FaultRecord) : FaultRecord := { r with state := .clear, serviceClass := none, retryStart := none }

/-- A condition ends (R152). -/
def FaultRecord.ends (now : DeckTime) (r : FaultRecord) : FaultRecord :=
  let r := { r with present := .none }
  match r.state with
  | .clear => r
  | .reporting => r.toClear
  | .latched => r
  | .retryWait => { r with state := .retryTiming, retryStart := some now }
  | .retryTiming => r

/-- A record named by CLEAR FAULTS (R157). -/
def FaultRecord.cleared (r : FaultRecord) : FaultRecord :=
  if r.present ≠ .none then r
  else if r.state = .latched then { r.toClear with seen := false }
  else { r with seen := false }

/-- The time a record's retry timer runs for, read live (R153). -/
def FaultRecord.retryLimit (p : Params) (r : FaultRecord) : Option Nat :=
  r.serviceClass.bind fun c => p.retryTime (p.mode c)

/-- Whether a record's retry timer has run out (R153). -/
def FaultRecord.retryDue (p : Params) (now : DeckTime) (r : FaultRecord) : Bool :=
  r.state == .retryTiming && (r.retryStart.any fun t => (r.retryLimit p).any fun n => decide (n ≤ elapsed t now))

/-- Whether a record concerns a class: by its service class, or in CLEAR by its present condition (R159). -/
def FaultRecord.concerns (i : Fin 71) (cls : FaultClass) (r : FaultRecord) : Bool :=
  r.serviceClass == some cls ||
    (r.state == .clear && r.present != .none && conditionClass i r.present == cls)

/-- Whether the condition of a class is present (R159). -/
def FaultRecord.presentIn (i : Fin 71) (cls : FaultClass) (r : FaultRecord) : Bool :=
  r.present != .none && conditionClass i r.present == cls

/-- The table of R159: a record that concerns a class whose new mode the parameters already hold. -/
def FaultRecord.byNewMode (p : Params) (i : Fin 71) (cls : FaultClass) (now : DeckTime) (r : FaultRecord) : FaultRecord :=
  match r.state, p.mode cls with
  | .clear, _ => r.judge p cls r.present
  | .reporting, .off => r.toClear
  | .reporting, .report => r
  | .reporting, .latch => { r with state := .latched }
  | .reporting, .retrySlow => { r with state := .retryWait }
  | .reporting, .retryFast => { r with state := .retryWait }
  | .latched, .off => r.toClear
  | .latched, .report => if r.presentIn i cls then { r with state := .reporting } else r.toClear
  | .latched, .latch => r
  | .latched, .retrySlow =>
    if r.presentIn i cls then { r with state := .retryWait } else { r with state := .retryTiming, retryStart := some now }
  | .latched, .retryFast =>
    if r.presentIn i cls then { r with state := .retryWait } else { r with state := .retryTiming, retryStart := some now }
  | .retryWait, .off => r.toClear
  | .retryWait, .report => { r with state := .reporting }
  | .retryWait, .latch => { r with state := .latched }
  | .retryWait, .retrySlow => r
  | .retryWait, .retryFast => r
  | .retryTiming, .off => r.toClear
  | .retryTiming, .report => r.toClear
  | .retryTiming, .latch => { r with state := .latched, retryStart := none }
  | .retryTiming, .retrySlow => if r.retryDue p now then r.toClear else r
  | .retryTiming, .retryFast => if r.retryDue p now then r.toClear else r

/-- A record that has become CLEAR out of a service class: a condition of another class that it holds is judged as a beginning
by the mode of its own class (R159). -/
def FaultRecord.judgeOther (p : Params) (i : Fin 71) (cls : FaultClass) (r : FaultRecord) : FaultRecord :=
  if r.present ≠ .none ∧ conditionClass i r.present ≠ cls then r.judge p (conditionClass i r.present) r.present else r

/-- A mode change on a record (R159). -/
def FaultRecord.changesMode (p : Params) (i : Fin 71) (cls : FaultClass) (now : DeckTime) (r : FaultRecord) : FaultRecord :=
  if r.concerns i cls then
    let q := r.byNewMode p i cls now
    if r.state ≠ .clear ∧ q.state = .clear then q.judgeOther p i cls else q
  else r

/-! ## FAULT notices (R155) -/

/-- The notice of an input's record. -/
def FaultRecord.notice (i : Fin 71) (cls : FaultClass) (cause : FaultCause) (link : Option Link) (now : DeckTime)
    (r : FaultRecord) : Notice :=
  .fault
    { record := i.val
      cls := cls
      cause := cause
      state := r.state
      inService := r.state.inService
      present := r.present
      last := r.last.map .input
      seen := r.seen
      time := now
      link := link }

/-- What a FAULT notice reports of a record: state, SEEN and last condition (R155). -/
def FaultRecord.sameButPresent (r q : FaultRecord) : Bool := r.state == q.state && r.seen == q.seen && r.last == q.last

/-- Whether a change raises a notice: not when nothing of the record changes, nor when only the present condition does
under OFF (R155). -/
def raisesFault (p : Params) (cls : FaultClass) (r q : FaultRecord) : Bool :=
  !(r.sameButPresent q && (r.present == q.present || p.mode cls == .off))

/-- The record of an input written, with its FAULT notice where one is raised. -/
def writeFault (i : Fin 71) (cls : FaultClass) (cause : FaultCause) (link : Option Link) (q : FaultRecord) (s : State) :
    State :=
  let t := { s with faults := s.faults.set i.val q i.isLt }
  if raisesFault s.params cls (s.faults.get i) q then raise (q.notice i cls cause link s.deckTime) t else t

/-! ## Consequences of a service change (R160) -/

/-- The inputs of a list that have left service since an earlier state. -/
def leftService (before s : State) (is : List (Fin 71)) : List (Fin 71) :=
  is.filter fun i => before.inService i && !s.inService i

/-- How many entries a lane's split list holds. -/
def State.splitCount (s : State) (n : LaneNo) : Nat :=
  match s.heat with
  | none => 0
  | some h => (h.lanes.get n).splits.length

/-- The pads of a lane among the inputs that left service handed to it (R78). -/
def losePads (lost : List (Fin 71)) (s : State) (n : LaneNo) : State :=
  [End.a, .b].foldl (fun s e => if padInput n e ∈ lost then padLost n e s else s) s

/-- The platforms of a lane among them handed to it (R108, R113). -/
def losePlatforms (lost : List (Fin 71)) (n : LaneNo) (s : State) : State :=
  [End.a, .b].foldl (fun s e => if platformInput n e ∈ lost then platformLost n e s else s) s

/-- A lane at the end of an event: exchange judging of the takeoffs it took and of what its split list gained since a state in
which these had been judged, then its lost platforms (R111, R115, R160; log 38). -/
def settleLane (judged : State) (lost : List (Fin 71)) (s : State) (n : LaneNo) : State :=
  losePlatforms lost n (judgeFrom n (judged.splitCount n) (judgeTakeoffs judged n s))

/-- The service changes of one event handed to their owners at its end, in lane order (R122): the pads' inferences, then, behind
every SPLIT notice (R116), each lane's exchange judging and platforms; a return, a button and START change nothing recorded
(R79, R88, R160; log 38). -/
def handServices (before judged : State) (is : List (Fin 71)) (s : State) : State :=
  let lost := leftService before s is
  allLanes.foldl (settleLane judged lost) (allLanes.foldl (losePads lost) s)

/-- Fault records moved by one event: every record in input order with its notice, then the service changes (R155, R159,
R160; log 38). -/
def moveFaults (is : List (Fin 71)) (f : Fin 71 → FaultRecord → FaultRecord) (cls : Fin 71 → FaultRecord → FaultClass)
    (cause : FaultCause) (link : Option Link) (s : State) : State :=
  handServices s s is
    (is.foldl (fun s i => writeFault i (cls i (s.faults.get i)) cause link (f i (s.faults.get i)) s) s)

/-! ## Retry expiry (R153) -/

/-- The class a record is REPORTING or out of service under, else its present condition's (R155). -/
def FaultRecord.classOf (i : Fin 71) (r : FaultRecord) : FaultClass := r.serviceClass.getD (conditionClass i r.present)

/-- A record at its retry expiry: CLEAR, with a condition of another class that it holds judged (R153, R159; log 27). -/
def FaultRecord.expires (p : Params) (i : Fin 71) (r : FaultRecord) : FaultRecord := r.toClear.judgeOther p i (r.classOf i)

/-- The records of a list whose retry timer has run out expire, each with one notice (R153, R155; log 27). -/
def expireRetries (is : List (Fin 71)) (s : State) : State :=
  moveFaults (is.filter fun i => (s.faults.get i).retryDue s.params s.deckTime) (fun i r => r.expires s.params i)
    FaultRecord.classOf .retryExpiry none s

/-- RETRY_EXPIRY. -/
def execRetryExpiry (i : Fin 71) (s : State) : Host.Outcome State Fault Refusal := .next (event (expireRetries [i]) s)

/-! ## Link records (R154, R177) -/

/-- The notice of a link's record: always CLEAR, in service and without a present condition (R154). -/
def LinkFault.notice (l : Link) (cause : FaultCause) (link : Option Link) (now : DeckTime) (f : LinkFault) : Notice :=
  .fault
    { record := 71 + l.code
      cls := .linkFrame
      cause := cause
      state := .clear
      inService := true
      present := .none
      last := f.last.map .link
      seen := f.seen
      time := now
      link := link }

/-- A discarded frame handed to the FSV (R154). -/
def reportDiscard (l : Link) (d : Discard) (s : State) : State :=
  if s.params.linkFrameMode = .off then s
  else
    raise (LinkFault.notice l .begins none s.deckTime ⟨some d, true⟩)
      { s with linkFaults := s.linkFaults.put l ⟨some d, true⟩ }

/-! ## CLEAR FAULTS (R157, R158) -/

/-- The class a CLEARED notice names (R155): the service class, else the class of the only condition the input can have;
for a pad record with neither, a free value (log 14). -/
def clearedClass (now : DeckTime) (i : Fin 71) (r : FaultRecord) : FaultClass :=
  match r.serviceClass with
  | some c => c
  | none =>
    match lineOfInput i with
    | .pad _ _ => if Config.clearedPadClassIsLine i.val now then .padLine else .padStuck
    | .platform _ _ => conditionClass i r.present
    | .button _ _ => conditionClass i r.present
    | .start => conditionClass i r.present
    | .marks => conditionClass i r.present
    | .recall => conditionClass i r.present

/-- One link record named by CLEAR FAULTS: SEEN clears, with a notice when it was set (R157). -/
def clearLink (link : Option Link) (s : State) (l : Link) : State :=
  let f := s.linkFaults.get l
  if f.seen then
    raise (LinkFault.notice l .cleared link s.deckTime { f with seen := false })
      { s with linkFaults := s.linkFaults.put l { f with seen := false } }
  else s

/-- CLEAR FAULTS of some inputs and links, the notices in input order and then link order, then the service changes
(R155, R157). Only returns to service can follow, and no owner acts on one. -/
def clearFaults (is : List (Fin 71)) (ls : List Link) (link : Option Link) (s : State) : State :=
  ls.foldl (clearLink link)
    (moveFaults is (fun _ r => r.cleared) (clearedClass s.deckTime) .cleared link s)

/-- The inputs and links a request names (R157). -/
def RecordChoice.inputs : RecordChoice → List (Fin 71)
  | .all => allInputs
  | .input i => [i]
  | .link _ => []

def RecordChoice.links : RecordChoice → List Link
  | .all => [.cl0, .cl1, .cl2]
  | .input _ => []
  | .link l => [l]

/-- How many inputs are out of service. -/
def State.outOfService (s : State) : Nat := allInputs.countP fun i => !s.inService i

/-- CLEAR FAULTS as its owner takes it: the records returned by it and those still out (R157), each count in one byte (log
17). A clear takes no input out of service, so the difference of the counts is the number returned. -/
def performClearFaults (link : Link) (record : Byte) (s : State) : Reply :=
  match decodeRecord record with
  | none => malformed s
  | some c =>
    let t := clearFaults c.inputs c.links (some link) s
    done [byteOf (s.outOfService - t.outOfService), byteOf t.outOfService] t

/-- CLEAR_FAULTS. -/
def execClearFaults (link : Link) (tag record : Byte) (s : State) : Host.Outcome State Fault Refusal :=
  .next (arrive link tag 0x1B (performClearFaults link record) s)

/-- What a short RESETn pulse does: CLEAR FAULTS of ALL with no requesting link (R158). -/
def shortPulse (s : State) : State := clearFaults RecordChoice.all.inputs RecordChoice.all.links none s

/-! ## READ FAULTS (R156, R191) -/

/-- The counted level of an input (R135). -/
def State.countedLevel (s : State) (i : Fin 71) : Level := (s.decoders.get (lineOfInput i).index).counted

/-- One byte of the ALL answer (R191). -/
def packedFault (s : State) (i : Fin 71) : Byte :=
  let r := s.faults.get i
  byteOf (r.state.code + bit r.seen 8 + 16 * r.present.code + 64 * (s.countedLevel i).code)

/-- SEEN and last condition of a link record. -/
def LinkFault.bytes (f : LinkFault) : List Byte := [flag f.seen, byteOf (LastCondition.optCode (f.last.map .link))]

/-- The six classes in the order of R149's table. -/
def FaultClass.all : List FaultClass := [.padLine, .padStuck, .platformLine, .buttonStuck, .startLine, .linkFrame]

/-- The ALL answer: 83 bytes after the result (R191). -/
def allFaults (s : State) : List Byte :=
  allInputs.map (packedFault s) ++
    ([Link.cl0, .cl1, .cl2].map fun l => (s.linkFaults.get l).bytes).flatten ++
    FaultClass.all.map fun c => byteOf (s.params.mode c).code

/-- The class of a present condition, absent without one. -/
def presentClass (i : Fin 71) (r : FaultRecord) : Option FaultClass :=
  if r.present = .none then none else some (conditionClass i r.present)

/-- The units to a record's retry expiry, present while the timer runs (R156). -/
def FaultRecord.retryRemaining (p : Params) (now : DeckTime) (r : FaultRecord) : Option Nat :=
  r.retryStart.bind fun t => (r.retryLimit p).map fun n => n - elapsed t now

/-- One input's answer: state, in service, present and last condition, SEEN, then service class, retry start, the present
condition's class and the units remaining under a presence byte, then the counted level (R156; log 17). -/
def oneFault (s : State) (i : Fin 71) : List Byte :=
  let r := s.faults.get i
  [byteOf r.state.code, flag r.state.inService, byteOf r.present.code,
    byteOf (LastCondition.optCode (r.last.map .input)), flag r.seen] ++
  optionalGroup
    [r.serviceClass.map fun c => [byteOf c.code], r.retryStart.map fun t => le4 t.toNat,
      (presentClass i r).map fun c => [byteOf c.code], (r.retryRemaining s.params s.deckTime).map le4] ++
  [byteOf (s.countedLevel i).code]

/-- One link's answer in the same layout, without a counted level (R156; log 17). -/
def oneLinkFault (f : LinkFault) : List Byte :=
  [byteOf FaultState.clear.code, flag true, byteOf Condition.none.code,
    byteOf (LastCondition.optCode (f.last.map .link)), flag f.seen] ++ optionalGroup [none, none, none, none]

/-- READ FAULTS as its owner takes it (R156). -/
def performReadFaults (record : Byte) (s : State) : Reply :=
  match decodeRecord record with
  | none => malformed s
  | some .all => done (allFaults s) s
  | some (.input i) => done (oneFault s i) s
  | some (.link l) => done (oneLinkFault (s.linkFaults.get l)) s

/-- READ_FAULTS. -/
def execReadFaults (link : Link) (tag record : Byte) (s : State) : Host.Outcome State Fault Refusal :=
  .next (arrive link tag 0x1A (performReadFaults record) s)

end Sys2Proof.Machine
end

