-- ==== Sys2Proof/Machine/DeckInputs.lean ====
section
/-! DEFINITION. The Deck Input Unit (08): the decoders, the completion of a candidate with its reports and its event, the
stuck timer, and the meanings of SENSED_LEVEL_CHANGE, CANDIDATE_COMPLETES and STUCK_TIMER_EXPIRY. -/

namespace Sys2Proof.Machine

open Sys2Proof

/-! ## Decoders (R135, R136, R143) -/

def State.decoder (s : State) (l : Line) : Decoder := s.decoders.get l.index

def State.modDecoder (s : State) (l : Line) (f : Decoder → Decoder) : State :=
  { s with decoders := updAt s.decoders l.index f }

/-- The line moves to a level while the decoder runs: a candidate begins, is replaced, or is discarded (R135). -/
def Decoder.sense (v : Level) (now : DeckTime) (d : Decoder) : Decoder :=
  { d with sensed := v, candidate := if v = d.counted then none else some ⟨v, now⟩ }

/-- A candidate counted: the counted level begins where the candidate began; the stuck timer of a pad or button runs while
ACTIVE (R136, R143). -/
def Decoder.count (l : Line) (c : Candidate) (d : Decoder) : Decoder :=
  { d with
    counted := c.level
    since := c.since
    candidate := none
    stuck := if l.hasStuckTimer = true ∧ c.level = .active then .running else .stopped }

/-- Whether a decoder's candidate has lasted its deglitch time (R136, R138). -/
def Decoder.candidateDue (p : Params) (l : Line) (now : DeckTime) (d : Decoder) : Bool :=
  d.candidate.any fun c => decide (p.deglitch l d.counted c.level ≤ elapsed c.since now)

/-- Whether a decoder's stuck timer has run out: ACTIVE for StuckTime from the counted-level beginning (R143). -/
def Decoder.stuckDue (p : Params) (now : DeckTime) (d : Decoder) : Bool :=
  d.stuck == .running && decide (p.stuckTime ≤ elapsed d.since now)

/-! ## Reports to the FSV (R142, R143) -/

/-- One report at an input's record: the record moves, its notice is raised. -/
def reportFault (i : Fin 71) (c : Condition) (cause : FaultCause) (f : FaultRecord → FaultRecord) (s : State) : State :=
  writeFault i (conditionClass i c) cause none (f (s.faults.get i)) s

/-- The end of a reported STUCK condition (R143). -/
def reportStuckEnd (i : Fin 71) (s : State) : State :=
  reportFault i .stuck .ends (FaultRecord.ends s.deckTime) s

/-- The report of a change of line condition (R142); no change, no report. -/
def reportLine (i : Fin 71) (old new : Condition) (s : State) : State :=
  if old = new then s
  else if old = .none then reportFault i new .begins (FaultRecord.begins s.params (conditionClass i new) new) s
  else if new = .none then reportFault i old .ends (FaultRecord.ends s.deckTime) s
  else reportFault i new .kind (FaultRecord.changesKind new) s

/-- The reports of a change of counted level, the end of STUCK first; the service is judged at the end of the event (R143,
R150; log 13). -/
def superviseChange (i : Fin 71) (old new : Decoder) (s : State) : State :=
  reportLine i old.condition new.condition (if old.stuck = .expired then reportStuckEnd i s else s)

/-! ## Events (R139 to R141, R144) -/

/-- The corrected capture time of a touch (R141). -/
def correctedCapture (p : Params) (e : End) (since : DeckTime) : DeckTime := since + BitVec.ofInt 32 (p.padOffset e)

/-- The event of a change of counted level handed to its owner; a change that is none of R139's is nothing (R139, R140). -/
def deliver (l : Line) (old new : Level) (since : DeckTime) (s : State) : State :=
  match l, old, new with
  | .pad e n, .idle, .active => takeTouch n e (correctedCapture s.params e since) s
  | .platform e n, .active, .idle => takeRelease n e since s
  | .button n slot, .idle, .active => takePress n slot since s
  | .start, .idle, .active => startEvent since s
  | .marks, .idle, .active => marksRise s
  | .marks, .active, .idle => marksFall s
  | .recall, .idle, .active => takeRecall since s
  | _, _, _ => s

/-- The event of a line gated by its service (R144). -/
def deliverGated (l : Line) (old new : Level) (since : DeckTime) (s : State) : State :=
  if s.lineInService l then deliver l old new since s else s

/-! ## Candidates that complete (R136, R138) -/

/-- A line's candidate counted, with its reports (R142, R143). -/
def countLine (s : State) (l : Line) : State :=
  let old := s.decoder l
  match old.candidate with
  | none => s
  | some c =>
    let s := s.modDecoder l (Decoder.count l c)
    match l.input with
    | none => s
    | some i => superviseChange i old (old.count l c) s

/-- The event of a line whose candidate an earlier state held (R139). -/
def deliverCounted (before s : State) (l : Line) : State :=
  match (before.decoder l).candidate with
  | none => s
  | some c => deliverGated l (before.decoder l).counted c.level c.since s

/-- How long ago a line's change of counted level completed: the moment its event is formed is the candidate beginning plus
the deglitch time of the change (R140). -/
def lateness (s : State) (l : Line) : Nat :=
  match (s.decoder l).candidate with
  | none => 0
  | some c => elapsed c.since s.deckTime - s.params.deglitch l (s.decoder l).counted c.level

/-- A line put into a list ordered by those moments, before the lines that completed with it or later. -/
def insertFormed (s : State) (l : Line) : List Line → List Line
  | [] => [l]
  | m :: ms => if lateness s m ≤ lateness s l then l :: m :: ms else m :: insertFormed s l ms

/-- Lines in the order in which their events are formed (R140); those of one moment stay in line order (log 21). -/
def formedOrder (s : State) (ls : List Line) : List Line := ls.foldr (insertFormed s) []

/-- Whether the events of a line go to the LEN (R134). -/
def Line.isLane : Line → Bool
  | .pad _ _ => true
  | .platform _ _ => true
  | .button _ _ => true
  | .start => false
  | .marks => false
  | .recall => false

/-- The deck events of some lines handed on in the order R140 forms them, from a state that still held their candidates. -/
def handEvents (before : State) (ls : List Line) (s : State) : State := (formedOrder before ls).foldl (deliverCounted before) s

/-- Deck events of several lanes' lines in one event: behind them, lane by lane, come the verdicts of the takeoffs and one
HOLD_CHANGE for each lane, whichever order R140 forms the events in (R122; log 21). -/
def handTogether (before : State) (ls : List Line) (s : State) : State :=
  allLanes.foldl (reportLane s) (holdingBack .holdChange (handEvents before ls) s)

/-- The candidates of some lines that have lasted their deglitch time complete in one event: all are counted and reported in
input order (R155), then their deck events are handed on, gated by the service the reports leave, then the service changes, with
the exchange judging of the takeoffs and of the entries that touches added; a start has judged its own (R116, R136, R144, R160;
log 21). -/
def completeLines (ls : List Line) (s : State) : State :=
  let due := ls.filter fun l => (s.decoder l).candidateDue s.params l s.deckTime
  let counted := due.foldl countLine s
  let told := if 1 < due.countP Line.isLane then handTogether s due counted else handEvents s due counted
  handServices s (if due.any Line.isLane then s else told) (due.filterMap Line.input) told

/-- CANDIDATE_COMPLETES: without a candidate due, nothing happens (log 2). -/
def execCandidateCompletes (l : Line) (s : State) : Host.Outcome State Fault Refusal :=
  .next (event (completeLines [l]) s)

/-! ## The stuck timer (R143) -/

/-- The STUCK condition of a line reported, its timer expired. -/
def reportStuck (s : State) (l : Line) : State :=
  match l.input with
  | none => s
  | some i =>
    reportFault i .stuck .begins (FaultRecord.begins s.params (conditionClass i .stuck) .stuck)
      (s.modDecoder l fun d => { d with stuck := .expired })

/-- The stuck timers of some lines that have run for StuckTime expire in one event: all are reported, then the service
changes are handed on (R143, R160; log 21). -/
def expireLines (ls : List Line) (s : State) : State :=
  let due := ls.filter fun l => (s.decoder l).stuckDue s.params s.deckTime
  handServices s s (due.filterMap Line.input) (due.foldl reportStuck s)

/-- STUCK_TIMER_EXPIRY: without a timer due, nothing happens (log 2). -/
def execStuckTimerExpiry (l : Line) (s : State) : Host.Outcome State Fault Refusal :=
  .next (event (expireLines [l]) s)

/-! ## Levels on the lines (R135, R145) -/

/-- A line moves to a level: a running decoder judges the move, else only the line itself changes (R145; log 8). -/
def senseLevel (l : Line) (v : Level) (s : State) : State :=
  if s.phase = .running then settle (s.modDecoder l (Decoder.sense v s.deckTime))
  else s.modDecoder l fun d => { d with sensed := v }

/-- SENSED_LEVEL_CHANGE: a level the line shows already is no change; a two-level line has no SHORT and no OPEN (8.2, R135). -/
def execSensedLevelChange (l : Line) (v : Level) (s : State) : Host.Outcome State Fault Refusal :=
  if !l.fourLevel && v.isFault then .fault .levelOfNoSuchBand
  else if (s.decoder l).sensed = v then .next s
  else .next (senseLevel l v s)

/-- A decoder at the end of start-up (R145). -/
def Decoder.begin (l : Line) (d : Decoder) : Decoder :=
  match d.sensed with
  | .active => ⟨.active, .active, 0, none, if l.hasStuckTimer then .running else .stopped⟩
  | .idle => ⟨.idle, .idle, 0, none, .stopped⟩
  | .short => ⟨.short, .idle, 0, some ⟨.short, 0⟩, .stopped⟩
  | .opened => ⟨.opened, .idle, 0, some ⟨.opened, 0⟩, .stopped⟩

/-- The line of a decoder. -/
def lineOfDecoder (i : Fin 73) : Line :=
  if h : i.val < 71 then lineOfInput ⟨i.val, h⟩ else if i.val = 71 then .marks else .recall

/-- Every decoder begun from its line's level (R145). -/
def beginDecoders (v : Vector Decoder 73) : Vector Decoder 73 := Vector.ofFn fun i => (v.get i).begin (lineOfDecoder i)

/-- Decoders stopped by a reset: only the line's own level stays (R145, log 8). -/
def resetDecoders (v : Vector Decoder 73) : Vector Decoder 73 := v.map fun d => Decoder.reset d.sensed

end Sys2Proof.Machine
end

