-- ==== Sys2Proof/Machine/Settings.lean ====
section
/-! DEFINITION. The requests of the Parameter Table and of the links themselves (11): SET PARAMETER with what its owners do,
GET PARAMETER, SET NOTICE MASK, RESET DEVICE and a KIND that names no request. -/

namespace Sys2Proof.Machine

open Sys2Proof

/-! ## SET PARAMETER (R184) -/

/-- A class mode written: the records it concerns move, and their notices name the class written (R155, R159; log 39). -/
def modeWritten (cls : FaultClass) (s : State) : State :=
  moveFaults allInputs (fun i r => r.changesMode s.params i cls s.deckTime) (fun _ _ => cls) .mode none s

/-- The records whose retry timer runs under a mode (R153). -/
def timedUnder (m : ClassMode) (s : State) : List (Fin 71) :=
  allInputs.filter fun i => (s.faults.get i).serviceClass.any fun c => s.params.mode c == m

/-- A retry time written: the timers that use it and have run that long expire (R153). -/
def retryWritten (m : ClassMode) (s : State) : State := expireRetries (timedUnder m s) s

/-- Whether a line's candidate waits for a deglitch time (R136, R138). -/
def waitsFor (p : ParamId) (s : State) (l : Line) : Bool :=
  (s.decoder l).candidate.any fun c => deglitchParam l (s.decoder l).counted c.level == p

/-- A deglitch time written: the candidates that have lasted it complete (R138; log 21). -/
def deglitchWritten (p : ParamId) (s : State) : State := completeLines (allLines.filter (waitsFor p s)) s

/-- StuckTime written: the timers that have run that long expire, reported in input order (R143; log 21). -/
def stuckWritten (s : State) : State := expireLines allLines s

/-- AutoAdvance written (R24). -/
def autoAdvanceWritten (s : State) : State :=
  if s.params.autoAdvance then
    match s.heat with
    | none => s
    | some h => if h.phase = .final ∧ h.advance = none then startAdvance s else s
  else s.modHeat fun h => { h with advance := none }

/-- What the owners do with a new value (R184, step 3). RaceTimeLimit acts by a following event (R34). -/
def parameterWritten (p : ParamId) (s : State) : State :=
  match p with
  | .touchDeglitch => deglitchWritten p s
  | .platformDeglitch => deglitchWritten p s
  | .buttonDeglitch => deglitchWritten p s
  | .starterDeglitch => deglitchWritten p s
  | .lineDeglitch => deglitchWritten p s
  | .stuckTime => stuckWritten s
  | .slowRetry => retryWritten .retrySlow s
  | .fastRetry => retryWritten .retryFast s
  | .autoAdvance => autoAdvanceWritten s
  | p =>
    match p.faultClass with
    | some c => modeWritten c s
    | none => s

/-- A taken write: the value, its notice, its owners; an equal value finds them nothing to change (R184, log 20). -/
def writeParameter (link : Link) (p : ParamId) (v : Int) (s : State) : State :=
  let old := s.params.value p
  let s := raise (.parameterChanged p old v link) { s with params := s.params.write p v }
  if old = v then s else parameterWritten p s

/-- SET PARAMETER as its owner takes it (R184, R191). -/
def performSetParameter (link : Link) (param : Byte) (value : Word32) (s : State) : Reply :=
  match paramOfCode param with
  | none => malformed s
  | some p =>
    match decodeParamValue p value with
    | none => malformed s
    | some v =>
      if p.admits v then done (le4Int (s.params.value p) ++ le4Int v) (writeParameter link p v s)
      else invalid ⟨.range, some p.code, 0, 0⟩ s

/-- After a request that moved RaceTimeLimit to or below the race time, overtime follows as an event of its own (R34,
log 22). -/
def followedByOvertime (before after : State) : State :=
  if before.params.raceTimeLimit ≠ after.params.raceTimeLimit then event overtimeIfDue after else after

/-- SET_PARAMETER. -/
def execSetParameter (link : Link) (tag param : Byte) (value : Word32) (s : State) : Host.Outcome State Fault Refusal :=
  .next (followedByOvertime s (arrive link tag 0x17 (performSetParameter link param value) s))

/-! ## GET PARAMETER (R185) -/

/-- A value and its range (R185); the range as two bounds of 4 bytes, low then high, is the model's layout (log 17). -/
def parameterAnswer (p : Params) (i : ParamId) : List Byte :=
  le4Int (p.value i) ++ le4Int i.range.1 ++ le4Int i.range.2

/-- GET PARAMETER as its owner takes it; the 39 values of ALL go without a count byte (R185; log 17). -/
def performGetParameter (param : Byte) (s : State) : Reply :=
  match decodeParamChoice param with
  | none => malformed s
  | some .all => done (ParamId.all.map fun i => le4Int (s.params.value i)).flatten s
  | some (.one i) => done (parameterAnswer s.params i) s

/-- GET_PARAMETER. -/
def execGetParameter (link : Link) (tag param : Byte) (s : State) : Host.Outcome State Fault Refusal :=
  .next (arrive link tag 0x18 (performGetParameter param) s)

/-! ## SET NOTICE MASK (R183) -/

/-- SET NOTICE MASK as the requesting link's CLU takes it. -/
def performSetNoticeMask (link : Link) (kinds : Word16) (s : State) : Reply :=
  match decodeMask kinds with
  | none => malformed s
  | some m => done (maskBytes m) (s.modLink link fun c => { c with mask := m })

/-- SET_NOTICE_MASK. -/
def execSetNoticeMask (link : Link) (tag : Byte) (kinds : Word16) (s : State) : Host.Outcome State Fault Refusal :=
  .next (arrive link tag 0x19 (performSetNoticeMask link kinds) s)

/-! ## RESET DEVICE (R186) -/

/-- RESET DEVICE as the RCT takes it: in EMPTY, LOADED and FINAL it leaves a reset pending. -/
def performResetDevice (link : Link) (s : State) : Reply :=
  match s.raceState with
  | .empty => done [] { s with resetPending := some link }
  | .loaded => done [] { s with resetPending := some link }
  | .final => done [] { s with resetPending := some link }
  | .marks => wrongRace s
  | .running => wrongRace s
  | .review => wrongRace s

/-- RESET_DEVICE. -/
def execResetDevice (link : Link) (tag : Byte) (s : State) : Host.Outcome State Fault Refusal :=
  .next (arrive link tag 0x1C (performResetDevice link) s)

/-! ## Unknown requests (R179) -/

/-- UNKNOWN_REQUEST: a KIND that names a request is no unknown one (log 24). -/
def execUnknownRequest (link : Link) (tag kind : Byte) (s : State) : Host.Outcome State Fault Refusal :=
  if requestKinds.contains kind then .fault .kindNamesARequest
  else .next (arrive link tag kind (refuse .unknownRequest) s)

end Sys2Proof.Machine
end

