-- ==== Sys2Proof/Machine/BoardTimers.lean ====
section
/-! DEFINITION. The Board Transmitter's own events (10): the completion of a transmission, and the clock, freeze and idle
timers. -/

namespace Sys2Proof.Machine

open Sys2Proof

/-- The last byte of a frame sent: its kind is recorded and the line is free for the arbiter (R162). -/
def Board.complete (b : Board) : Board :=
  match b.flight with
  | none => b
  | some f => { b with flight := none, lastKind := some f.frame.kind }

/-- BOARD_TRANSMISSION_COMPLETES: the arbiter runs in the completion (R162, R163); with nothing in flight, nothing happens
(log 4). -/
def execBoardTransmissionCompletes (s : State) : Host.Outcome State Fault Refusal :=
  .next (event (fun s => s.modBoard Board.complete) s)

/-- Whether an optional timer has run out. -/
def timerDue (t : Option Timer) (now : DeckTime) : Bool := t.any fun t => t.due now

/-- The clock timer's expiry: clock-due, and the timer again toward ClockInterval (R169). -/
def Board.clockExpires (p : Params) (now : DeckTime) (b : Board) : Board :=
  if timerDue b.clockTimer now then { b with clockDue := true, clockTimer := some ⟨now, p.clockInterval⟩ } else b

/-- CLOCK_TIMER_EXPIRY. -/
def execClockTimerExpiry (s : State) : Host.Outcome State Fault Refusal :=
  .next (event (fun s => s.modBoard (Board.clockExpires s.params s.deckTime)) s)

/-- The freeze timer's expiry: the freeze ends and clock-due is set (R170). -/
def Board.freezeExpires (now : DeckTime) (b : Board) : Board :=
  if timerDue (b.freeze.map Freeze.timer) now then { b with freeze := none, clockDue := true } else b

/-- FREEZE_TIMER_EXPIRY. -/
def execFreezeTimerExpiry (s : State) : Host.Outcome State Fault Refusal :=
  .next (event (fun s => s.modBoard (Board.freezeExpires s.deckTime)) s)

/-- The idle timer's expiry: idle-due, and the timer again toward IdleInterval (R171). -/
def Board.idleExpires (p : Params) (now : DeckTime) (b : Board) : Board :=
  if timerDue b.idleTimer now then Board.startIdle p now b else b

/-- IDLE_TIMER_EXPIRY. -/
def execIdleTimerExpiry (s : State) : Host.Outcome State Fault Refusal :=
  .next (event (fun s => s.modBoard (Board.idleExpires s.params s.deckTime)) s)

end Sys2Proof.Machine
end

