-- ==== Sys2Proof/Machine/Resets.lean ====
section
/-! DEFINITION. Resets and start-up (R158, R174, R186, R187), and the completion of a link's transmission, which may begin
the reset that follows RESET DEVICE. -/

namespace Sys2Proof.Machine

open Sys2Proof

/-! ## What a reset leaves -/

/-- The state in reset, with what the kind of reset keeps: the parameters and masks (R186), and always the lines
themselves, RESETn, the waiting commands and the count of free choices. -/
def resetState (p : Params) (m : PerLink (List NoticeKind)) (phase : Phase) (s : State) : State :=
  { State.reset with
    phase := phase
    params := p
    links := m.map Clu.reset
    resetn := s.resetn
    decoders := resetDecoders s.decoders
    choices := s.choices
    pending := s.pending }

/-- Every mask admits every kind (R183). -/
def fullMasks : PerLink (List NoticeKind) := ⟨NoticeKind.maskable, NoticeKind.maskable, NoticeKind.maskable⟩

/-- A full reset: every parameter at its default, every mask full (R184, R187). -/
def fullReset (phase : Phase) (s : State) : State := resetState Params.default fullMasks phase s

/-- The reset that follows RESET DEVICE: parameters and masks keep their values (R186); its start-up begins at the reset. -/
def deviceReset (link : Link) (s : State) : State :=
  resetState s.params s.masks (.startUp Config.startUpUnits (.resetDevice link)) s

/-! ## Transmissions of a link (R178, R180, R186) -/

/-- The RESET DEVICE request code (R189). -/
def resetDeviceKind : Byte := 0x1C

/-- The DONE answer to RESET DEVICE, whose completion begins the reset (R186). -/
def LinkFrame.beginsReset : LinkFrame → Bool
  | .answer a => a.kind == resetDeviceKind && a.result == .done
  | .notice _ => false

/-- An answer to a taken request, any but a BUSY refusal (R178). -/
def LinkFrame.answersTaken : LinkFrame → Bool
  | .answer a => a.result != .busy
  | .notice _ => false

/-- A frame sent whole: the transmitter is free, and a taken request is answered (R178, R180). -/
def Clu.complete (c : Clu) : Clu :=
  match c.flight with
  | none => c
  | some f =>
    { c with flight := none, unanswered := if f.frame.answersTaken then c.unanswered - 1 else c.unanswered }

/-- Whether the frame in flight on a link ends a pending reset of that link (R186). -/
def endsInReset (l : Link) (s : State) : Bool :=
  s.resetPending == some l && ((s.links.get l).flight.any fun f => f.frame.beginsReset)

/-- A frame of a link sent whole: the reset when it was the DONE answer to RESET DEVICE, else the arbiter (R180, R186). -/
def completeLink (l : Link) (s : State) : State :=
  if s.phase = .running ∧ endsInReset l s = true then deviceReset l s
  else event (fun s => s.modLink l Clu.complete) s

/-- LINK_TRANSMISSION_COMPLETES; with nothing in flight, nothing happens (log 4). -/
def execLinkTransmissionCompletes (l : Link) (s : State) : Host.Outcome State Fault Refusal := .next (completeLink l s)

/-- DEVICE_RESET_BEGINS: the same completion on the requesting link, or nothing while that answer is not in flight (R186,
log 23). -/
def execDeviceResetBegins (s : State) : Host.Outcome State Fault Refusal :=
  match s.resetPending with
  | none => .next s
  | some l => if endsInReset l s then .next (completeLink l s) else .next s

/-! ## Power and RESETn (R158, R187) -/

/-- POWER_ON_RESET: a full reset whose start-up begins at it, cause POWER_ON, however RESETn stands (R187); the time of a low
level counts from the supply's coming up (log 10). -/
def execPowerOnReset (s : State) : Host.Outcome State Fault Refusal :=
  .next { fullReset (.startUp Config.startUpUnits .powerOn) s with resetn := s.resetn.map fun _ => 0 }

/-- RESETN_LOW: the pin falls and its time begins; a pin already low stays as it is. -/
def execResetnLow (s : State) : Host.Outcome State Fault Refusal :=
  match s.resetn with
  | none => .next { s with resetn := some 0 }
  | some _ => .next s

/-- Whether RESETn has been low for 5 ms and its reset is not yet begun (R158, R187). -/
def longPulseDue (s : State) : Bool :=
  s.phase != .held && s.resetn.any fun n => decide (Config.longPulseUnits ≤ n)

/-- LONG_RESETN_PULSE: a full reset begins, held until the pin returns high (R187); before 5 ms nothing happens (log 2). -/
def execLongResetnPulse (s : State) : Host.Outcome State Fault Refusal :=
  if longPulseDue s then .next (fullReset .held s) else .next s

/-- The length of a low level in microseconds: whole units and the microseconds since the last (log 5). -/
def pulseMicros (units micros : Nat) : Nat := Config.unitMicros * units + micros

/-- The pin returns high. -/
def resetnReleased (s : State) : State := { s with resetn := none }

/-- What the end of a low level does in a part not held in reset: nothing below 20 µs, the short pulse below 5 ms, else the
long pulse's reset, whose start-up begins here (R158, R187; log 29). -/
def endPulse (micros : Nat) (s : State) : State :=
  if micros < Config.shortPulseMicros then resetnReleased s
  else if micros < Config.longPulseMicros then event shortPulse (resetnReleased s)
  else fullReset (.startUp Config.startUpUnits .resetn) (resetnReleased s)

/-- RESETN_HIGH: a part held in reset begins its start-up (R187); another judges the pulse by its length (R158). -/
def execResetnHigh (micros : Nat) (s : State) : Host.Outcome State Fault Refusal :=
  match s.resetn with
  | none => .next s
  | some units =>
    if s.phase = .held then .next { resetnReleased s with phase := .startUp Config.startUpUnits .resetn }
    else .next (endPulse (pulseMicros units micros) s)

/-! ## The end of start-up (R18, R145, R171, R174, R187) -/

/-- The hub at the end of start-up: deck time 0, the decoders begun, the idle run begun, STARTED raised, and the first
frame of every transmitter chosen. -/
def endStartUp (cause : StartCause) (s : State) : State :=
  settle (raise (.started cause)
    { s with
      phase := .running
      deckTime := 0
      decoders := beginDecoders s.decoders
      board := Board.startIdle s.params 0 s.board })

/-- START_UP_END: outside start-up nothing happens (log 2). -/
def execStartUpEnd (s : State) : Host.Outcome State Fault Refusal :=
  match s.phase with
  | .startUp _ cause => .next (endStartUp cause s)
  | .running => .next s
  | .held => .next s

end Sys2Proof.Machine
end

