-- ==== Sys2Proof/Machine/Bodies.lean ====
section
/-! DEFINITION. Reading the bytes of request bodies (R190, R191; log 17 for bodies not tabulated), and a request served from
its KIND and body bytes (R179, R189). -/

namespace Sys2Proof.Machine

open Sys2Proof

/-! ## Fields -/

/-- A reader of bytes: the value read and the bytes left, or none where too few are given. -/
abbrev Reader (α : Type) := List Byte → Option (α × List Byte)

def readByte : Reader Byte
  | [] => none
  | b :: bs => some (b, bs)

/-- Two bytes, little-endian. -/
def readWord16 : Reader Word16
  | a :: b :: bs => some (b ++ a, bs)
  | _ => none

/-- Four bytes, little-endian. -/
def readWord32 : Reader Word32
  | a :: b :: c :: d :: bs => some (d ++ c ++ b ++ a, bs)
  | _ => none

/-- An optional field: read when its presence bit is set (R190). -/
def readIf {α : Type} (present : Bool) (r : Reader α) : Reader (Option α) := fun bs =>
  if present then
    match r bs with
    | some (a, rest) => some (some a, rest)
    | none => none
  else some (none, bs)

/-- So many items in a row. -/
def readMany {α : Type} (r : Reader α) : Nat → Reader (List α)
  | 0, bs => some ([], bs)
  | n + 1, bs =>
    match r bs with
    | none => none
    | some (a, rest) =>
      match readMany r n rest with
      | none => none
      | some (as, rest) => some (a :: as, rest)

/-- A list under its count (R190). -/
def readList {α : Type} (r : Reader α) : Reader (List α) := fun bs =>
  match readByte bs with
  | none => none
  | some (n, rest) => readMany r n.toNat rest

/-- A whole body read: no byte may be left over (R179). -/
def readAll {α : Type} (r : Reader α) (bs : List Byte) : Option α :=
  match r bs with
  | some (a, []) => some a
  | _ => none

/-- One reader after another. -/
def readThen {α β γ : Type} (f : α → β → γ) (r : Reader α) (t : Reader β) : Reader γ := fun bs =>
  match r bs with
  | none => none
  | some (a, rest) =>
    match t rest with
    | none => none
    | some (b, rest) => some (f a b, rest)

/-! ## Bodies -/

def readHeatId : Reader HeatId := readThen HeatId.mk readWord16 readByte

def readSegment : Reader SegmentItem :=
  readThen (fun l p => ⟨l, p.1, p.2⟩) readByte (readThen (Prod.mk (α := Byte) (β := Byte)) readByte readByte)

def readLaneEntry : Reader LaneEntry := readThen LaneEntry.mk readByte (readList readWord32)

/-- The fourteen optional items of a STAGE HEAT body, in bit order (R191). -/
structure HeatItems where
  poolLength : Option Byte
  startEnd : Option Byte
  startKind : Option Byte
  firstGuard : Option Word32
  minLength : Option Word32
  turnLockout : Option Word32
  weight : Option Byte
  basis : Option Byte
  laneMode : Option Byte
  collectTime : Option Word32
  backupTolerance : Option Word32
  exchangeAllowance : Option Word32
  releaseMode : Option Byte
  splitInterval : Option Byte

/-- The items present by the presence word (R191). -/
def readHeatItems (w : Word16) : Reader HeatItems := fun bs => do
  let (a, bs) ← readIf (w.getLsbD 0) readByte bs
  let (b, bs) ← readIf (w.getLsbD 1) readByte bs
  let (c, bs) ← readIf (w.getLsbD 2) readByte bs
  let (d, bs) ← readIf (w.getLsbD 3) readWord32 bs
  let (e, bs) ← readIf (w.getLsbD 4) readWord32 bs
  let (f, bs) ← readIf (w.getLsbD 5) readWord32 bs
  let (g, bs) ← readIf (w.getLsbD 6) readByte bs
  let (h, bs) ← readIf (w.getLsbD 7) readByte bs
  let (i, bs) ← readIf (w.getLsbD 8) readByte bs
  let (j, bs) ← readIf (w.getLsbD 9) readWord32 bs
  let (k, bs) ← readIf (w.getLsbD 10) readWord32 bs
  let (l, bs) ← readIf (w.getLsbD 11) readWord32 bs
  let (m, bs) ← readIf (w.getLsbD 12) readByte bs
  let (n, bs) ← readIf (w.getLsbD 13) readByte bs
  some (⟨a, b, c, d, e, f, g, h, i, j, k, l, m, n⟩, bs)

/-- The STAGE HEAT body (R191); a presence bit beyond the fourteen is malformed (R190). -/
def readHeatBody : Reader HeatBody := fun bs => do
  let (i, bs) ← readHeatId bs
  let (n, bs) ← readByte bs
  let (w, bs) ← readWord16 bs
  if w.getLsbD 14 || w.getLsbD 15 then none
  else
    let (x, bs) ← readHeatItems w bs
    let (segments, bs) ← readList readSegment bs
    let (lanes, bs) ← readMany readLaneEntry 10 bs
    some
      ({ event := i.event
         heat := i.heat
         lengths := n
         poolLength := x.poolLength
         startEnd := x.startEnd
         startKind := x.startKind
         firstGuard := x.firstGuard
         minLength := x.minLength
         turnLockout := x.turnLockout
         weight := x.weight
         basis := x.basis
         laneMode := x.laneMode
         collectTime := x.collectTime
         backupTolerance := x.backupTolerance
         exchangeAllowance := x.exchangeAllowance
         releaseMode := x.releaseMode
         splitInterval := x.splitInterval
         segments := segments
         lanes := lanes }, bs)

/-- SET LANE TIMING after its lane: a presence byte for mode, W and basis (R52, R190). -/
def readTiming : Reader TimingBody := fun bs => do
  let (p, bs) ← readByte bs
  if 7 < p.toNat then none
  else
    let (m, bs) ← readIf (p.getLsbD 0) readByte bs
    let (w, bs) ← readIf (p.getLsbD 1) readByte bs
    let (b, bs) ← readIf (p.getLsbD 2) readByte bs
    some (⟨m, w, b⟩, bs)

def readTagItem : Reader TagItem := readThen TagItem.mk readByte readWord32

/-- A lane and one more item. -/
def readLaneAnd {α : Type} (r : Reader α) : Reader (Byte × α) := readThen Prod.mk readByte r

/-! ## Serving a request (R179, R189) -/

/-- A request whose body is read whole, or malformed. -/
def withBody {α : Type} (r : Reader α) (body : List Byte) (perform : α → State → Reply) (s : State) : Reply :=
  match readAll r body with
  | none => malformed s
  | some a => perform a s

/-- A request without a body. -/
def withoutBody (body : List Byte) (perform : State → Reply) (s : State) : Reply :=
  match body with
  | [] => perform s
  | _ :: _ => malformed s

/-- A taken request served by its KIND (R189): unknown, malformed, or routed to its owner (R179). -/
def serve (link : Link) (kind : Byte) (body : List Byte) (s : State) : Reply :=
  match kind.toNat with
  | 0x01 => withBody readHeatBody body (performStageHeat link) s
  | 0x02 => withBody readHeatId body (performWithdrawHeat link) s
  | 0x03 => withoutBody body performListQueue s
  | 0x04 => withoutBody body (performAdvance link) s
  | 0x05 => withoutBody body (performAbandon link) s
  | 0x06 => withoutBody body (performStartRace link) s
  | 0x07 => withBody readByte body performReadRace s
  | 0x08 => withBody readByte body (performScratchLane link) s
  | 0x09 => withBody (readLaneAnd (readList readTagItem)) body (fun b => performAssignEntrant b.1 b.2) s
  | 0x0A => withBody (readLaneAnd readTiming) body (fun b => performSetLaneTiming b.1 b.2) s
  | 0x0B => withBody (readLaneAnd readWord16) body (fun b => performPromote link b.1 b.2) s
  | 0x0C => withBody readByte body (performDeclareNoFinish link) s
  | 0x0D => withBody (readLaneAnd readWord32) body (fun b => performEnterFinish link b.1 b.2) s
  | 0x0E => withBody (readLaneAnd readWord32) body (fun b => performAdjustFinish link b.1 b.2) s
  | 0x0F => withBody readByte body performReadLane s
  | 0x10 => withBody (readLaneAnd readByte) body (fun b => performReadSplits b.1 b.2) s
  | 0x11 => withBody readByte body (performHoldLane link) s
  | 0x12 => withBody readByte body (performUnholdLane link) s
  | 0x13 => withBody (readLaneAnd readByte) body (fun b => performClearSystemHold link b.1 b.2) s
  | 0x14 => withBody readByte body (performReleaseLane link) s
  | 0x15 => withBody (readLaneAnd readByte) body (fun b => performDisqualify link b.1 b.2) s
  | 0x16 => withBody readByte body (performReinstate link) s
  | 0x17 => withBody (readLaneAnd readWord32) body (fun b => performSetParameter link b.1 b.2) s
  | 0x18 => withBody readByte body performGetParameter s
  | 0x19 => withBody readWord16 body (performSetNoticeMask link) s
  | 0x1A => withBody readByte body performReadFaults s
  | 0x1B => withBody readByte body (performClearFaults link) s
  | 0x1C => withoutBody body (performResetDevice link) s
  | _ => refuse .unknownRequest s

end Sys2Proof.Machine
end

