-- ==== Sys2Proof/Machine/Framing.lean ====
section
/-! DEFINITION. The receive framer (R176, R177): a received byte, the frame it may complete or discard, and the gap timer. -/

namespace Sys2Proof.Machine

open Sys2Proof

/-- The SYNC byte of a link frame (R189). -/
def syncByte : Byte := 0xC3

/-- The framer of a link set. -/
def setFramer (l : Link) (f : Framer) (s : State) : State := s.modLink l fun c => { c with framer := f }

/-- A frame discarded: back to HUNT, one condition to the FSV (R154, R177). -/
def discard (l : Link) (d : Discard) (s : State) : State := reportDiscard l d (setFramer l .hunt s)

/-- Whether the two bytes behind LEN and its bytes are their CRC (R176). -/
def crcHolds (len : Nat) (buffer : List Byte) : Bool :=
  buffer.drop (len + 1) == [crcHigh (crc16 (buffer.take (len + 1))), crcLow (crc16 (buffer.take (len + 1)))]

/-- A whole frame with a good CRC: an arrival with its TAG, KIND and body (R178, R189). -/
def arriveFrame (l : Link) (len : Nat) (buffer : List Byte) (s : State) : State :=
  match buffer with
  | _ :: tag :: kind :: rest => judgeArrival l tag kind (serve l kind (rest.take (len - 2))) s
  | _ => s

/-- A byte joins the buffer of a frame (R176, R177). -/
def frameByte (l : Link) (buffer : List Byte) (b : Byte) (s : State) : State :=
  match buffer with
  | [] => if outside 2 250 b.toNat then discard l .length s else setFramer l (.frame [b] s.deckTime) s
  | len :: rest =>
    let full := len :: rest ++ [b]
    if full.length < len.toNat + 3 then setFramer l (.frame full s.deckTime) s
    else if crcHolds len.toNat full then arriveFrame l len.toNat full (setFramer l .hunt s)
    else discard l .crc s

/-- A byte received by a running receiver (R176). -/
def receive (l : Link) (b : Byte) (s : State) : State :=
  match (s.links.get l).framer with
  | .hunt => if b = syncByte then setFramer l (.frame [] s.deckTime) s else s
  | .frame buffer _ => frameByte l buffer b s

/-- RECEIVED_BYTE: discarded in reset and start-up (R187). -/
def execReceivedByte (l : Link) (b : Byte) (s : State) : Host.Outcome State Fault Refusal :=
  .next (followedByOvertime s (event (receive l b) s))

/-- Whether a link's gap timer has run out (R177). -/
def gapDue (l : Link) (s : State) : Bool :=
  match (s.links.get l).framer with
  | .hunt => false
  | .frame _ last => decide (Config.gapUnits ≤ elapsed last s.deckTime)

/-- GAP_EXPIRY: without a gap timer due, nothing happens (log 2). -/
def execGapExpiry (l : Link) (s : State) : Host.Outcome State Fault Refusal :=
  .next (event (fun s => if gapDue l s then discard l .gap s else s) s)

end Sys2Proof.Machine
end

