-- ==== Sys2Proof/Machine/Clock.lean ====
section
/-! DEFINITION. What happens when no command waits (log 1): the expiries and completions that have fallen due, the choice
among them (log 3), and the passing of one unit. -/

namespace Sys2Proof.Machine

open Sys2Proof

/-- The three links in order. -/
def allLinks : List Link := [.cl0, .cl1, .cl2]

/-- A frame in flight on a link has been sent whole (log 4). -/
def linkSent (s : State) (l : Link) : Bool := (s.links.get l).flight.any fun f => f.left == 0

/-- The board frame in flight has been sent whole (log 4). -/
def boardSent (s : State) : Bool := s.board.flight.any fun f => f.left == 0

/-- A command that stands only while its timer has run out. -/
def dueIf (b : Bool) (c : Instr) : List Instr := if b then [c] else []

/-- What has fallen due on the deck (R136, R143, R153). -/
def dueOnDeck (s : State) : List Instr :=
  (allLines.filter fun l => (s.decoder l).candidateDue s.params l s.deckTime).map .candidateCompletes ++
  (allLines.filter fun l => (s.decoder l).stuckDue s.params s.deckTime).map .stuckTimerExpiry ++
  (allInputs.filter fun i => (s.faults.get i).retryDue s.params s.deckTime).map .retryExpiry

/-- What has fallen due in the race (R24, R33, R86). -/
def dueInRace (s : State) : List Instr :=
  (allLanes.filter fun n => collectDue n s).map .collecttimeExpiry ++
  dueIf (overtimeDue s) .overtimeExpiry ++
  dueIf (advanceDue s) .advanceTimerExpiry

/-- What has fallen due on the lines out (R162, R169 to R171, R177, R180). -/
def dueOnLines (s : State) : List Instr :=
  dueIf (boardSent s) .boardTransmissionCompletes ++
  dueIf (timerDue s.board.clockTimer s.deckTime) .clockTimerExpiry ++
  dueIf (timerDue (s.board.freeze.map Freeze.timer) s.deckTime) .freezeTimerExpiry ++
  dueIf (timerDue s.board.idleTimer s.deckTime) .idleTimerExpiry ++
  (allLinks.filter fun l => gapDue l s).map .gapExpiry ++
  (allLinks.filter (linkSent s)).map .linkTransmissionCompletes

/-- What has fallen due in a phase (R187). -/
def dueInPhase (s : State) : List Instr :=
  match s.phase with
  | .running => dueOnDeck s ++ dueInRace s ++ dueOnLines s
  | .startUp left _ => dueIf (left == 0) .startUpEnd
  | .held => []

/-- Everything that has fallen due. -/
def dueCommands (s : State) : List Instr := dueIf (longPulseDue s) .longResetnPulse ++ dueInPhase s

/-- The one taken next: the only one, or a free choice among several (log 3), which the state counts. -/
def nextDue (s : State) : Option (Instr × State) :=
  match dueCommands s with
  | [] => none
  | [c] => some (c, s)
  | c :: cs =>
    some (((c :: cs)[Config.simultaneousChoice s.choices % (c :: cs).length]?).getD c, { s with choices := s.choices + 1 })

/-- A unit of line time passes for a frame in flight on a link (log 4). -/
def Clu.tick (c : Clu) : Clu :=
  { c with flight := c.flight.map fun f => { f with left := f.left - Config.unitSubticks } }

/-- A unit of line time passes for the board frame in flight. -/
def Board.tick (b : Board) : Board :=
  { b with flight := b.flight.map fun f => { f with left := f.left - Config.unitSubticks } }

/-- RESETn low for one more unit. -/
def tickReset (s : State) : State := { s with resetn := s.resetn.map (· + 1) }

/-- One unit of 0.1 ms passes: deck time runs in a running hub (R18), start-up runs down, a reset holds. -/
def tick (s : State) : State :=
  match s.phase with
  | .running =>
    tickReset { s with deckTime := s.deckTime + 1, links := s.links.map Clu.tick, board := s.board.tick }
  | .startUp left cause => tickReset { s with phase := .startUp (left - 1) cause }
  | .held => tickReset s

end Sys2Proof.Machine
end

