-- ==== Sys2Proof/Machine/Dispatch.lean ====
section
/-! DEFINITION. The meaning of every command: one arm, one call. -/

namespace Sys2Proof.Machine

open Sys2Proof

def exec (i : Instr) (s : State) : Host.Outcome State Fault Refusal :=
  match i with
  | .stageHeat link tag body => Sys2Proof.Machine.execStageHeat link tag body s
  | .withdrawHeat link tag number heat => Sys2Proof.Machine.execWithdrawHeat link tag number heat s
  | .listQueue link tag => Sys2Proof.Machine.execListQueue link tag s
  | .advance link tag => Sys2Proof.Machine.execAdvance link tag s
  | .abandon link tag => Sys2Proof.Machine.execAbandon link tag s
  | .startRace link tag => Sys2Proof.Machine.execStartRace link tag s
  | .readRace link tag part => Sys2Proof.Machine.execReadRace link tag part s
  | .scratchLane link tag lane => Sys2Proof.Machine.execScratchLane link tag lane s
  | .assignEntrant link tag lane items => Sys2Proof.Machine.execAssignEntrant link tag lane items s
  | .setLaneTiming link tag lane timing => Sys2Proof.Machine.execSetLaneTiming link tag lane timing s
  | .promoteTouch link tag lane number => Sys2Proof.Machine.execPromoteTouch link tag lane number s
  | .declareNoFinish link tag lane => Sys2Proof.Machine.execDeclareNoFinish link tag lane s
  | .enterFinish link tag lane time => Sys2Proof.Machine.execEnterFinish link tag lane time s
  | .adjustFinish link tag lane time => Sys2Proof.Machine.execAdjustFinish link tag lane time s
  | .readLane link tag lane => Sys2Proof.Machine.execReadLane link tag lane s
  | .readSplits link tag lane first => Sys2Proof.Machine.execReadSplits link tag lane first s
  | .holdLane link tag lane => Sys2Proof.Machine.execHoldLane link tag lane s
  | .unholdLane link tag lane => Sys2Proof.Machine.execUnholdLane link tag lane s
  | .clearSystemHold link tag lane reasons => Sys2Proof.Machine.execClearSystemHold link tag lane reasons s
  | .releaseLane link tag lane => Sys2Proof.Machine.execReleaseLane link tag lane s
  | .disqualify link tag lane code => Sys2Proof.Machine.execDisqualify link tag lane code s
  | .reinstate link tag lane => Sys2Proof.Machine.execReinstate link tag lane s
  | .setParameter link tag param value => Sys2Proof.Machine.execSetParameter link tag param value s
  | .getParameter link tag param => Sys2Proof.Machine.execGetParameter link tag param s
  | .setNoticeMask link tag kinds => Sys2Proof.Machine.execSetNoticeMask link tag kinds s
  | .readFaults link tag record => Sys2Proof.Machine.execReadFaults link tag record s
  | .clearFaults link tag record => Sys2Proof.Machine.execClearFaults link tag record s
  | .resetDevice link tag => Sys2Proof.Machine.execResetDevice link tag s
  | .unknownRequest link tag kind => Sys2Proof.Machine.execUnknownRequest link tag kind s
  | .receivedByte link byte => Sys2Proof.Machine.execReceivedByte link byte s
  | .gapExpiry link => Sys2Proof.Machine.execGapExpiry link s
  | .linkTransmissionCompletes link => Sys2Proof.Machine.execLinkTransmissionCompletes link s
  | .deviceResetBegins => Sys2Proof.Machine.execDeviceResetBegins s
  | .sensedLevelChange line level => Sys2Proof.Machine.execSensedLevelChange line level s
  | .candidateCompletes line => Sys2Proof.Machine.execCandidateCompletes line s
  | .stuckTimerExpiry line => Sys2Proof.Machine.execStuckTimerExpiry line s
  | .retryExpiry input => Sys2Proof.Machine.execRetryExpiry input s
  | .collecttimeExpiry lane => Sys2Proof.Machine.execCollecttimeExpiry lane s
  | .overtimeExpiry => Sys2Proof.Machine.execOvertimeExpiry s
  | .advanceTimerExpiry => Sys2Proof.Machine.execAdvanceTimerExpiry s
  | .boardTransmissionCompletes => Sys2Proof.Machine.execBoardTransmissionCompletes s
  | .clockTimerExpiry => Sys2Proof.Machine.execClockTimerExpiry s
  | .freezeTimerExpiry => Sys2Proof.Machine.execFreezeTimerExpiry s
  | .idleTimerExpiry => Sys2Proof.Machine.execIdleTimerExpiry s
  | .powerOnReset => Sys2Proof.Machine.execPowerOnReset s
  | .resetnLow => Sys2Proof.Machine.execResetnLow s
  | .longResetnPulse => Sys2Proof.Machine.execLongResetnPulse s
  | .resetnHigh micros => Sys2Proof.Machine.execResetnHigh micros s
  | .startUpEnd => Sys2Proof.Machine.execStartUpEnd s

end Sys2Proof.Machine
end

