-- ==== Sys2Proof/WellFormed.lean ====
section
/-! DEFINITION. Which terms of `Instr` are commands the spec knows: request bodies that no check of the CLU refuses
MALFORMED (R179), levels a line can show (8.2), lines that have the timer named (R143), KINDs that name no request. -/

namespace Sys2Proof

open Sys2Proof.Machine

/-- A two-level line shows ACTIVE or IDLE only (8.2). -/
def Line.shows (l : Line) (v : Level) : Bool := l.fourLevel || !v.isFault

/-- The check of each command's operands. -/
def Instr.wellFormed : Instr → Bool
  | .stageHeat _ _ body => (decodeHeatCodes body).isSome
  | .withdrawHeat _ _ _ _ => true
  | .listQueue _ _ => true
  | .advance _ _ => true
  | .abandon _ _ => true
  | .startRace _ _ => true
  | .readRace _ _ part => decide (part.toNat ≤ 1)
  | .scratchLane _ _ lane => (laneOfByte lane).isSome
  | .assignEntrant _ _ lane _ => (laneOfByte lane).isSome
  | .setLaneTiming _ _ lane timing => (laneOfByte lane).isSome && (decodeTiming timing).isSome
  | .promoteTouch _ _ lane number => (laneOfByte lane).isSome && number != 0
  | .declareNoFinish _ _ lane => (laneOfByte lane).isSome
  | .enterFinish _ _ lane _ => (laneOfByte lane).isSome
  | .adjustFinish _ _ lane _ => (laneOfByte lane).isSome
  | .readLane _ _ lane => (laneOfByte lane).isSome
  | .readSplits _ _ lane first => (laneOfByte lane).isSome && decide (1 ≤ first.toNat) && decide (first.toNat ≤ 64)
  | .holdLane _ _ lane => (laneOfByte lane).isSome
  | .unholdLane _ _ lane => (laneOfByte lane).isSome
  | .clearSystemHold _ _ lane reasons => (laneOfByte lane).isSome && (decodeReasons reasons).isSome
  | .releaseLane _ _ lane => (laneOfByte lane).isSome
  | .disqualify _ _ lane _ => (laneOfByte lane).isSome
  | .reinstate _ _ lane => (laneOfByte lane).isSome
  | .setParameter _ _ param value =>
    match paramOfCode param with
    | none => false
    | some p => (decodeParamValue p value).isSome
  | .getParameter _ _ param => (decodeParamChoice param).isSome
  | .setNoticeMask _ _ kinds => (decodeMask kinds).isSome
  | .readFaults _ _ record => (decodeRecord record).isSome
  | .clearFaults _ _ record => (decodeRecord record).isSome
  | .resetDevice _ _ => true
  | .unknownRequest _ _ kind => !requestKinds.contains kind
  | .receivedByte _ _ => true
  | .gapExpiry _ => true
  | .linkTransmissionCompletes _ => true
  | .deviceResetBegins => true
  | .sensedLevelChange line level => line.shows level
  | .candidateCompletes _ => true
  | .stuckTimerExpiry line => line.hasStuckTimer
  | .retryExpiry _ => true
  | .collecttimeExpiry _ => true
  | .overtimeExpiry => true
  | .advanceTimerExpiry => true
  | .boardTransmissionCompletes => true
  | .clockTimerExpiry => true
  | .freezeTimerExpiry => true
  | .idleTimerExpiry => true
  | .powerOnReset => true
  | .resetnLow => true
  | .longResetnPulse => true
  | .resetnHigh _ => true
  | .startUpEnd => true

end Sys2Proof
end

