-- ==== Sys2Proof/Safety.lean ====
section
/-! DEFINITION. The words the statements use: when a request is taken and what taking it leaves, which commands are
requests, and the invariants of the hub. -/

namespace Sys2Proof.Machine

open Sys2Proof

/-! ## Requests -/

/-- Link, TAG and KIND of a request (R189); the other commands are none. -/
def requestOf : Instr → Option (Link × Byte × Byte)
  | .stageHeat l t _ => some (l, t, 0x01)
  | .withdrawHeat l t _ _ => some (l, t, 0x02)
  | .listQueue l t => some (l, t, 0x03)
  | .advance l t => some (l, t, 0x04)
  | .abandon l t => some (l, t, 0x05)
  | .startRace l t => some (l, t, 0x06)
  | .readRace l t _ => some (l, t, 0x07)
  | .scratchLane l t _ => some (l, t, 0x08)
  | .assignEntrant l t _ _ => some (l, t, 0x09)
  | .setLaneTiming l t _ _ => some (l, t, 0x0A)
  | .promoteTouch l t _ _ => some (l, t, 0x0B)
  | .declareNoFinish l t _ => some (l, t, 0x0C)
  | .enterFinish l t _ _ => some (l, t, 0x0D)
  | .adjustFinish l t _ _ => some (l, t, 0x0E)
  | .readLane l t _ => some (l, t, 0x0F)
  | .readSplits l t _ _ => some (l, t, 0x10)
  | .holdLane l t _ => some (l, t, 0x11)
  | .unholdLane l t _ => some (l, t, 0x12)
  | .clearSystemHold l t _ _ => some (l, t, 0x13)
  | .releaseLane l t _ => some (l, t, 0x14)
  | .disqualify l t _ _ => some (l, t, 0x15)
  | .reinstate l t _ => some (l, t, 0x16)
  | .setParameter l t _ _ => some (l, t, 0x17)
  | .getParameter l t _ => some (l, t, 0x18)
  | .setNoticeMask l t _ => some (l, t, 0x19)
  | .readFaults l t _ => some (l, t, 0x1A)
  | .clearFaults l t _ => some (l, t, 0x1B)
  | .resetDevice l t => some (l, t, 0x1C)
  | .unknownRequest l t k => some (l, t, k)
  | .receivedByte _ _ => none
  | .gapExpiry _ => none
  | .linkTransmissionCompletes _ => none
  | .deviceResetBegins => none
  | .sensedLevelChange _ _ => none
  | .candidateCompletes _ => none
  | .stuckTimerExpiry _ => none
  | .retryExpiry _ => none
  | .collecttimeExpiry _ => none
  | .overtimeExpiry => none
  | .advanceTimerExpiry => none
  | .boardTransmissionCompletes => none
  | .clockTimerExpiry => none
  | .freezeTimerExpiry => none
  | .idleTimerExpiry => none
  | .powerOnReset => none
  | .resetnLow => none
  | .longResetnPulse => none
  | .resetnHigh _ => none
  | .startUpEnd => none

/-- A running hub takes the next arrival on a link: no reset is pending and fewer than four taken requests are unanswered
(R178). -/
structure Takes (l : Link) (s : State) : Prop where
  running : s.phase = .running
  noReset : s.resetPending = none
  room : (s.links.get l).unanswered < 4

/-- The state in which a taken request's owner acts: the link counts one more taken request (R178). -/
def counted (l : Link) (s : State) : State := s.modLink l fun c => { c with unanswered := c.unanswered + 1 }

/-- The end of a taken request's event: its answer at the tail of its link's queue, then the arbiters (R179, R180). -/
def answered (l : Link) (tag kind : Byte) (r : Result) (data : List Byte) (s : State) : State :=
  settle (pushAnswer l ⟨tag, kind, r, data⟩ s)

/-! ## Resets -/

/-- What every reset leaves, whatever parameters and masks it leaves (R11, R41, R63, R148, R174, R186, R187): no race, an
empty queue, clear fault records, decoders stopped on lines whose levels are the lines' own, links and board at rest. -/
structure ResetTo (p : Params) (m : Link → List NoticeKind) (s t : State) : Prop where
  params : t.params = p
  links : ∀ l, t.links.get l = Clu.reset (m l)
  board : t.board = Board.reset
  heat : t.heat = none
  queue : t.queue = []
  resetPending : t.resetPending = none
  faults : ∀ i, t.faults.get i = FaultRecord.reset
  linkFaults : ∀ l, t.linkFaults.get l = ⟨none, false⟩
  decoders : ∀ i, t.decoders.get i = Decoder.reset (s.decoders.get i).sensed

/-- A decoder at the end of start-up (the table of R145). -/
def beginsAs (l : Line) (before after : Decoder) : Prop :=
  after.sensed = before.sensed ∧ after.since = 0 ∧
    (before.sensed = .active →
      after.counted = .active ∧ after.candidate = none ∧
        after.stuck = if l.hasStuckTimer then .running else .stopped) ∧
    (before.sensed = .idle → after.counted = .idle ∧ after.candidate = none ∧ after.stuck = .stopped) ∧
    (before.sensed.isFault = true →
      after.counted = .idle ∧ after.candidate = some ⟨before.sensed, 0⟩ ∧ after.stuck = .stopped)

/-! ## Frames received -/

/-- A frame of a link discarded: HUNT, and under REPORT one LINK_FRAME condition with its FAULT notice (R154, R177). -/
def afterDiscard (l : Link) (d : Discard) (s : State) : State :=
  if s.params.linkFrameMode = .off then setFramer l .hunt s
  else
    raise
      (.fault
        { record := 71 + l.code
          cls := .linkFrame
          cause := .begins
          state := .clear
          inService := true
          present := .none
          last := some (.link d)
          seen := true
          time := s.deckTime
          link := none })
      { setFramer l .hunt s with linkFaults := s.linkFaults.put l ⟨some d, true⟩ }

/-- An optional item of a body: its bytes where present (R190). -/
def itemBytes {α : Type} (f : α → List Byte) : Option α → List Byte
  | none => []
  | some a => f a

/-- A lane entry of a STAGE HEAT body (R191). -/
def laneEntryBytes (e : LaneEntry) : List Byte := e.use :: countedList tagBytes e.tags

/-- The STAGE HEAT body laid out (R191). -/
def heatBodyBytes (b : HeatBody) : List Byte :=
  le2 b.event.toNat ++ [b.heat, b.lengths] ++
  le2 (bitSet [b.poolLength.isSome, b.startEnd.isSome, b.startKind.isSome, b.firstGuard.isSome, b.minLength.isSome,
    b.turnLockout.isSome, b.weight.isSome, b.basis.isSome, b.laneMode.isSome, b.collectTime.isSome,
    b.backupTolerance.isSome, b.exchangeAllowance.isSome, b.releaseMode.isSome, b.splitInterval.isSome]) ++
  itemBytes (fun a => [a]) b.poolLength ++ itemBytes (fun a => [a]) b.startEnd ++
  itemBytes (fun a => [a]) b.startKind ++ itemBytes tagBytes b.firstGuard ++ itemBytes tagBytes b.minLength ++
  itemBytes tagBytes b.turnLockout ++ itemBytes (fun a => [a]) b.weight ++ itemBytes (fun a => [a]) b.basis ++
  itemBytes (fun a => [a]) b.laneMode ++ itemBytes tagBytes b.collectTime ++ itemBytes tagBytes b.backupTolerance ++
  itemBytes tagBytes b.exchangeAllowance ++ itemBytes (fun a => [a]) b.releaseMode ++
  itemBytes (fun a => [a]) b.splitInterval ++
  countedList (fun g => [g.lengths, g.leg, g.stroke]) b.segments ++ (b.lanes.map laneEntryBytes).flatten

/-- The body of each request laid out by R190 and R191; a KIND that names no request is given none. -/
def requestBody : Instr → List Byte
  | .stageHeat _ _ b => heatBodyBytes b
  | .withdrawHeat _ _ e h => le2 e.toNat ++ [h]
  | .readRace _ _ p => [p]
  | .scratchLane _ _ n => [n]
  | .assignEntrant _ _ n is => n :: countedList (fun t => t.leg :: tagBytes t.tag) is
  | .setLaneTiming _ _ n t =>
    n :: optionalGroup [t.mode.map fun a => [a], t.weight.map fun a => [a], t.basis.map fun a => [a]]
  | .promoteTouch _ _ n k => n :: le2 k.toNat
  | .declareNoFinish _ _ n => [n]
  | .enterFinish _ _ n t => n :: tagBytes t
  | .adjustFinish _ _ n t => n :: tagBytes t
  | .readLane _ _ n => [n]
  | .readSplits _ _ n f => [n, f]
  | .holdLane _ _ n => [n]
  | .unholdLane _ _ n => [n]
  | .clearSystemHold _ _ n r => [n, r]
  | .releaseLane _ _ n => [n]
  | .disqualify _ _ n c => [n, c]
  | .reinstate _ _ n => [n]
  | .setParameter _ _ p v => p :: tagBytes v
  | .getParameter _ _ p => [p]
  | .setNoticeMask _ _ k => le2 k.toNat
  | .readFaults _ _ r => [r]
  | .clearFaults _ _ r => [r]
  | _ => []

/-- The bytes of a request's frame behind SYNC, but for the last (R189). -/
def frameBuffer (tag kind : Byte) (body : List Byte) : List Byte := ((envelope tag kind body).drop 1).dropLast

/-- The last byte of a frame, the low byte of its CRC (R189). -/
def lastByte (tag kind : Byte) (body : List Byte) : Byte :=
  crcLow (crc16 (byteOf (body.length + 2) :: tag :: kind :: body))

/-! ## Tables of the spec -/

/-- The Default column of 11.5 and of Definition Defaults, an enumerated default as its code. -/
def ParamId.default : ParamId → Int
  | .touchDeglitch => 20
  | .platformDeglitch => 100
  | .buttonDeglitch => 50
  | .starterDeglitch => 10
  | .lineDeglitch => 500
  | .stuckTime => 50000
  | .padOffsetA => 0
  | .padOffsetB => 0
  | .slowRetry => 50000
  | .fastRetry => 5000
  | .padLineMode => 3
  | .padStuckMode => 4
  | .platformLineMode => 3
  | .buttonStuckMode => 4
  | .startLineMode => 2
  | .linkFrameMode => 1
  | .recallWindow => 300000
  | .raceTimeLimit => 36000000
  | .autoAdvance => 0
  | .advanceDelay => 300000
  | .clockInterval => 1000
  | .idleInterval => 5000
  | .freezeHold => 50000
  | .idlePattern => 0x0055
  | .defaultPoolLength => 50
  | .defaultStartEnd => 0
  | .defaultStartKind => 0
  | .defaultStroke => 0
  | .defaultFirstGuard => 70000
  | .defaultMinLength => 70000
  | .defaultTurnLockout => 15000
  | .defaultWindowWeight => 20
  | .defaultBasis => 0
  | .defaultLaneMode => 0
  | .defaultCollectTime => 30000
  | .defaultBackupTolerance => 3000
  | .defaultExchangeAllowance => 300
  | .defaultReleaseMode => 0
  | .defaultSplitInterval => 1

/-- The refusals of the tables under R47 and R123, by request and lane state; none where the table says taken. -/
def refusalByTable : Instr → LaneState → Option Result
  | .scratchLane _ _ _, .ready => none
  | .scratchLane _ _ _, .collect => some .laneBusy
  | .scratchLane _ _ _, _ => some .wrongState
  | .assignEntrant _ _ _ _, .collect => some .laneBusy
  | .assignEntrant _ _ _ _, .finished => some .wrongState
  | .assignEntrant _ _ _ _, .released => some .wrongState
  | .assignEntrant _ _ _ _, _ => none
  | .setLaneTiming _ _ _ _, .ready => none
  | .setLaneTiming _ _ _ _, .swimming => none
  | .setLaneTiming _ _ _ _, .collect => some .laneBusy
  | .setLaneTiming _ _ _ _, _ => some .wrongState
  | .promoteTouch _ _ _ _, .swimming => none
  | .promoteTouch _ _ _ _, .collect => some .laneBusy
  | .promoteTouch _ _ _ _, _ => some .wrongState
  | .declareNoFinish _ _ _, .swimming => none
  | .declareNoFinish _ _ _, .collect => some .laneBusy
  | .declareNoFinish _ _ _, _ => some .wrongState
  | .enterFinish _ _ _ _, .swimming => none
  | .enterFinish _ _ _ _, .collect => some .laneBusy
  | .enterFinish _ _ _ _, _ => some .wrongState
  | .adjustFinish _ _ _ _, .collect => some .laneBusy
  | .adjustFinish _ _ _ _, .finished => none
  | .adjustFinish _ _ _ _, .released => some .final
  | .adjustFinish _ _ _ _, _ => some .wrongState
  | .holdLane _ _ _, .vacant => some .wrongState
  | .holdLane _ _ _, .released => some .final
  | .unholdLane _ _ _, .vacant => some .wrongState
  | .unholdLane _ _ _, .released => some .final
  | .clearSystemHold _ _ _ _, .vacant => some .wrongState
  | .clearSystemHold _ _ _ _, .released => some .final
  | .releaseLane _ _ _, .collect => some .laneBusy
  | .releaseLane _ _ _, .finished => none
  | .releaseLane _ _ _, .released => some .final
  | .releaseLane _ _ _, _ => some .wrongState
  | .disqualify _ _ _ _, .swimming => none
  | .disqualify _ _ _ _, .collect => some .laneBusy
  | .disqualify _ _ _ _, .finished => none
  | .disqualify _ _ _ _, .released => some .final
  | .disqualify _ _ _ _, _ => some .wrongState
  | .reinstate _ _ _, .swimming => none
  | .reinstate _ _ _, .collect => some .laneBusy
  | .reinstate _ _ _, .finished => none
  | .reinstate _ _ _, .released => some .final
  | .reinstate _ _ _, _ => some .wrongState
  | _, _ => none

/-- What a refusal by the tables carries: WRONG_STATE the lane state (R191), the others nothing. -/
def refusalData (r : Result) (st : LaneState) : List Byte := if r = .wrongState then [1, byteOf st.code] else []

/-! ## Notices -/

/-- The notices raised between two states, in order: each offered to every link in turn (R181). -/
def Raised (ns : List Notice) (s t : State) : Prop := t.links = (ns.foldl (fun u q => raise q u) s).links

/-- The notices of some kinds among a list, in order. -/
def ofKind (k : NoticeKind) (ns : List Notice) : List Notice := ns.filter fun q => q.kind == k

/-- No SPLIT notice follows an EXCHANGE notice (R116). -/
def SplitsFirst (ns : List Notice) : Prop := ns.Pairwise fun a b => a.kind = .exchange → b.kind ≠ .split

/-- The notices of one lane's accepted touch or promotion (R80, R116): one SPLIT for each entry that joined, in length order, the
timed one with the promotion `p`; EXCHANGE notices behind them; HOLD_CHANGE notices; no other. -/
def SplitsNoticed (n : LaneNo) (p : Option Promotion) (s t : State) (h g : Heat) : Prop :=
  ∃ ns, Raised ns s t ∧ SplitsFirst ns ∧ (∀ q ∈ ns, q.kind = .split ∨ q.kind = .exchange ∨ q.kind = .holdChange) ∧
    ofKind .split ns =
      ((g.lanes.get n).splits.drop (h.lanes.get n).splits.length).map fun e => .split n e (if e.time = none then none else p)

/-- The notices of a start (R21, R39, R80, R108, R116): RACE_STATE first; then one SPLIT for each entry of each READY lane's list,
in lane order, EXCHANGE notices behind them all, one REACTION for each lane of a BLOCK start whose platform is out of service, in
lane order, and HOLD_CHANGE notices. -/
def StartNoticed (start : DeckTime) (cause : RaceCause) (link : Option Link) (s t : State) (h g : Heat) : Prop :=
  ∃ ns, Raised (.raceState .running cause link (some h.definition.id) h.recalls (some start) none :: ns) s t ∧
    SplitsFirst ns ∧
    (∀ q ∈ ns, q.kind = .split ∨ q.kind = .reaction ∨ q.kind = .exchange ∨ q.kind = .holdChange) ∧
    ofKind .split ns =
      ((allLanes.filter fun n => (h.lanes.get n).state == .ready).flatMap fun n =>
        (g.lanes.get n).splits.map fun e => .split n e none) ∧
    ofKind .reaction ns =
      (allLanes.filter fun n => (h.lanes.get n).state == .ready && h.definition.startKind == .block &&
        !s.inService (platformInput n h.definition.startEnd)).filterMap fun n =>
          (g.lanes.get n).reaction.map fun r => .reaction n r.early true none r.release r.reaction

/-- The notices of a finish (R56, R80, R94, R129): SPLIT of the final entry, where one joined, and the judging it brings; then
FINISH; then hold and place changes, one RELEASE when the lane was released at once, and the race's RACE_STATE notices. -/
def FinishNoticed (n : LaneNo) (core : ResultCore) (link : Option Link) (final : List SplitEntry) (s t : State) (g : Heat) :
    Prop :=
  ∃ before after, Raised (before ++ .finish n core link :: after) s t ∧ SplitsFirst before ∧
    (∀ q ∈ before, q.kind = .split ∨ q.kind = .exchange ∨ q.kind = .holdChange) ∧
    ofKind .split before = final.map (fun e => .split n e none) ∧
    (∀ q ∈ after, q.kind = .holdChange ∨ q.kind = .placeChange ∨ q.kind = .release ∨ q.kind = .raceState) ∧
    ofKind .release after =
      if (g.lanes.get n).state = .released then [.release n core (g.desks.get n).place (g.desks.get n).dq none] else []

/-- The FAULT notice of an input's record as an event left it (R155). -/
def faultNotice (i : Fin 71) (cls : FaultClass) (cause : FaultCause) (now : DeckTime) (r : FaultRecord) : Notice :=
  .fault
    { record := i.val
      cls := cls
      cause := cause
      state := r.state
      inService := r.state == .clear || r.state == .reporting
      present := r.present
      last := r.last.map .input
      seen := r.seen
      time := now
      link := none }

/-- The FAULT notice of a record moved from `r` to `q` under parameters `p`: none when state, SEEN, last and present condition are as
they were, nor for the present condition alone under OFF (R155). -/
def faultRaised (p : Params) (i : Fin 71) (cls : FaultClass) (cause : FaultCause) (now : DeckTime) (r q : FaultRecord) :
    List Notice :=
  if q.state = r.state ∧ q.seen = r.seen ∧ q.last = r.last ∧ (q.present = r.present ∨ p.mode cls = .off) then []
  else [faultNotice i cls cause now q]

/-- The classes an input's conditions can have (R149). -/
def classesOf (i : Fin 71) : List FaultClass :=
  match lineOfInput i with
  | .pad _ _ => [.padLine, .padStuck]
  | .platform _ _ => [.platformLine]
  | .button _ _ => [.buttonStuck]
  | _ => [.startLine]

/-- The class a CLEARED notice may name (R155): the service class where the record has one, else one of the input's; which of a
pad's two is free (log 14). -/
def clearedUnder (i : Fin 71) (r : FaultRecord) (cls : FaultClass) : Prop :=
  match r.serviceClass with
  | some c => cls = c
  | none => cls ∈ classesOf i

/-- The notices of a clear (R155, R157): one for each record it changed, with the requesting link, inputs 0 to 70 and then the
links. -/
def clearedNotices (cls : Fin 71 → FaultClass) (link : Option Link) (s t : State) : List Notice :=
  (allInputs.flatMap fun i =>
    let q := t.faults.get i
    if q = s.faults.get i then []
    else
      [.fault
        { record := i.val
          cls := cls i
          cause := .cleared
          state := q.state
          inService := q.state == .clear || q.state == .reporting
          present := q.present
          last := q.last.map .input
          seen := q.seen
          time := s.deckTime
          link := link }]) ++
  [Link.cl0, .cl1, .cl2].flatMap fun k =>
    let q := t.linkFaults.get k
    if q = s.linkFaults.get k then []
    else
      [.fault
        { record := 71 + k.code
          cls := .linkFrame
          cause := .cleared
          state := .clear
          inService := true
          present := .none
          last := q.last.map .link
          seen := q.seen
          time := s.deckTime
          link := link }]

/-- The notices of an event: these first, and no FAULT notice behind them (R155). -/
def FaultsNoticed (first : List Notice) (s t : State) : Prop :=
  ∃ more, Raised (first ++ more) s t ∧ ∀ q ∈ more, q.kind ≠ .fault

/-! ## The board -/

/-- The status of a lane on the board by lane state, DQ mark and outcome (R168). -/
def statusOnBoard (l : Lane) (dq : Option Byte) : LaneStatus :=
  match l.state, dq, l.result with
  | .vacant, _, _ => .vacant
  | .ready, _, _ => .ready
  | .swimming, none, _ => .swimming
  | .collect, none, _ => .swimming
  | .finished, none, some (.time _ _ _ _) => .provisional
  | .released, none, some (.time _ _ _ _) => .official
  | .finished, none, _ => .noFinish
  | .released, none, _ => .noFinish
  | _, some _, _ => .dq

/-- The displayed time of a lane in hundredths (R168): in SWIMMING and COLLECT that of the last timed entry whose length is a
multiple of the split interval, past the finish the official time; none for a DQ mark. -/
def timeOnBoard (d : Definition) (l : Lane) (dq : Option Byte) : Option Nat :=
  match l.state, dq, l.result with
  | .swimming, none, _ => (splitTime l.splits).map (· / 100)
  | .collect, none, _ => (splitTime l.splits).map (· / 100)
  | .finished, none, some (.time t _ _ _) => some (t / 100)
  | .released, none, some (.time t _ _ _) => some (t / 100)
  | _, _, _ => none
where
  splitTime (es : List SplitEntry) : Option Nat :=
    ((es.filter fun e => e.time.isSome && e.length % d.splitInterval == 0).getLast?).bind SplitEntry.time

/-- The LANE frame of a lane (R168): status, lengths completed, displayed time, place, and the current leg with its tag. -/
def laneOnBoard (h : Heat) (n : LaneNo) : BoardFrame :=
  .lane
    { lane := n
      status := statusOnBoard (h.lanes.get n) (h.desks.get n).dq
      completed := (h.lanes.get n).splits.length
      time := timeOnBoard h.definition (h.lanes.get n) (h.desks.get n).dq
      place := (h.desks.get n).place
      legAndTag := (h.lanes.get n).leg.map fun g => (g, ((h.lanes.get n).tags[g - 1]?).getD 0) }

/-! ## The race -/

/-- The board of an emptied race (R173): its events, flight and last kind stay; the idle run begins. -/
def emptiedBoard (p : Params) (now : DeckTime) (b : Board) : Board :=
  { b with
    headerPending := false
    laneQueue := []
    clockDue := false
    clockTimer := none
    freeze := none
    idleDue := true
    idleTimer := some ⟨now, p.idleInterval⟩ }

/-- The state of a race emptied by an event of cause `cause`, with its RACE_STATE notice (R23, R24, R37, R39). -/
def emptied (cause : RaceCause) (link : Option Link) (s : State) : State :=
  raise (.raceState .empty cause link none 0 none none)
    { s with heat := none, board := emptiedBoard s.params s.deckTime s.board }

/-- The lane record a load builds (R43). -/
def builtLane (d : Definition) (n : LaneNo) : Lane where
  state := if (d.lanes.get n).use = .used then .ready else .vacant
  tags := (d.lanes.get n).tags
  leg := if (d.lanes.get n).use = .used then some 1 else none
  timing := { mode := d.laneMode, weight := d.weight, basis := d.basis }
  pendingTiming := none
  expectation := none
  d1 := none
  d2 := none
  splits := []
  rejected := []
  rejections := 0
  collection := none
  reaction := none
  exchanges := []
  result := none

/-- A load of a queue entry (R15, R22, R43, R167, R171): the race made of it, the rest of the queue, and the board's work;
then the QUEUE_CHANGE and the RACE_STATE notice. -/
structure Loaded (link : Option Link) (e : QueueEntry) (rest : List QueueEntry) (s t : State) : Prop where
  queue : t.queue = rest
  race : ∃ h, t.heat = some h ∧ h.definition = e.definition ∧ h.phase = .loaded ∧ h.startTime = none ∧
    h.stopTime = none ∧ h.recalls = 0 ∧ h.overtimeFlag = false ∧ h.overtimeTimer = false ∧ h.advance = none ∧
    h.placing = [] ∧ ∀ n, h.lanes.get n = builtLane e.definition n ∧ h.desks.get n = ⟨HoldSet.empty, none, none⟩
  board : t.board =
    { s.board with
      headerPending := true
      laneQueue := [0, 1, 2, 3, 4, 5, 6, 7, 8, 9]
      idleDue := false
      idleTimer := none }
  notices : t.links =
    (raise (.raceState .loaded .load link (some e.definition.id) 0 none none)
      (raise (.queueChange .loaded e.definition.id link rest.length) s)).links
  others : t.phase = s.phase ∧ t.deckTime = s.deckTime ∧ t.params = s.params ∧ t.decoders = s.decoders ∧
    t.faults = s.faults ∧ t.linkFaults = s.linkFaults ∧ t.resetn = s.resetn ∧ t.resetPending = s.resetPending ∧
    t.choices = s.choices ∧ t.pending = s.pending

/-- A line's candidate completes now: it has lasted its deglitch time, the line is in service, and no STUCK condition of it is
reported (R136, R143, R144). -/
structure Completes (l : Line) (old new : Level) (since : DeckTime) (s : State) : Prop where
  running : s.phase = .running
  unstuck : (s.decoder l).stuck ≠ .expired
  counted : (s.decoder l).counted = old
  candidate : (s.decoder l).candidate = some ⟨new, since⟩
  lasted : s.params.deglitch l old new ≤ elapsed since s.deckTime
  inService : s.lineInService l = true

/-- The end of a lane's length 1, and the input of the pad there. -/
def firstPad (d : Definition) (n : LaneNo) : Fin 71 := padInput n (d.endOf 1)

/-- A started race (R27, R65, R105, R108, R109): its start deck time, every READY lane SWIMMING with empty lists and, while
the pad of length 1 is in service or length 1 is the last, expecting length 1 from reference 0 at FirstGuard; every other
lane as it was. -/
structure Started (start : DeckTime) (s t : State) (h g : Heat) : Prop where
  phase : g.phase = .running
  startTime : g.startTime = some start
  overtimeFlag : g.overtimeFlag = false
  overtimeTimer : g.overtimeTimer = true
  definition : g.definition = h.definition
  recalls : g.recalls = h.recalls
  swimming : ∀ n, (h.lanes.get n).state = .ready →
    (g.lanes.get n).state = .swimming ∧ (g.lanes.get n).d1 = none ∧ (g.lanes.get n).d2 = none ∧
    (g.lanes.get n).rejected = [] ∧ (g.lanes.get n).rejections = 0 ∧ (g.lanes.get n).tags = (h.lanes.get n).tags ∧
    (g.lanes.get n).timing = (h.lanes.get n).timing ∧
    (g.lanes.get n).exchanges.length = h.definition.legs - 1
  expecting : ∀ n, (h.lanes.get n).state = .ready →
    s.inService (firstPad h.definition n) = true ∨ h.definition.lengths ≤ 1 →
    (g.lanes.get n).expectation = some ⟨1, h.definition.startEnd.other, 0, h.definition.firstGuard⟩ ∧
    (g.lanes.get n).splits = []
  missed : ∀ n, (h.lanes.get n).state = .ready → s.inService (firstPad h.definition n) = false →
    1 < h.definition.lengths →
    (g.lanes.get n).splits.head? = some ⟨1, h.definition.startEnd.other, h.definition.legOf 1, none, .none⟩ ∧
    (g.desks.get n).hold.reasons.skippedLength = true
  reaction : ∀ n, (h.lanes.get n).state = .ready →
    (h.definition.startKind = .water → (g.lanes.get n).reaction = none) ∧
    (h.definition.startKind = .block → s.inService (platformInput n h.definition.startEnd) = false →
      ∃ r, (g.lanes.get n).reaction = some r ∧ r.unmeasured = true ∧ r.armed = false) ∧
    (h.definition.startKind = .block → s.inService (platformInput n h.definition.startEnd) = true →
      s.inService (firstPad h.definition n) = true →
      (g.lanes.get n).reaction = some ((h.lanes.get n).reaction.getD ⟨start, none, none, false, false, true⟩))
  others : ∀ n, (h.lanes.get n).state ≠ .ready → g.lanes.get n = h.lanes.get n ∧ g.desks.get n = h.desks.get n
  board : t.board.clockDue = true ∧ t.board.clockTimer = some ⟨s.deckTime, s.params.clockInterval⟩ ∧
    t.board.freezeUsed = false ∧
    (s.board.events.length < 4 → t.board.events = s.board.events ++ [⟨.start, h.definition.id, h.recalls⟩])
  rest : t.phase = s.phase ∧ t.deckTime = s.deckTime ∧ t.params = s.params ∧ t.queue = s.queue ∧ t.faults = s.faults ∧
    t.linkFaults = s.linkFaults ∧ t.resetn = s.resetn ∧ t.resetPending = s.resetPending ∧ t.pending = s.pending

/-- The lane record an honoured recall leaves (R62): VACANT lanes unchanged, every other READY with its tags and timing. -/
def recalledLane (l : Lane) : Lane :=
  if l.state = .vacant then l
  else
    { state := .ready, tags := l.tags, leg := some 1, timing := l.timing, pendingTiming := none, expectation := none,
      d1 := none, d2 := none, splits := [], rejected := [], rejections := 0, collection := none, reaction := none,
      exchanges := [], result := none }

/-! ## Parameters and lanes -/

/-- The parameters no owner acts on when they are written: each is read at the moments its rules name (R2, R31, R141,
R169 to R171, R184; AdvanceDelay by R24). -/
def ParamId.quiet : ParamId → Bool
  | .padOffsetA | .padOffsetB | .recallWindow | .advanceDelay | .clockInterval | .idleInterval | .freezeHold
  | .idlePattern | .defaultPoolLength | .defaultStartEnd | .defaultStartKind | .defaultStroke | .defaultFirstGuard
  | .defaultMinLength | .defaultTurnLockout | .defaultWindowWeight | .defaultBasis | .defaultLaneMode
  | .defaultCollectTime | .defaultBackupTolerance | .defaultExchangeAllowance | .defaultReleaseMode
  | .defaultSplitInterval => true
  | _ => false

/-- The answers of a link that are queued or in flight, in order. -/
def Clu.outgoing (c : Clu) : List Answer :=
  (match c.flight with
    | some ⟨.answer a, _⟩ => [a]
    | _ => []) ++ c.answers

/-- A segment that breaks R8 at a place of its list: the first not on leg 1, a later one neither on the leg before nor one
higher, or any above leg 4. -/
def breaksLegOrder (ss : List Segment) (i : Nat) : Bool :=
  match ss[i]? with
  | none => false
  | some s =>
    decide (4 < s.leg) ||
      (if i = 0 then s.leg != 1
       else (ss[i - 1]?).any fun r => s.leg != r.leg && s.leg != r.leg + 1)

/-- The request names a lane, by R47's and R123's first check. -/
def laneOf : Instr → Option Byte
  | .scratchLane _ _ n => some n
  | .assignEntrant _ _ n _ => some n
  | .setLaneTiming _ _ n _ => some n
  | .promoteTouch _ _ n _ => some n
  | .declareNoFinish _ _ n => some n
  | .enterFinish _ _ n _ => some n
  | .adjustFinish _ _ n _ => some n
  | .readLane _ _ n => some n
  | .readSplits _ _ n _ => some n
  | .holdLane _ _ n => some n
  | .unholdLane _ _ n => some n
  | .clearSystemHold _ _ n _ => some n
  | .releaseLane _ _ n => some n
  | .disqualify _ _ n _ => some n
  | .reinstate _ _ n => some n
  | _ => none

/-- What a lane request leaves of everything but its own lane, the places, the board's work, notices and its own link's
answers: the queue, parameters, decoders, fault records and times; a hub without a race; the record of every other lane, its
hold set and DQ mark; while the race state stays, the race's stop time and timers too; every mask and receiver, and the other
links' answer side. -/
structure LaneUntouched (n : LaneNo) (l : Link) (s t : State) : Prop where
  phase : t.phase = s.phase
  deckTime : t.deckTime = s.deckTime
  resetn : t.resetn = s.resetn
  resetPending : t.resetPending = s.resetPending
  params : t.params = s.params
  queue : t.queue = s.queue
  decoders : t.decoders = s.decoders
  faults : t.faults = s.faults
  linkFaults : t.linkFaults = s.linkFaults
  pending : t.pending = s.pending
  choices : t.choices = s.choices
  empty : s.heat = none → t.heat = none
  race : ∀ h, s.heat = some h → ∃ g, t.heat = some g ∧ g.definition = h.definition ∧ g.startTime = h.startTime ∧
    g.recalls = h.recalls ∧ g.overtimeFlag = h.overtimeFlag ∧
    (g.phase = h.phase → g.stopTime = h.stopTime ∧ g.overtimeTimer = h.overtimeTimer ∧ g.advance = h.advance) ∧
    ∀ m, m ≠ n → g.lanes.get m = h.lanes.get m ∧ (g.desks.get m).hold = (h.desks.get m).hold ∧
      (g.desks.get m).dq = (h.desks.get m).dq
  receivers : ∀ k, (t.links.get k).mask = (s.links.get k).mask ∧ (t.links.get k).framer = (s.links.get k).framer
  links : ∀ k, k ≠ l → (t.links.get k).outgoing = (s.links.get k).outgoing ∧
    (t.links.get k).unanswered = (s.links.get k).unanswered

/-- The deck, board and timer commands. -/
def ownCommand : Instr → Bool
  | .sensedLevelChange _ _ => true
  | .candidateCompletes _ => true
  | .stuckTimerExpiry _ => true
  | .retryExpiry _ => true
  | .collecttimeExpiry _ => true
  | .overtimeExpiry => true
  | .boardTransmissionCompletes => true
  | .clockTimerExpiry => true
  | .freezeTimerExpiry => true
  | .idleTimerExpiry => true
  | _ => false

/-! ## What the reads answer -/

/-- A byte that is 1 exactly when something holds. -/
def oneIf (b : Bool) : Byte := if b then 1 else 0

/-- The race clock (R20): the race time in RUNNING, the stop race time in REVIEW and FINAL. -/
def clockAt (h : Heat) (now : DeckTime) : Option Nat :=
  match h.phase, h.startTime with
  | .running, some start => some (now - start).toNat
  | .review, _ => h.stopTime
  | .final, _ => h.stopTime
  | _, _ => none

/-- A definition as READ RACE part 0 carries it: items 1 to 5 of the table of R191, every presence bit set. -/
def definitionItems (d : Definition) : List Byte :=
  le2 d.id.event.toNat ++ [d.id.heat, byteOf d.lengths, 0xFF, 0x3F, byteOf d.poolLength, byteOf d.startEnd.code,
    byteOf d.startKind.code] ++ le4 d.firstGuard ++ le4 d.minLength ++ le4 d.turnLockout ++
  [byteOf d.weight, byteOf d.basis.code, byteOf d.laneMode.code] ++ le4 d.collectTime ++ le4 d.backupTolerance ++
  le4 d.exchangeAllowance ++ [byteOf d.releaseMode.code, byteOf d.splitInterval, byteOf d.segments.length] ++
  (d.segments.map fun g => [byteOf g.lengths, byteOf g.leg, byteOf g.stroke]).flatten

/-- The answer to READ RACE part 0 (R38, R191): race state, recall count, overtime flag, advance pending and number of queued
definitions; a presence byte; start deck time, race clock and units remaining; the definition. -/
def raceItems (s : State) : List Byte :=
  match s.heat with
  | none => [0, 0, 0, 0, byteOf s.queue.length, 0]
  | some h =>
    [byteOf h.phase.state.code, byteOf h.recalls, oneIf h.overtimeFlag, oneIf h.advance.isSome, byteOf s.queue.length,
      byteOf (bitSet [true, h.startTime.isSome, (clockAt h s.deckTime).isSome, h.advance.isSome])] ++
    itemBytes tagBytes h.startTime ++ itemBytes le4 (clockAt h s.deckTime) ++
    itemBytes (fun t => le4 (t.limit - elapsed t.start s.deckTime)) h.advance ++ definitionItems h.definition

/-- The answer to READ RACE part 1 (R38, R191): under a presence byte the heat ID and the ten lane entries. -/
def assignmentItems (s : State) : List Byte :=
  match s.heat with
  | none => [0]
  | some h =>
    1 :: le2 h.definition.id.event.toNat ++ [h.definition.id.heat] ++
      (allLanes.map fun n =>
        [byteOf (h.definition.lanes.get n).use.code, byteOf (h.definition.lanes.get n).tags.length] ++
          ((h.definition.lanes.get n).tags.map tagBytes).flatten).flatten

/-- The collection record of READ LANE (R191, item 10): opening race time, units remaining, then the slots. -/
def collectionItems (d : Definition) (now : Nat) (c : Collection) : List Byte :=
  le4 c.opening ++ le4 (c.opening + d.collectTime - now) ++
    optionalGroup [c.pad.map le4, c.one.map le4, c.two.map le4, c.three.map le4]

/-- The exchange records of READ LANE (R191, item 10). -/
def exchangeItems (x : Exchange) : List Byte :=
  [byteOf x.leg, byteOf x.finish.code, byteOf x.verdict.code,
    match x.verdict with
    | .unjudged c => byteOf c.code
    | _ => 0xFF] ++
  optionalGroup [x.arming.map le4, x.touch.map le4, x.release.map le4, x.margin.map le4Int]

/-- The result core of READ LANE (R191, item 11): the outcome, then the items of TIME. -/
def coreItems : ResultCore → List Byte
  | .time t source backup replaced =>
    0 :: optionalGroup [some (le4 t), some [byteOf source.code], backup.map le4, replaced.map le4]
  | .noFinish => [1, 0]

/-- The answer to READ LANE, items 1 to 14 (R60, R191). -/
def laneItems (h : Heat) (n : LaneNo) (now : DeckTime) : List Byte :=
  let l := h.lanes.get n
  let k := h.desks.get n
  [byteOf n.val, if l.state = .vacant then 1 else 0, byteOf l.state.code, byteOf (l.leg.getD 0)] ++
  countedList tagBytes l.tags ++
  [byteOf l.timing.mode.code, byteOf l.timing.weight, byteOf l.timing.basis.code] ++
  optionalGroup
    [(l.pendingTiming.bind PendingTiming.mode).map fun m => [byteOf m.code],
      (l.pendingTiming.bind PendingTiming.weight).map fun w => [byteOf w],
      (l.pendingTiming.bind PendingTiming.basis).map fun b => [byteOf b.code]] ++
  optionalGroup
    [l.expectation.map fun x => [byteOf x.length, byteOf x.finish.code] ++ le4 x.reference ++ le4 x.window] ++
  optionalGroup [l.d1.map le4, l.d2.map le4] ++
  byteOf l.splits.length :: itemBytes SplitEntry.bytes l.splits.getLast? ++
  le2 l.rejections ++
  countedList
    (fun r => le2 r.number ++ le4 r.time ++ [byteOf r.finish.code, byteOf r.reason.code, byteOf r.expected]) l.rejected ++
  optionalGroup [l.collection.map (collectionItems h.definition (h.raceTime now))] ++
  optionalGroup
    [l.reaction.map fun r =>
      byteOf (bitSet [r.early, r.unmeasured]) :: optionalGroup [r.release.map le4, r.reaction.map le4]] ++
  (if l.exchanges = [] then [0] else 1 :: countedList exchangeItems l.exchanges) ++
  optionalGroup [l.result.map coreItems] ++
  [byteOf (bitSet [k.hold.cl0, k.hold.cl1, k.hold.cl2, !k.hold.reasons.isEmpty]), k.hold.reasons.byte] ++
  optionalGroup [k.dq.map fun c => [c]] ++ [byteOf (k.place.getD 0)]

/-- The answer to READ FAULTS of ALL (R156, R191): 71 packed input records, three link records, six class modes. -/
def faultItems (s : State) : List Byte :=
  (allInputs.map fun i =>
    byteOf ((s.faults.get i).state.code + (if (s.faults.get i).seen then 8 else 0) +
      16 * (s.faults.get i).present.code + 64 * (s.decoder (lineOfInput i)).counted.code)) ++
  ([Link.cl0, .cl1, .cl2].map fun l =>
    [oneIf (s.linkFaults.get l).seen, byteOf (((s.linkFaults.get l).last.map Discard.code).getD 0xFF)]).flatten ++
  [byteOf s.params.padLineMode.code, byteOf s.params.padStuckMode.code, byteOf s.params.platformLineMode.code,
    byteOf s.params.buttonStuckMode.code, byteOf s.params.startLineMode.code, byteOf s.params.linkFrameMode.code]

/-- The answer to READ FAULTS of one input (R148, R156) in the model's layout (log 17): state, in service, present and last
condition, SEEN; service class, retry start, the present condition's class and the units remaining under a presence byte; the
counted level. -/
def inputItems (s : State) (i : Fin 71) : List Byte :=
  let r := s.faults.get i
  [byteOf r.state.code, oneIf (r.state == .clear || r.state == .reporting), byteOf r.present.code,
    byteOf ((r.last.map Condition.code).getD 0xFF), oneIf r.seen] ++
  optionalGroup
    [r.serviceClass.map fun c => [byteOf c.code], r.retryStart.map tagBytes,
      if r.present = .none then none else some [byteOf (conditionClass i r.present).code],
      match r.retryStart, r.serviceClass.bind fun c => s.params.retryTime (s.params.mode c) with
      | some t, some limit => some (le4 (limit - elapsed t s.deckTime))
      | _, _ => none] ++
  [byteOf (s.decoder (lineOfInput i)).counted.code]

/-! ## Touches and finishes -/

/-- A change of counted level in its decoder alone (R136, R143). -/
def countedAt (l : Line) (new : Level) (since : DeckTime) (s : State) : State :=
  s.modDecoder l fun d =>
    { d with
      counted := new
      since := since
      candidate := none
      stuck := if l.hasStuckTimer = true ∧ new = .active then .running else .stopped }

/-- The window offset that R66 sizes from a lane's timing and durations. -/
def sizedByTable (d : Definition) (t : LaneTiming) (d1 d2 : Option Nat) : Nat :=
  match t.mode, t.basis with
  | .manual, _ => d.minLength
  | .auto, .last => max d.minLength (t.weight * d1.getD 0 / 32)
  | .auto, .previous => max d.minLength (t.weight * (d2.or d1).getD 0 / 32)

/-- The window offset of a lane (R67): FirstGuard while no entry is timed, then the sized one. -/
def offsetByTable (d : Definition) (l : Lane) : Nat :=
  if lastTimedLength l.splits = 0 then d.firstGuard else sizedByTable d l.timing l.d1 l.d2

/-- The window that length k+1 would have had, the bound of the skip test (R74). -/
def skipBound (d : Definition) (l : Lane) (x : Expectation) : Nat :=
  x.reference + (x.length - lastTimedLength l.splits + 1) * offsetByTable d l

/-- A lane's timing after its pending fields (R54). -/
def timingAfter (l : Lane) : LaneTiming :=
  match l.pendingTiming with
  | none => l.timing
  | some p => ⟨p.mode.getD l.timing.mode, p.weight.getD l.timing.weight, p.basis.getD l.timing.basis⟩

/-- Every lane but one, with its hold set, DQ mark and place, is as it was. -/
def othersAsBefore (n : LaneNo) (h g : Heat) : Prop :=
  ∀ m, m ≠ n → g.lanes.get m = h.lanes.get m ∧ g.desks.get m = h.desks.get m

/-- A touch of race time `t` accepted for length k below N (R54, R66, R67, R70, R71), `missed` being a skip's NONE entry and
`kept` the rejected list left: the entry, the durations over the lengths closed since reference `x`, the pending timing
applied; while the pad of length k+1 is in service, or k+1 is N, the next expectation is one offset past the touch, and
otherwise NONE entries follow (R77). -/
structure Accepted (n : LaneNo) (k t : Nat) (source : SplitSource) (missed : List SplitEntry) (kept : List RejectedEntry)
    (x : Expectation) (s : State) (h g : Heat) : Prop where
  race : g.definition = h.definition ∧ g.phase = h.phase ∧ g.startTime = h.startTime
  state : (g.lanes.get n).state = .swimming
  oneClosed : k - lastTimedLength (h.lanes.get n).splits = 1 →
    (g.lanes.get n).d1 = some (t - x.reference) ∧ (g.lanes.get n).d2 = (h.lanes.get n).d1
  moreClosed : ∀ c, k - lastTimedLength (h.lanes.get n).splits = c → 2 ≤ c →
    (g.lanes.get n).d1 = some ((t - x.reference) / c) ∧ (g.lanes.get n).d2 = some ((t - x.reference) / c)
  timing : (g.lanes.get n).timing = timingAfter (h.lanes.get n)
  pending : (g.lanes.get n).pendingTiming = none
  rejected : (g.lanes.get n).rejected = kept ∧ (g.lanes.get n).rejections = (h.lanes.get n).rejections
  splits : ∃ more, (g.lanes.get n).splits =
      (h.lanes.get n).splits ++ missed ++
        [⟨k, h.definition.endOf k, h.definition.legOf k, some t, source⟩] ++ more ∧
    ∀ e ∈ more, e.source = .none ∧ e.time = none
  expecting : s.inService (padInput n (h.definition.endOf (k + 1))) = true ∨ h.definition.lengths ≤ k + 1 →
    (g.lanes.get n).splits =
        (h.lanes.get n).splits ++ missed ++
          [⟨k, h.definition.endOf k, h.definition.legOf k, some t, source⟩] ∧
      (g.lanes.get n).leg = some (h.definition.legOf (k + 1)) ∧
      (g.lanes.get n).expectation =
        some ⟨k + 1, h.definition.endOf (k + 1), t,
          t + sizedByTable h.definition (g.lanes.get n).timing (g.lanes.get n).d1 (g.lanes.get n).d2⟩
  others : othersAsBefore n h g

/-- The collection of a lane opens (R44, R54, R72, R85, R86, R108): with the record `c`, the expectation and any pending timing
gone, no reaction armed, leg L, and nothing else of the lane changed. -/
def openedLane (d : Definition) (c : Collection) (l : Lane) : Lane :=
  { l with
    state := .collect
    expectation := none
    pendingTiming := none
    leg := some d.legs
    reaction := l.reaction.map fun r => { r with armed := false }
    collection := some c }

/-- Three times in ascending order around the middle one of a list (R90). -/
def isMedian (b : Nat) (ts : List Nat) : Prop := ∃ lo hi, lo ≤ b ∧ b ≤ hi ∧ List.Perm [lo, b, hi] ts

/-- The backup value of the filled button slots (R90). -/
def backupIs (ts : List Nat) (b : Option Nat) : Prop :=
  (ts = [] → b = none) ∧ (∀ t, ts = [t] → b = some t) ∧ (∀ t u, ts = [t, u] → b = some ((t + u) / 2)) ∧
    (ts.length = 3 → ∃ m, b = some m ∧ isMedian m ts)

/-- The finish source without a pad time, by the number of filled button slots (R91). -/
def sourceByButtons : Nat → SplitSource
  | 3 => .buttonMedian
  | 2 => .buttonMean
  | _ => .buttonSingle

/-- FINISHED, or RELEASED at once: in release mode AUTO a lane that finishes with an empty hold set (R127). -/
def finishedState (n : LaneNo) (g : Heat) : LaneState :=
  if g.definition.releaseMode = .auto ∧ (g.desks.get n).hold.isEmpty = true then .released else .finished

/-- What finishing a lane leaves (R54, R56, R94, R108): its state and core, nothing of SWIMMING or COLLECT; the places by R100 are
the invariant `Placed`. With no lane left READY, SWIMMING or COLLECT a RUNNING race is past RUNNING, its clock stopped at this
moment (R35, R36). -/
structure Finishes (n : LaneNo) (core : ResultCore) (s : State) (h g : Heat) : Prop where
  race : g.definition = h.definition ∧ g.startTime = h.startTime ∧ g.recalls = h.recalls
  state : (g.lanes.get n).state = finishedState n g
  result : (g.lanes.get n).result = some core
  gone : (g.lanes.get n).expectation = none ∧ (g.lanes.get n).pendingTiming = none ∧ (g.lanes.get n).collection = none
  kept : (g.lanes.get n).tags = (h.lanes.get n).tags ∧ (g.lanes.get n).leg = (h.lanes.get n).leg ∧
    (g.lanes.get n).timing = (h.lanes.get n).timing ∧ (g.lanes.get n).d1 = (h.lanes.get n).d1 ∧
    (g.lanes.get n).d2 = (h.lanes.get n).d2 ∧ (g.lanes.get n).rejected = (h.lanes.get n).rejected
  holders : (∀ k, (g.desks.get n).hold.holds k = (h.desks.get n).hold.holds k) ∧
    (g.desks.get n).dq = (h.desks.get n).dq ∧
    (g.desks.get n).hold.reasons.falseStart = (h.desks.get n).hold.reasons.falseStart ∧
    (g.desks.get n).hold.reasons.skippedLength = (h.desks.get n).hold.reasons.skippedLength
  others : ∀ m, m ≠ n → g.lanes.get m = h.lanes.get m ∧ (g.desks.get m).hold = (h.desks.get m).hold ∧
    (g.desks.get m).dq = (h.desks.get m).dq
  stays : (∃ m, m ≠ n ∧ (h.lanes.get m).unfinished = true) → g.phase = h.phase ∧ g.stopTime = h.stopTime
  ends : h.phase = .running → (∀ m, m ≠ n → (h.lanes.get m).unfinished = false) →
    (g.phase = .review ∨ g.phase = .final) ∧ g.stopTime = some (h.raceTime s.deckTime)

/-- The notices between two states are one notice and after it PLACE_CHANGE notices alone (R101, R122). -/
def NoticesThenPlaces (first : Notice) (s t : State) : Prop :=
  ∃ more : List Notice, t.links = (more.foldl (fun u q => raise q u) (raise first s)).links ∧
    ∀ q ∈ more, q.kind = .placeChange

/-! ## Supervision -/

/-- A condition that begins on a record (R150), with its class and that class's mode; the states that hold a present condition
meet none. -/
def beganRecord (m : ClassMode) (cls : FaultClass) (c : Condition) (r : FaultRecord) : FaultRecord :=
  match r.state, m with
  | .latched, .off => { r with present := c }
  | .latched, _ => { r with present := c, seen := true, last := some c }
  | _, .off => { r with present := c }
  | _, .report => ⟨.reporting, c, some c, true, some cls, none⟩
  | _, .latch => ⟨.latched, c, some c, true, some cls, none⟩
  | _, .retrySlow => ⟨.retryWait, c, some c, true, some cls, none⟩
  | _, .retryFast => ⟨.retryWait, c, some c, true, some cls, none⟩

/-- A condition that ends on a record (R152). -/
def endedRecord (now : DeckTime) (r : FaultRecord) : FaultRecord :=
  match r.state with
  | .reporting => { r with present := .none, state := .clear, serviceClass := none, retryStart := none }
  | .retryWait => { r with present := .none, state := .retryTiming, retryStart := some now }
  | .clear => { r with present := .none }
  | .latched => { r with present := .none }
  | .retryTiming => { r with present := .none }

/-- A record named by CLEAR FAULTS (R157). -/
def clearedRecord (r : FaultRecord) : FaultRecord :=
  match r.present, r.state with
  | .none, .latched => { r with state := .clear, serviceClass := none, retryStart := none, seen := false }
  | .none, _ => { r with seen := false }
  | _, _ => r

/-- Some records cleared (R157): each by the rule, every other as it was, their notices and no other, and nothing else of the hub
moved. -/
structure FaultsCleared (named : Fin 71 → Bool) (namedLink : Link → Bool) (link : Option Link) (s t : State) : Prop where
  records : ∀ i, t.faults.get i = if named i = true then clearedRecord (s.faults.get i) else s.faults.get i
  links : ∀ k, t.linkFaults.get k = if namedLink k = true then { s.linkFaults.get k with seen := false } else s.linkFaults.get k
  notices : ∃ cls, (∀ i, clearedUnder i (s.faults.get i) (cls i)) ∧ Raised (clearedNotices cls link s t) s t
  rest : t = { s with faults := t.faults, linkFaults := t.linkFaults, links := t.links }

/-- The line class of a four-level input (R142). -/
def lineClass : Line → FaultClass
  | .pad _ _ => .padLine
  | .platform _ _ => .platformLine
  | _ => .startLine

/-- The stuck class of a pad or button (R143). -/
def stuckClass : Line → FaultClass
  | .pad _ _ => .padStuck
  | _ => .buttonStuck

/-- The condition a fault level is (R142). -/
def levelCondition : Level → Condition
  | .short => .short
  | .opened => .opened
  | .active => .none
  | .idle => .none

/-- A record in CLEAR with the rest of its items. -/
def clearRecord (r : FaultRecord) : FaultRecord := { r with state := .clear, serviceClass := none, retryStart := none }

/-- The table of R159 for a record of the class whose mode is now `m`: `here` says whether the condition of the class is
present, `runOut` whether its retry timer has reached the new retry time. -/
def movedByTable (m : ClassMode) (cls : FaultClass) (here runOut : Bool) (now : DeckTime) (r : FaultRecord) : FaultRecord :=
  match r.state, m with
  | .clear, _ => beganRecord m cls r.present r
  | .reporting, .off => clearRecord r
  | .reporting, .report => r
  | .reporting, .latch => { r with state := .latched }
  | .reporting, _ => { r with state := .retryWait }
  | .latched, .off => clearRecord r
  | .latched, .report => if here then { r with state := .reporting } else clearRecord r
  | .latched, .latch => r
  | .latched, _ => if here then { r with state := .retryWait } else { r with state := .retryTiming, retryStart := some now }
  | .retryWait, .off => clearRecord r
  | .retryWait, .report => { r with state := .reporting }
  | .retryWait, .latch => { r with state := .latched }
  | .retryWait, _ => r
  | .retryTiming, .off => clearRecord r
  | .retryTiming, .report => clearRecord r
  | .retryTiming, .latch => { r with state := .latched, retryStart := none }
  | .retryTiming, _ => if runOut then clearRecord r else r

/-- Whether a record's retry timer has run for the retry time of its class (R153). -/
def retryRunOut (p : Params) (now : DeckTime) (r : FaultRecord) : Bool :=
  match r.state, r.retryStart, r.serviceClass.bind fun c => p.retryTime (p.mode c) with
  | .retryTiming, some t, some limit => decide (limit ≤ elapsed t now)
  | _, _, _ => false

/-- A record that has become CLEAR out of a service class, the condition of another class that it holds judged as a beginning by
that class's mode (R159). -/
def judgedOnClear (p : Params) (i : Fin 71) (cls : FaultClass) (q : FaultRecord) : FaultRecord :=
  if q.present ≠ .none ∧ conditionClass i q.present ≠ cls then
    beganRecord (p.mode (conditionClass i q.present)) (conditionClass i q.present) q.present q
  else q

/-- A record after a new mode of a class (R159): moved by the table when it concerns the class, and one left CLEAR with a
condition of another class judged by that class's mode. -/
def modeWrittenRecord (p : Params) (cls : FaultClass) (i : Fin 71) (now : DeckTime) (r : FaultRecord) : FaultRecord :=
  let here := r.present != .none && conditionClass i r.present == cls
  let q := movedByTable (p.mode cls) cls here (retryRunOut p now r) now r
  if r.serviceClass = some cls ∨ (r.state = .clear ∧ here = true) then
    if r.state ≠ .clear ∧ q.state = .clear then judgedOnClear p i cls q else q
  else r

/-- The level a line's candidate counts as when a deglitch time `p` of `v` units is written: the one it has lasted (R138). -/
def countsAtWrite (p : ParamId) (v : Int) (s : State) (l : Line) : Option Level :=
  (s.decoder l).candidate.bind fun c =>
    if deglitchParam l (s.decoder l).counted c.level = p ∧ v ≤ elapsed c.since s.deckTime then some c.level else none

/-- The FAULT notices of an input whose counted level changes (R142, R143, R155): the end of a reported STUCK condition, which leaves
the record at `m`, then what the line condition does to it, which leaves it at `q` (two notices by log 13). -/
def changeRaised (p : Params) (i : Fin 71) (now : DeckTime) (stuck : Bool) (old new : Condition) (r q : FaultRecord) :
    List Notice :=
  let m := if stuck = true then endedRecord now r else r
  (if stuck = true then faultRaised p i (conditionClass i .stuck) .ends now r m else []) ++
  if old = new then []
  else
    faultRaised p i (conditionClass i .short)
      (if old = .none then .begins else if new = .none then .ends else .kind) now m q

/-- The FAULT notices of an input at the write of a parameter (R138, R143, R153, R155, R159); a mode's names the class written by
log 39. -/
def writeRaised (p : ParamId) (v : Int) (s t : State) (i : Fin 71) : List Notice :=
  let r := s.faults.get i
  let q := t.faults.get i
  let d := s.decoder (lineOfInput i)
  if p = .slowRetry ∨ p = .fastRetry then
    (r.serviceClass.map fun c => faultRaised t.params i c .retryExpiry s.deckTime r q).getD []
  else if p = .stuckTime then faultRaised t.params i (conditionClass i .stuck) .begins s.deckTime r q
  else
    match p.faultClass, countsAtWrite p v s (lineOfInput i) with
    | some c, _ => faultRaised t.params i c .mode s.deckTime r q
    | none, some new =>
      changeRaised t.params i s.deckTime (d.stuck == .expired) (levelCondition d.counted) (levelCondition new) r q
    | none, none => []

/-- What the owners of fault records and decoders do with a new value (R138, R143, R153, R159). -/
structure OwnersFollow (p : ParamId) (v : Int) (s t : State) : Prop where
  modes : ∀ c, p.faultClass = some c →
    ∀ i, t.faults.get i = modeWrittenRecord (s.params.write p v) c i s.deckTime (s.faults.get i)
  retries : ∀ m, (p = .slowRetry ∧ m = .retrySlow) ∨ (p = .fastRetry ∧ m = .retryFast) →
    t.heat = s.heat ∧
    ∀ i,
      (∀ c, (s.faults.get i).serviceClass = some c → s.params.mode c = m →
        retryRunOut (s.params.write p v) s.deckTime (s.faults.get i) = true →
        t.faults.get i = judgedOnClear s.params i c (clearRecord (s.faults.get i))) ∧
      ((s.faults.get i).serviceClass.map s.params.mode ≠ some m ∨
          retryRunOut (s.params.write p v) s.deckTime (s.faults.get i) = false →
        t.faults.get i = s.faults.get i)
  stuck : p = .stuckTime → ∀ l,
    ((s.decoder l).stuck = .running → v ≤ elapsed (s.decoder l).since s.deckTime → l.hasStuckTimer = true →
      t.decoder l = { s.decoder l with stuck := .expired } ∧
        ∀ i, l.input = some i → (s.faults.get i).state ≠ .reporting → (s.faults.get i).state ≠ .retryWait →
          t.faults.get i = beganRecord (s.params.mode (stuckClass l)) (stuckClass l) .stuck (s.faults.get i)) ∧
    ((s.decoder l).stuck ≠ .running ∨ elapsed (s.decoder l).since s.deckTime < v →
      t.decoder l = s.decoder l ∧ ∀ i, l.input = some i → t.faults.get i = s.faults.get i)
  deglitch : p ∈ [.touchDeglitch, .platformDeglitch, .buttonDeglitch, .starterDeglitch, .lineDeglitch] → ∀ l,
    (∀ c, (s.decoder l).candidate = some c → deglitchParam l (s.decoder l).counted c.level = p →
      v ≤ elapsed c.since s.deckTime → t.decoder l = (countedAt l c.level c.since s).decoder l) ∧
    ((∀ c, (s.decoder l).candidate = some c → deglitchParam l (s.decoder l).counted c.level = p →
        elapsed c.since s.deckTime < v) → t.decoder l = s.decoder l)
  others : p.faultClass = none → p ≠ .slowRetry → p ≠ .fastRetry → p ≠ .stuckTime →
    p ∉ [.touchDeglitch, .platformDeglitch, .buttonDeglitch, .starterDeglitch, .lineDeglitch] →
    t.faults = s.faults ∧ t.decoders = s.decoders

/-- A pad that left service for its lane (R67, R77, R78): below N at the expected end of a SWIMMING lane, the NONE entry of
the expected length with SKIPPED_LENGTH, and more of them while the next pad is out of service too; no duration, timing or
reference moves. In every other case the race stays. -/
structure PadLeft (n : LaneNo) (e : End) (t : State) (h g : Heat) : Prop where
  race : g.definition = h.definition ∧ g.phase = h.phase ∧ g.startTime = h.startTime ∧ othersAsBefore n h g
  inferred : ∀ x, (h.lanes.get n).state = .swimming → (h.lanes.get n).expectation = some x → x.finish = e →
    x.length < h.definition.lengths →
    (g.desks.get n).hold.reasons.skippedLength = true ∧ (g.lanes.get n).state = .swimming ∧
    (g.lanes.get n).timing = (h.lanes.get n).timing ∧ (g.lanes.get n).pendingTiming = (h.lanes.get n).pendingTiming ∧
    (g.lanes.get n).d1 = (h.lanes.get n).d1 ∧ (g.lanes.get n).d2 = (h.lanes.get n).d2 ∧
    (g.lanes.get n).rejected = (h.lanes.get n).rejected ∧
    (∃ more, (g.lanes.get n).splits =
        (h.lanes.get n).splits ++ ⟨x.length, h.definition.endOf x.length, h.definition.legOf x.length, none, .none⟩ :: more ∧
      ∀ q ∈ more, q.source = .none ∧ q.time = none) ∧
    (t.inService (padInput n (h.definition.endOf (x.length + 1))) = true ∨ h.definition.lengths ≤ x.length + 1 →
      (g.lanes.get n).splits =
        (h.lanes.get n).splits ++ [⟨x.length, h.definition.endOf x.length, h.definition.legOf x.length, none, .none⟩] ∧
      (g.lanes.get n).leg = some (h.definition.legOf (x.length + 1)) ∧
      (g.lanes.get n).expectation =
        some ⟨x.length + 1, h.definition.endOf (x.length + 1), x.reference,
          x.reference +
            (x.length + 1 - lastTimedLength (h.lanes.get n).splits) * offsetByTable h.definition (h.lanes.get n)⟩)
  stays : ((h.lanes.get n).state ≠ .swimming ∨
      ∀ x, (h.lanes.get n).expectation = some x → x.finish ≠ e ∨ h.definition.lengths ≤ x.length) → g = h

/-- A platform that left service for its lane (R104, R108, R113): an armed reaction record after the start takes UNMEASURED
and its arming ends; an exchange record armed and without takeoff is UNJUDGED, PLATFORM_SERVICE, with its reason. In every other
case, in MARKS by log 31, the race stays. -/
structure PlatformLeft (n : LaneNo) (e : End) (h g : Heat) : Prop where
  race : g.definition = h.definition ∧ g.phase = h.phase ∧ g.startTime = h.startTime ∧ othersAsBefore n h g
  reaction : ∀ r, (h.lanes.get n).state = .swimming → e = h.definition.startEnd → (h.lanes.get n).reaction = some r →
    r.armed = true →
    g.lanes.get n = { h.lanes.get n with reaction := some { r with unmeasured := true, armed := false } } ∧
    g.desks.get n = h.desks.get n
  exchange : ∀ before x after, (h.lanes.get n).state = .swimming ∨ (h.lanes.get n).state = .collect →
    e ≠ h.definition.startEnd ∨ (∀ r, (h.lanes.get n).reaction = some r → r.armed = false) →
    (h.lanes.get n).exchanges = before ++ x :: after → x.finish = e → x.arming ≠ none → x.release = none →
    x.verdict = .pending → (∀ y ∈ before, y.finish ≠ e ∨ y.armed = false) → (∀ y ∈ before ++ after, y.leg ≠ x.leg) →
    g.lanes.get n =
      { h.lanes.get n with exchanges := before ++ { x with verdict := .unjudged .platformService } :: after } ∧
    (g.desks.get n).hold.reasons.exchangeUnjudged = true
  stays : (h.lanes.get n).unfinished = false ∨
      ((∀ y ∈ (h.lanes.get n).exchanges, y.finish ≠ e ∨ y.armed = false) ∧
        ((h.lanes.get n).state ≠ .swimming ∨ e ≠ h.definition.startEnd ∨
          ∀ r, (h.lanes.get n).reaction = some r → r.armed = false)) → g = h

/-- What a change of an input's service in one event does to the race (R160): a pad or platform that left service is handed to
its lane; a return, a button and START change nothing. -/
def ServiceHanded (l : Line) (i : Fin 71) (s t : State) : Prop :=
  (s.inService i = false ∨ t.inService i = true → t.heat = s.heat) ∧
  (s.inService i = true → t.inService i = false →
    match l with
    | .pad e n => ∀ h, s.heat = some h → ∃ g, t.heat = some g ∧ PadLeft n e t h g
    | .platform e n => ∀ h, s.heat = some h → ∃ g, t.heat = some g ∧ PlatformLeft n e h g
    | _ => t.heat = s.heat)

/-- Whether CLEAR FAULTS or READ FAULTS names an input: its number, or ALL (R156, R157, R190). -/
def namesInput (b : Byte) (i : Fin 71) : Bool := b == 0xFF || b.toNat == i.val

/-- Whether it names a link: 71 to 73, or ALL. -/
def namesLink (b : Byte) (l : Link) : Bool := b == 0xFF || b.toNat == 71 + l.code

/-! ## Invariants -/

/-- How many answers to taken requests wait in a queue (R178). -/
def takenCount (as : List Answer) : Nat := as.countP fun a => a.result != .busy

/-- Whether the frame in flight answers a taken request (R178). -/
def Clu.answering (c : Clu) : Nat := if c.flight.any fun f => f.frame.answersTaken then 1 else 0

/-- The bounds of a link (R178, R182): the count of taken requests unanswered is the answers to them that wait or are in
flight, at most four; at most four BUSY refusals and at most 32 notices wait. -/
def Clu.fits (c : Clu) : Prop :=
  c.unanswered = takenCount c.answers + c.answering ∧ c.unanswered ≤ 4 ∧ busyCount c.answers ≤ 4 ∧
    c.notices.length ≤ 32

/-- Every link within its bounds. -/
def LinksFit (s : State) : Prop := ∀ l, (s.links.get l).fits

/-- The board's pending work within its bounds: at most four event items, each lane waiting at most once (R164, R166). -/
def BoardFits (s : State) : Prop := s.board.events.length ≤ 4 ∧ s.board.laneQueue.Nodup

/-- The heat IDs queued and current. -/
def State.heatIds (s : State) : List HeatId := s.currentId.toList ++ s.queue.map fun e => e.definition.id

/-- At most four definitions queued, and no heat ID twice among them and the current race (R11). -/
def QueueFits (s : State) : Prop := s.queue.length ≤ 4 ∧ s.heatIds.Nodup

/-- Nothing a QUIET link transmitter could send waits (R180). -/
def Clu.settled (c : Clu) : Prop := c.flight = none → c.answers = [] ∧ c.notices = []

/-- Nothing a QUIET board transmitter could send waits (R162, R163). -/
def boardSettled (s : State) : Prop :=
  s.board.flight = none →
    s.board.events = [] ∧ s.board.idleDue = false ∧
      (s.heat.isSome = true → s.board.headerPending = false ∧ s.board.clockGoes = false ∧ s.board.laneQueue = [])

/-- In a running hub no transmitter is QUIET while it has work (R162, R180). -/
def Settled (s : State) : Prop := s.phase = .running → (∀ l, (s.links.get l).settled) ∧ boardSettled s

/-- A running decoder (R135, R143): its candidate is the sensed level exactly while that differs from the counted level, its
stuck timer is stopped exactly while the counted level is not ACTIVE or the line has none, and a two-level line counts no
SHORT and no OPEN. -/
structure Decoder.shaped (l : Line) (d : Decoder) : Prop where
  candidate : d.candidate.map Candidate.level = if d.sensed = d.counted then none else some d.sensed
  stuck : d.stuck = .stopped ↔ ¬ (d.counted = .active ∧ l.hasStuckTimer = true)
  band : l.fourLevel = false → d.counted.isFault = false

/-- Every decoder follows its line; a two-level line never shows SHORT or OPEN (8.2, R135). -/
def DecodersShaped (s : State) : Prop :=
  ∀ l, (l.fourLevel = false → (s.decoder l).sensed.isFault = false) ∧ (s.phase = .running → (s.decoder l).shaped l)

/-- In reset and start-up nothing stands that a reset clears (R174, R187). -/
def ResetStands (s : State) : Prop := s.phase ≠ .running → ResetTo s.params (fun l => (s.links.get l).mask) s s

/-- The lane states a race phase allows (R21); a READY lane in RUNNING exists only within the start's own event (R45). -/
def RacePhase.admits : RacePhase → LaneState → Bool
  | .loaded, st => st == .vacant || st == .ready
  | .marks, st => st == .vacant || st == .ready
  | .running, st => st != .ready
  | .review, st => st == .vacant || st == .finished || st == .released
  | .final, st => st == .vacant || st == .released

/-- What a lane record holds in its state (R42): an expectation in SWIMMING alone, a collection in COLLECT alone, a result
core in FINISHED and RELEASED alone, a current leg in every state but VACANT, pending timing in SWIMMING at most; at most
eight rejected entries (R59). -/
structure Lane.shaped (l : Lane) : Prop where
  expectation : l.expectation.isSome = true ↔ l.state = .swimming
  collection : l.collection.isSome = true ↔ l.state = .collect
  result : l.result.isSome = true ↔ l.state = .finished ∨ l.state = .released
  leg : l.leg.isSome = true ↔ l.state ≠ .vacant
  pending : l.pendingTiming.isSome = true → l.state = .swimming
  rejected : l.rejected.length ≤ 8

/-- Whether a race has left RUNNING forward. -/
def RacePhase.past : RacePhase → Bool
  | .review => true
  | .final => true
  | .loaded => false
  | .marks => false
  | .running => false

/-- Whether a race has been started and not recalled. -/
def RacePhase.started : RacePhase → Bool
  | .running => true
  | .review => true
  | .final => true
  | .loaded => false
  | .marks => false

/-- The fixed relation of race, lanes and hold sets (R19, R20, R21, R42, R119). -/
structure Heat.shaped (h : Heat) : Prop where
  lanes : ∀ n, (h.lanes.get n).shaped
  admits : ∀ n, h.phase.admits (h.lanes.get n).state = true
  final : h.phase = .final ↔ h.phase.past = true ∧ h.lanesWhere Lane.unreleased = []
  start : h.startTime.isSome = true ↔ h.phase.started = true
  stop : h.stopTime.isSome = true ↔ h.phase.past = true
  released : ∀ n, (h.lanes.get n).state = .released → (h.desks.get n).hold.isEmpty = true

/-- The current race, where there is one, keeps its relation. -/
def RaceShaped (s : State) : Prop := ∀ h, s.heat = some h → h.shaped

/-- The hundredths of a lane that has a place: outcome TIME and no DQ mark (R100). -/
def Heat.placed (h : Heat) (n : LaneNo) : Option Nat :=
  match (h.desks.get n).dq, (h.lanes.get n).result with
  | none, some (.time t _ _ _) => some (t / 100)
  | _, _ => none

/-- R100: the placing list holds the lanes with a place, once each, by hundredths and then lane number; a place is one plus the
number of lanes with fewer hundredths; every other lane has none. -/
structure Heat.ranked (h : Heat) : Prop where
  members : ∀ n, n ∈ h.placing ↔ (h.placed n).isSome = true
  nodup : h.placing.Nodup
  ordered : h.placing.Pairwise fun m n =>
    (h.placed m).getD 0 < (h.placed n).getD 0 ∨ ((h.placed m).getD 0 = (h.placed n).getD 0 ∧ m < n)
  places : ∀ n, (h.desks.get n).place =
    (h.placed n).map fun t => 1 + allLanes.countP fun m => (h.placed m).any fun u => decide (u < t)

/-- The current race, where there is one, is ranked by R100. -/
def Placed (s : State) : Prop := ∀ h, s.heat = some h → h.ranked

end Sys2Proof.Machine
end

