-- ==== Sys2Proof/Laws/State.lean ====
section
/-! SUPPORT. One lemma per field per update of the state, and the places of vectors and of the three links. -/

namespace Sys2Proof

/-- The place updated. -/
@[simp] theorem updAt_get_self {α : Type} {n : Nat} (v : Vector α n) (i : Fin n) (f : α → α) :
    (updAt v i f).get i = f (v.get i) := by
  show (v.set i.val (f (v.get i)) i.isLt)[i.val] = _
  simp

/-- Every other place. -/
theorem updAt_get_ne {α : Type} {n : Nat} (v : Vector α n) (i j : Fin n) (f : α → α) (h : j ≠ i) :
    (updAt v i f).get j = v.get j := by
  have hv : i.val ≠ j.val := fun e => h (Fin.ext e.symm)
  show (v.set i.val (f (v.get i)) i.isLt)[j.val] = v[j.val]
  simp [hv]

theorem updAt_get {α : Type} {n : Nat} (v : Vector α n) (i j : Fin n) (f : α → α) :
    (updAt v i f).get j = if j = i then f (v.get i) else v.get j := by
  by_cases h : j = i
  · subst h
    simp
  · simp [h, updAt_get_ne]

/-- Two updates that agree on the place. -/
theorem updAt_congr {α : Type} {n : Nat} (v : Vector α n) (i : Fin n) (f g : α → α) (h : f (v.get i) = g (v.get i)) :
    updAt v i f = updAt v i g := by
  simp only [updAt, h]

/-- An update that changes nothing at its place. -/
theorem updAt_same {α : Type} {n : Nat} (v : Vector α n) (i : Fin n) (f : α → α) (h : f (v.get i) = v.get i) :
    updAt v i f = v := by
  simp only [updAt, h]
  exact Vector.set_getElem_self i.isLt

end Sys2Proof

namespace Sys2Proof.Machine

open Sys2Proof

/-! ## The three links -/

@[simp] theorem PerLink.get_put_self {α : Type} (p : PerLink α) (l : Link) (v : α) : (p.put l v).get l = v := by
  cases l <;> rfl

theorem PerLink.get_put {α : Type} (p : PerLink α) (l m : Link) (v : α) :
    (p.put l v).get m = if m = l then v else p.get m := by
  cases l <;> cases m <;> rfl

@[simp] theorem PerLink.get_map {α β : Type} (p : PerLink α) (f : α → β) (l : Link) : (p.map f).get l = f (p.get l) := by
  cases l <;> rfl

/-! ## Updates of the state -/

@[simp] theorem State.modHeat_phase (s : State) (f : Heat → Heat) : (s.modHeat f).phase = s.phase := rfl
@[simp] theorem State.modHeat_deckTime (s : State) (f : Heat → Heat) : (s.modHeat f).deckTime = s.deckTime := rfl
@[simp] theorem State.modHeat_resetn (s : State) (f : Heat → Heat) : (s.modHeat f).resetn = s.resetn := rfl
@[simp] theorem State.modHeat_resetPending (s : State) (f : Heat → Heat) : (s.modHeat f).resetPending = s.resetPending := rfl
@[simp] theorem State.modHeat_params (s : State) (f : Heat → Heat) : (s.modHeat f).params = s.params := rfl
@[simp] theorem State.modHeat_queue (s : State) (f : Heat → Heat) : (s.modHeat f).queue = s.queue := rfl
@[simp] theorem State.modHeat_heat (s : State) (f : Heat → Heat) : (s.modHeat f).heat = s.heat.map f := rfl
@[simp] theorem State.modHeat_decoders (s : State) (f : Heat → Heat) : (s.modHeat f).decoders = s.decoders := rfl
@[simp] theorem State.modHeat_faults (s : State) (f : Heat → Heat) : (s.modHeat f).faults = s.faults := rfl
@[simp] theorem State.modHeat_linkFaults (s : State) (f : Heat → Heat) : (s.modHeat f).linkFaults = s.linkFaults := rfl
@[simp] theorem State.modHeat_board (s : State) (f : Heat → Heat) : (s.modHeat f).board = s.board := rfl
@[simp] theorem State.modHeat_links (s : State) (f : Heat → Heat) : (s.modHeat f).links = s.links := rfl
@[simp] theorem State.modHeat_choices (s : State) (f : Heat → Heat) : (s.modHeat f).choices = s.choices := rfl
@[simp] theorem State.modHeat_pending (s : State) (f : Heat → Heat) : (s.modHeat f).pending = s.pending := rfl

@[simp] theorem State.modLane_phase (s : State) (n : LaneNo) (f : Lane → Lane) : (s.modLane n f).phase = s.phase := rfl
@[simp] theorem State.modLane_deckTime (s : State) (n : LaneNo) (f : Lane → Lane) : (s.modLane n f).deckTime = s.deckTime := rfl
@[simp] theorem State.modLane_resetn (s : State) (n : LaneNo) (f : Lane → Lane) : (s.modLane n f).resetn = s.resetn := rfl
@[simp] theorem State.modLane_resetPending (s : State) (n : LaneNo) (f : Lane → Lane) : (s.modLane n f).resetPending = s.resetPending := rfl
@[simp] theorem State.modLane_params (s : State) (n : LaneNo) (f : Lane → Lane) : (s.modLane n f).params = s.params := rfl
@[simp] theorem State.modLane_queue (s : State) (n : LaneNo) (f : Lane → Lane) : (s.modLane n f).queue = s.queue := rfl
@[simp] theorem State.modLane_heat (s : State) (n : LaneNo) (f : Lane → Lane) : (s.modLane n f).heat = s.heat.map fun h => h.modLane n f := rfl
@[simp] theorem State.modLane_decoders (s : State) (n : LaneNo) (f : Lane → Lane) : (s.modLane n f).decoders = s.decoders := rfl
@[simp] theorem State.modLane_faults (s : State) (n : LaneNo) (f : Lane → Lane) : (s.modLane n f).faults = s.faults := rfl
@[simp] theorem State.modLane_linkFaults (s : State) (n : LaneNo) (f : Lane → Lane) : (s.modLane n f).linkFaults = s.linkFaults := rfl
@[simp] theorem State.modLane_board (s : State) (n : LaneNo) (f : Lane → Lane) : (s.modLane n f).board = s.board := rfl
@[simp] theorem State.modLane_links (s : State) (n : LaneNo) (f : Lane → Lane) : (s.modLane n f).links = s.links := rfl
@[simp] theorem State.modLane_choices (s : State) (n : LaneNo) (f : Lane → Lane) : (s.modLane n f).choices = s.choices := rfl
@[simp] theorem State.modLane_pending (s : State) (n : LaneNo) (f : Lane → Lane) : (s.modLane n f).pending = s.pending := rfl

@[simp] theorem State.modDesk_phase (s : State) (n : LaneNo) (f : Desk → Desk) : (s.modDesk n f).phase = s.phase := rfl
@[simp] theorem State.modDesk_deckTime (s : State) (n : LaneNo) (f : Desk → Desk) : (s.modDesk n f).deckTime = s.deckTime := rfl
@[simp] theorem State.modDesk_resetn (s : State) (n : LaneNo) (f : Desk → Desk) : (s.modDesk n f).resetn = s.resetn := rfl
@[simp] theorem State.modDesk_resetPending (s : State) (n : LaneNo) (f : Desk → Desk) : (s.modDesk n f).resetPending = s.resetPending := rfl
@[simp] theorem State.modDesk_params (s : State) (n : LaneNo) (f : Desk → Desk) : (s.modDesk n f).params = s.params := rfl
@[simp] theorem State.modDesk_queue (s : State) (n : LaneNo) (f : Desk → Desk) : (s.modDesk n f).queue = s.queue := rfl
@[simp] theorem State.modDesk_heat (s : State) (n : LaneNo) (f : Desk → Desk) : (s.modDesk n f).heat = s.heat.map fun h => h.modDesk n f := rfl
@[simp] theorem State.modDesk_decoders (s : State) (n : LaneNo) (f : Desk → Desk) : (s.modDesk n f).decoders = s.decoders := rfl
@[simp] theorem State.modDesk_faults (s : State) (n : LaneNo) (f : Desk → Desk) : (s.modDesk n f).faults = s.faults := rfl
@[simp] theorem State.modDesk_linkFaults (s : State) (n : LaneNo) (f : Desk → Desk) : (s.modDesk n f).linkFaults = s.linkFaults := rfl
@[simp] theorem State.modDesk_board (s : State) (n : LaneNo) (f : Desk → Desk) : (s.modDesk n f).board = s.board := rfl
@[simp] theorem State.modDesk_links (s : State) (n : LaneNo) (f : Desk → Desk) : (s.modDesk n f).links = s.links := rfl
@[simp] theorem State.modDesk_choices (s : State) (n : LaneNo) (f : Desk → Desk) : (s.modDesk n f).choices = s.choices := rfl
@[simp] theorem State.modDesk_pending (s : State) (n : LaneNo) (f : Desk → Desk) : (s.modDesk n f).pending = s.pending := rfl

@[simp] theorem State.modExchange_phase (s : State) (n : LaneNo) (g : Nat) (f : Exchange → Exchange) : (s.modExchange n g f).phase = s.phase := rfl
@[simp] theorem State.modExchange_deckTime (s : State) (n : LaneNo) (g : Nat) (f : Exchange → Exchange) : (s.modExchange n g f).deckTime = s.deckTime := rfl
@[simp] theorem State.modExchange_resetn (s : State) (n : LaneNo) (g : Nat) (f : Exchange → Exchange) : (s.modExchange n g f).resetn = s.resetn := rfl
@[simp] theorem State.modExchange_resetPending (s : State) (n : LaneNo) (g : Nat) (f : Exchange → Exchange) : (s.modExchange n g f).resetPending = s.resetPending := rfl
@[simp] theorem State.modExchange_params (s : State) (n : LaneNo) (g : Nat) (f : Exchange → Exchange) : (s.modExchange n g f).params = s.params := rfl
@[simp] theorem State.modExchange_queue (s : State) (n : LaneNo) (g : Nat) (f : Exchange → Exchange) : (s.modExchange n g f).queue = s.queue := rfl
@[simp] theorem State.modExchange_decoders (s : State) (n : LaneNo) (g : Nat) (f : Exchange → Exchange) : (s.modExchange n g f).decoders = s.decoders := rfl
@[simp] theorem State.modExchange_faults (s : State) (n : LaneNo) (g : Nat) (f : Exchange → Exchange) : (s.modExchange n g f).faults = s.faults := rfl
@[simp] theorem State.modExchange_linkFaults (s : State) (n : LaneNo) (g : Nat) (f : Exchange → Exchange) : (s.modExchange n g f).linkFaults = s.linkFaults := rfl
@[simp] theorem State.modExchange_board (s : State) (n : LaneNo) (g : Nat) (f : Exchange → Exchange) : (s.modExchange n g f).board = s.board := rfl
@[simp] theorem State.modExchange_links (s : State) (n : LaneNo) (g : Nat) (f : Exchange → Exchange) : (s.modExchange n g f).links = s.links := rfl
@[simp] theorem State.modExchange_choices (s : State) (n : LaneNo) (g : Nat) (f : Exchange → Exchange) : (s.modExchange n g f).choices = s.choices := rfl
@[simp] theorem State.modExchange_pending (s : State) (n : LaneNo) (g : Nat) (f : Exchange → Exchange) : (s.modExchange n g f).pending = s.pending := rfl

@[simp] theorem State.modBoard_phase (s : State) (f : Board → Board) : (s.modBoard f).phase = s.phase := rfl
@[simp] theorem State.modBoard_deckTime (s : State) (f : Board → Board) : (s.modBoard f).deckTime = s.deckTime := rfl
@[simp] theorem State.modBoard_resetn (s : State) (f : Board → Board) : (s.modBoard f).resetn = s.resetn := rfl
@[simp] theorem State.modBoard_resetPending (s : State) (f : Board → Board) : (s.modBoard f).resetPending = s.resetPending := rfl
@[simp] theorem State.modBoard_params (s : State) (f : Board → Board) : (s.modBoard f).params = s.params := rfl
@[simp] theorem State.modBoard_queue (s : State) (f : Board → Board) : (s.modBoard f).queue = s.queue := rfl
@[simp] theorem State.modBoard_heat (s : State) (f : Board → Board) : (s.modBoard f).heat = s.heat := rfl
@[simp] theorem State.modBoard_decoders (s : State) (f : Board → Board) : (s.modBoard f).decoders = s.decoders := rfl
@[simp] theorem State.modBoard_faults (s : State) (f : Board → Board) : (s.modBoard f).faults = s.faults := rfl
@[simp] theorem State.modBoard_linkFaults (s : State) (f : Board → Board) : (s.modBoard f).linkFaults = s.linkFaults := rfl
@[simp] theorem State.modBoard_board (s : State) (f : Board → Board) : (s.modBoard f).board = f s.board := rfl
@[simp] theorem State.modBoard_links (s : State) (f : Board → Board) : (s.modBoard f).links = s.links := rfl
@[simp] theorem State.modBoard_choices (s : State) (f : Board → Board) : (s.modBoard f).choices = s.choices := rfl
@[simp] theorem State.modBoard_pending (s : State) (f : Board → Board) : (s.modBoard f).pending = s.pending := rfl

@[simp] theorem State.modLink_phase (s : State) (l : Link) (f : Clu → Clu) : (s.modLink l f).phase = s.phase := rfl
@[simp] theorem State.modLink_deckTime (s : State) (l : Link) (f : Clu → Clu) : (s.modLink l f).deckTime = s.deckTime := rfl
@[simp] theorem State.modLink_resetn (s : State) (l : Link) (f : Clu → Clu) : (s.modLink l f).resetn = s.resetn := rfl
@[simp] theorem State.modLink_resetPending (s : State) (l : Link) (f : Clu → Clu) : (s.modLink l f).resetPending = s.resetPending := rfl
@[simp] theorem State.modLink_params (s : State) (l : Link) (f : Clu → Clu) : (s.modLink l f).params = s.params := rfl
@[simp] theorem State.modLink_queue (s : State) (l : Link) (f : Clu → Clu) : (s.modLink l f).queue = s.queue := rfl
@[simp] theorem State.modLink_heat (s : State) (l : Link) (f : Clu → Clu) : (s.modLink l f).heat = s.heat := rfl
@[simp] theorem State.modLink_decoders (s : State) (l : Link) (f : Clu → Clu) : (s.modLink l f).decoders = s.decoders := rfl
@[simp] theorem State.modLink_faults (s : State) (l : Link) (f : Clu → Clu) : (s.modLink l f).faults = s.faults := rfl
@[simp] theorem State.modLink_linkFaults (s : State) (l : Link) (f : Clu → Clu) : (s.modLink l f).linkFaults = s.linkFaults := rfl
@[simp] theorem State.modLink_board (s : State) (l : Link) (f : Clu → Clu) : (s.modLink l f).board = s.board := rfl
@[simp] theorem State.modLink_links (s : State) (l : Link) (f : Clu → Clu) : (s.modLink l f).links = s.links.put l (f (s.links.get l)) := rfl
@[simp] theorem State.modLink_choices (s : State) (l : Link) (f : Clu → Clu) : (s.modLink l f).choices = s.choices := rfl
@[simp] theorem State.modLink_pending (s : State) (l : Link) (f : Clu → Clu) : (s.modLink l f).pending = s.pending := rfl

@[simp] theorem State.modDecoder_phase (s : State) (l : Line) (f : Decoder → Decoder) : (s.modDecoder l f).phase = s.phase := rfl
@[simp] theorem State.modDecoder_deckTime (s : State) (l : Line) (f : Decoder → Decoder) : (s.modDecoder l f).deckTime = s.deckTime := rfl
@[simp] theorem State.modDecoder_resetn (s : State) (l : Line) (f : Decoder → Decoder) : (s.modDecoder l f).resetn = s.resetn := rfl
@[simp] theorem State.modDecoder_resetPending (s : State) (l : Line) (f : Decoder → Decoder) : (s.modDecoder l f).resetPending = s.resetPending := rfl
@[simp] theorem State.modDecoder_params (s : State) (l : Line) (f : Decoder → Decoder) : (s.modDecoder l f).params = s.params := rfl
@[simp] theorem State.modDecoder_queue (s : State) (l : Line) (f : Decoder → Decoder) : (s.modDecoder l f).queue = s.queue := rfl
@[simp] theorem State.modDecoder_heat (s : State) (l : Line) (f : Decoder → Decoder) : (s.modDecoder l f).heat = s.heat := rfl
@[simp] theorem State.modDecoder_decoders (s : State) (l : Line) (f : Decoder → Decoder) : (s.modDecoder l f).decoders = updAt s.decoders l.index f := rfl
@[simp] theorem State.modDecoder_faults (s : State) (l : Line) (f : Decoder → Decoder) : (s.modDecoder l f).faults = s.faults := rfl
@[simp] theorem State.modDecoder_linkFaults (s : State) (l : Line) (f : Decoder → Decoder) : (s.modDecoder l f).linkFaults = s.linkFaults := rfl
@[simp] theorem State.modDecoder_board (s : State) (l : Line) (f : Decoder → Decoder) : (s.modDecoder l f).board = s.board := rfl
@[simp] theorem State.modDecoder_links (s : State) (l : Line) (f : Decoder → Decoder) : (s.modDecoder l f).links = s.links := rfl
@[simp] theorem State.modDecoder_choices (s : State) (l : Line) (f : Decoder → Decoder) : (s.modDecoder l f).choices = s.choices := rfl
@[simp] theorem State.modDecoder_pending (s : State) (l : Line) (f : Decoder → Decoder) : (s.modDecoder l f).pending = s.pending := rfl

@[simp] theorem raise_phase (n : Notice) (s : State) : (raise n s).phase = s.phase := rfl
@[simp] theorem raise_deckTime (n : Notice) (s : State) : (raise n s).deckTime = s.deckTime := rfl
@[simp] theorem raise_resetn (n : Notice) (s : State) : (raise n s).resetn = s.resetn := rfl
@[simp] theorem raise_resetPending (n : Notice) (s : State) : (raise n s).resetPending = s.resetPending := rfl
@[simp] theorem raise_params (n : Notice) (s : State) : (raise n s).params = s.params := rfl
@[simp] theorem raise_queue (n : Notice) (s : State) : (raise n s).queue = s.queue := rfl
@[simp] theorem raise_heat (n : Notice) (s : State) : (raise n s).heat = s.heat := rfl
@[simp] theorem raise_decoders (n : Notice) (s : State) : (raise n s).decoders = s.decoders := rfl
@[simp] theorem raise_faults (n : Notice) (s : State) : (raise n s).faults = s.faults := rfl
@[simp] theorem raise_linkFaults (n : Notice) (s : State) : (raise n s).linkFaults = s.linkFaults := rfl
@[simp] theorem raise_board (n : Notice) (s : State) : (raise n s).board = s.board := rfl
@[simp] theorem raise_links (n : Notice) (s : State) : (raise n s).links = s.links.map (Clu.offer n) := rfl
@[simp] theorem raise_choices (n : Notice) (s : State) : (raise n s).choices = s.choices := rfl
@[simp] theorem raise_pending (n : Notice) (s : State) : (raise n s).pending = s.pending := rfl

@[simp] theorem queueLane_phase (n : LaneNo) (s : State) : (queueLane n s).phase = s.phase := rfl
@[simp] theorem queueLane_deckTime (n : LaneNo) (s : State) : (queueLane n s).deckTime = s.deckTime := rfl
@[simp] theorem queueLane_resetn (n : LaneNo) (s : State) : (queueLane n s).resetn = s.resetn := rfl
@[simp] theorem queueLane_resetPending (n : LaneNo) (s : State) : (queueLane n s).resetPending = s.resetPending := rfl
@[simp] theorem queueLane_params (n : LaneNo) (s : State) : (queueLane n s).params = s.params := rfl
@[simp] theorem queueLane_queue (n : LaneNo) (s : State) : (queueLane n s).queue = s.queue := rfl
@[simp] theorem queueLane_heat (n : LaneNo) (s : State) : (queueLane n s).heat = s.heat := rfl
@[simp] theorem queueLane_decoders (n : LaneNo) (s : State) : (queueLane n s).decoders = s.decoders := rfl
@[simp] theorem queueLane_faults (n : LaneNo) (s : State) : (queueLane n s).faults = s.faults := rfl
@[simp] theorem queueLane_linkFaults (n : LaneNo) (s : State) : (queueLane n s).linkFaults = s.linkFaults := rfl
@[simp] theorem queueLane_board (n : LaneNo) (s : State) : (queueLane n s).board = s.board.queueLane n := rfl
@[simp] theorem queueLane_links (n : LaneNo) (s : State) : (queueLane n s).links = s.links := rfl
@[simp] theorem queueLane_choices (n : LaneNo) (s : State) : (queueLane n s).choices = s.choices := rfl
@[simp] theorem queueLane_pending (n : LaneNo) (s : State) : (queueLane n s).pending = s.pending := rfl

@[simp] theorem queueEvent_phase (i : EventItem) (s : State) : (queueEvent i s).phase = s.phase := rfl
@[simp] theorem queueEvent_deckTime (i : EventItem) (s : State) : (queueEvent i s).deckTime = s.deckTime := rfl
@[simp] theorem queueEvent_resetn (i : EventItem) (s : State) : (queueEvent i s).resetn = s.resetn := rfl
@[simp] theorem queueEvent_resetPending (i : EventItem) (s : State) : (queueEvent i s).resetPending = s.resetPending := rfl
@[simp] theorem queueEvent_params (i : EventItem) (s : State) : (queueEvent i s).params = s.params := rfl
@[simp] theorem queueEvent_queue (i : EventItem) (s : State) : (queueEvent i s).queue = s.queue := rfl
@[simp] theorem queueEvent_heat (i : EventItem) (s : State) : (queueEvent i s).heat = s.heat := rfl
@[simp] theorem queueEvent_decoders (i : EventItem) (s : State) : (queueEvent i s).decoders = s.decoders := rfl
@[simp] theorem queueEvent_faults (i : EventItem) (s : State) : (queueEvent i s).faults = s.faults := rfl
@[simp] theorem queueEvent_linkFaults (i : EventItem) (s : State) : (queueEvent i s).linkFaults = s.linkFaults := rfl
@[simp] theorem queueEvent_board (i : EventItem) (s : State) : (queueEvent i s).board = s.board.queueEvent i := rfl
@[simp] theorem queueEvent_links (i : EventItem) (s : State) : (queueEvent i s).links = s.links := rfl
@[simp] theorem queueEvent_choices (i : EventItem) (s : State) : (queueEvent i s).choices = s.choices := rfl
@[simp] theorem queueEvent_pending (i : EventItem) (s : State) : (queueEvent i s).pending = s.pending := rfl

@[simp] theorem owesHeader_phase (s : State) : (owesHeader s).phase = s.phase := rfl
@[simp] theorem owesHeader_deckTime (s : State) : (owesHeader s).deckTime = s.deckTime := rfl
@[simp] theorem owesHeader_resetn (s : State) : (owesHeader s).resetn = s.resetn := rfl
@[simp] theorem owesHeader_resetPending (s : State) : (owesHeader s).resetPending = s.resetPending := rfl
@[simp] theorem owesHeader_params (s : State) : (owesHeader s).params = s.params := rfl
@[simp] theorem owesHeader_queue (s : State) : (owesHeader s).queue = s.queue := rfl
@[simp] theorem owesHeader_heat (s : State) : (owesHeader s).heat = s.heat := rfl
@[simp] theorem owesHeader_decoders (s : State) : (owesHeader s).decoders = s.decoders := rfl
@[simp] theorem owesHeader_faults (s : State) : (owesHeader s).faults = s.faults := rfl
@[simp] theorem owesHeader_linkFaults (s : State) : (owesHeader s).linkFaults = s.linkFaults := rfl
@[simp] theorem owesHeader_links (s : State) : (owesHeader s).links = s.links := rfl
@[simp] theorem owesHeader_choices (s : State) : (owesHeader s).choices = s.choices := rfl
@[simp] theorem owesHeader_pending (s : State) : (owesHeader s).pending = s.pending := rfl

@[simp] theorem pushAnswer_phase (l : Link) (a : Answer) (s : State) : (pushAnswer l a s).phase = s.phase := rfl
@[simp] theorem pushAnswer_deckTime (l : Link) (a : Answer) (s : State) : (pushAnswer l a s).deckTime = s.deckTime := rfl
@[simp] theorem pushAnswer_resetn (l : Link) (a : Answer) (s : State) : (pushAnswer l a s).resetn = s.resetn := rfl
@[simp] theorem pushAnswer_resetPending (l : Link) (a : Answer) (s : State) : (pushAnswer l a s).resetPending = s.resetPending := rfl
@[simp] theorem pushAnswer_params (l : Link) (a : Answer) (s : State) : (pushAnswer l a s).params = s.params := rfl
@[simp] theorem pushAnswer_queue (l : Link) (a : Answer) (s : State) : (pushAnswer l a s).queue = s.queue := rfl
@[simp] theorem pushAnswer_heat (l : Link) (a : Answer) (s : State) : (pushAnswer l a s).heat = s.heat := rfl
@[simp] theorem pushAnswer_decoders (l : Link) (a : Answer) (s : State) : (pushAnswer l a s).decoders = s.decoders := rfl
@[simp] theorem pushAnswer_faults (l : Link) (a : Answer) (s : State) : (pushAnswer l a s).faults = s.faults := rfl
@[simp] theorem pushAnswer_linkFaults (l : Link) (a : Answer) (s : State) : (pushAnswer l a s).linkFaults = s.linkFaults := rfl
@[simp] theorem pushAnswer_board (l : Link) (a : Answer) (s : State) : (pushAnswer l a s).board = s.board := rfl
@[simp] theorem pushAnswer_choices (l : Link) (a : Answer) (s : State) : (pushAnswer l a s).choices = s.choices := rfl
@[simp] theorem pushAnswer_pending (l : Link) (a : Answer) (s : State) : (pushAnswer l a s).pending = s.pending := rfl

@[simp] theorem counted_phase (l : Link) (s : State) : (counted l s).phase = s.phase := rfl
@[simp] theorem counted_deckTime (l : Link) (s : State) : (counted l s).deckTime = s.deckTime := rfl
@[simp] theorem counted_resetn (l : Link) (s : State) : (counted l s).resetn = s.resetn := rfl
@[simp] theorem counted_resetPending (l : Link) (s : State) : (counted l s).resetPending = s.resetPending := rfl
@[simp] theorem counted_params (l : Link) (s : State) : (counted l s).params = s.params := rfl
@[simp] theorem counted_queue (l : Link) (s : State) : (counted l s).queue = s.queue := rfl
@[simp] theorem counted_heat (l : Link) (s : State) : (counted l s).heat = s.heat := rfl
@[simp] theorem counted_decoders (l : Link) (s : State) : (counted l s).decoders = s.decoders := rfl
@[simp] theorem counted_faults (l : Link) (s : State) : (counted l s).faults = s.faults := rfl
@[simp] theorem counted_linkFaults (l : Link) (s : State) : (counted l s).linkFaults = s.linkFaults := rfl
@[simp] theorem counted_board (l : Link) (s : State) : (counted l s).board = s.board := rfl
@[simp] theorem counted_choices (l : Link) (s : State) : (counted l s).choices = s.choices := rfl
@[simp] theorem counted_pending (l : Link) (s : State) : (counted l s).pending = s.pending := rfl

@[simp] theorem setFramer_phase (l : Link) (f : Framer) (s : State) : (setFramer l f s).phase = s.phase := rfl
@[simp] theorem setFramer_deckTime (l : Link) (f : Framer) (s : State) : (setFramer l f s).deckTime = s.deckTime := rfl
@[simp] theorem setFramer_resetn (l : Link) (f : Framer) (s : State) : (setFramer l f s).resetn = s.resetn := rfl
@[simp] theorem setFramer_resetPending (l : Link) (f : Framer) (s : State) : (setFramer l f s).resetPending = s.resetPending := rfl
@[simp] theorem setFramer_params (l : Link) (f : Framer) (s : State) : (setFramer l f s).params = s.params := rfl
@[simp] theorem setFramer_queue (l : Link) (f : Framer) (s : State) : (setFramer l f s).queue = s.queue := rfl
@[simp] theorem setFramer_heat (l : Link) (f : Framer) (s : State) : (setFramer l f s).heat = s.heat := rfl
@[simp] theorem setFramer_decoders (l : Link) (f : Framer) (s : State) : (setFramer l f s).decoders = s.decoders := rfl
@[simp] theorem setFramer_faults (l : Link) (f : Framer) (s : State) : (setFramer l f s).faults = s.faults := rfl
@[simp] theorem setFramer_linkFaults (l : Link) (f : Framer) (s : State) : (setFramer l f s).linkFaults = s.linkFaults := rfl
@[simp] theorem setFramer_board (l : Link) (f : Framer) (s : State) : (setFramer l f s).board = s.board := rfl
@[simp] theorem setFramer_choices (l : Link) (f : Framer) (s : State) : (setFramer l f s).choices = s.choices := rfl
@[simp] theorem setFramer_pending (l : Link) (f : Framer) (s : State) : (setFramer l f s).pending = s.pending := rfl

@[simp] theorem settle_phase (s : State) : (settle s).phase = s.phase := rfl
@[simp] theorem settle_deckTime (s : State) : (settle s).deckTime = s.deckTime := rfl
@[simp] theorem settle_resetn (s : State) : (settle s).resetn = s.resetn := rfl
@[simp] theorem settle_resetPending (s : State) : (settle s).resetPending = s.resetPending := rfl
@[simp] theorem settle_params (s : State) : (settle s).params = s.params := rfl
@[simp] theorem settle_queue (s : State) : (settle s).queue = s.queue := rfl
@[simp] theorem settle_heat (s : State) : (settle s).heat = s.heat := rfl
@[simp] theorem settle_decoders (s : State) : (settle s).decoders = s.decoders := rfl
@[simp] theorem settle_faults (s : State) : (settle s).faults = s.faults := rfl
@[simp] theorem settle_linkFaults (s : State) : (settle s).linkFaults = s.linkFaults := rfl
@[simp] theorem settle_board (s : State) : (settle s).board = s.board.arbitrate s.heat s.params s.deckTime := rfl
@[simp] theorem settle_links (s : State) : (settle s).links = s.links.map Clu.arbitrate := rfl
@[simp] theorem settle_choices (s : State) : (settle s).choices = s.choices := rfl
@[simp] theorem settle_pending (s : State) : (settle s).pending = s.pending := rfl

end Sys2Proof.Machine
end

