-- ==== Sys2Proof/Laws/RaceOnly.lean ====
section
/-! SUPPORT. What the shared race operations can do: `RaceOnly s t` says that `t` differs from `s` in the current race, in
notices queued and in the board's pending work alone, each within its bounds. One lemma per shared operation. -/

namespace Sys2Proof.Machine

open Sys2Proof

/-- A link that has at most been offered notices. -/
structure Noticed (c d : Clu) : Prop where
  framer : d.framer = c.framer
  unanswered : d.unanswered = c.unanswered
  answers : d.answers = c.answers
  mask : d.mask = c.mask
  flight : d.flight = c.flight
  bound : c.notices.length ≤ 32 → d.notices.length ≤ 32

/-- A board whose pending work alone has changed. -/
structure Worked (b c : Board) : Prop where
  flight : c.flight = b.flight
  lastKind : c.lastKind = b.lastKind
  events : b.events.length ≤ 4 → c.events.length ≤ 4
  laneQueue : b.laneQueue.Nodup → c.laneQueue.Nodup

/-- Nothing but the race, the notices and the board's pending work has changed. -/
structure RaceOnly (s t : State) : Prop where
  phase : t.phase = s.phase
  deckTime : t.deckTime = s.deckTime
  resetn : t.resetn = s.resetn
  resetPending : t.resetPending = s.resetPending
  params : t.params = s.params
  queue : t.queue = s.queue
  currentId : t.currentId = s.currentId
  decoders : t.decoders = s.decoders
  faults : t.faults = s.faults
  linkFaults : t.linkFaults = s.linkFaults
  board : Worked s.board t.board
  links : ∀ l, Noticed (s.links.get l) (t.links.get l)
  choices : t.choices = s.choices
  pending : t.pending = s.pending

/-! ## Links and board -/

theorem Noticed.refl (c : Clu) : Noticed c c := ⟨rfl, rfl, rfl, rfl, rfl, id⟩

theorem Noticed.trans {a b c : Clu} (h : Noticed a b) (k : Noticed b c) : Noticed a c :=
  ⟨k.framer.trans h.framer, k.unanswered.trans h.unanswered, k.answers.trans h.answers, k.mask.trans h.mask,
    k.flight.trans h.flight, fun x => k.bound (h.bound x)⟩

/-- An offer leaves a link noticed, its queue at most 32 long (R182). -/
theorem Clu.offer_noticed (n : Notice) (c : Clu) : Noticed c (c.offer n) := by
  unfold Clu.offer
  split
  · split
    · refine ⟨rfl, rfl, rfl, rfl, rfl, fun _ => ?_⟩
      simp
      omega
    · exact ⟨rfl, rfl, rfl, rfl, rfl, id⟩
  · exact Noticed.refl c

theorem Worked.refl (b : Board) : Worked b b := ⟨rfl, rfl, id, id⟩

theorem Worked.trans {a b c : Board} (h : Worked a b) (k : Worked b c) : Worked a c :=
  ⟨k.flight.trans h.flight, k.lastKind.trans h.lastKind, fun x => k.events (h.events x),
    fun x => k.laneQueue (h.laneQueue x)⟩

/-- A lane joins the queue once (R166). -/
theorem Board.queueLane_worked (n : LaneNo) (b : Board) : Worked b (b.queueLane n) := by
  unfold Board.queueLane
  split
  · exact Worked.refl b
  · rename_i h
    refine ⟨rfl, rfl, id, fun nd => ?_⟩
    have hn : n ∉ b.laneQueue := by simpa using h
    exact List.nodup_append.mpr ⟨nd, by simp, fun a ha c hc e => hn (by
      have : c = n := by simpa using hc
      subst this
      subst e
      exact ha)⟩

/-- An item joins the list while it is not full (R164). -/
theorem Board.queueEvent_worked (i : EventItem) (b : Board) : Worked b (b.queueEvent i) := by
  unfold Board.queueEvent
  split
  · refine ⟨rfl, rfl, fun _ => ?_, id⟩
    simp
    omega
  · exact Worked.refl b

theorem Board.stopClock_worked (b : Board) : Worked b b.stopClock := ⟨rfl, rfl, id, id⟩

theorem Board.beginFreeze_worked (p : Params) (now : DeckTime) (t : Nat) (b : Board) :
    Worked b (b.beginFreeze p now t) := by
  unfold Board.beginFreeze
  split
  · exact Worked.refl b
  · split <;> exact ⟨rfl, rfl, id, id⟩

/-! ## The relation -/

namespace RaceOnly

theorem refl (s : State) : RaceOnly s s :=
  ⟨rfl, rfl, rfl, rfl, rfl, rfl, rfl, rfl, rfl, rfl, Worked.refl _, fun _ => Noticed.refl _, rfl, rfl⟩

theorem trans {a b c : State} (h : RaceOnly a b) (k : RaceOnly b c) : RaceOnly a c :=
  ⟨k.phase.trans h.phase, k.deckTime.trans h.deckTime, k.resetn.trans h.resetn, k.resetPending.trans h.resetPending,
    k.params.trans h.params, k.queue.trans h.queue, k.currentId.trans h.currentId, k.decoders.trans h.decoders,
    k.faults.trans h.faults, k.linkFaults.trans h.linkFaults, h.board.trans k.board,
    fun l => (h.links l).trans (k.links l), k.choices.trans h.choices, k.pending.trans h.pending⟩

/-- A chain over a list of operations. -/
theorem foldl {α : Type} (f : State → α → State) (hf : ∀ s a, RaceOnly s (f s a)) (as : List α) (s : State) :
    RaceOnly s (as.foldl f s) := by
  induction as generalizing s with
  | nil => exact refl s
  | cons a as ih => exact (hf s a).trans (ih (f s a))

/-- A change of the current race that keeps its heat ID. -/
theorem modHeat (s : State) (f : Heat → Heat) (hf : ∀ h, (f h).definition.id = h.definition.id) :
    RaceOnly s (s.modHeat f) := by
  refine ⟨rfl, rfl, rfl, rfl, rfl, rfl, ?_, rfl, rfl, rfl, Worked.refl _, fun _ => Noticed.refl _, rfl, rfl⟩
  unfold State.currentId
  cases hh : s.heat <;> simp [hh, hf]

theorem modLane (s : State) (n : LaneNo) (f : Lane → Lane) : RaceOnly s (s.modLane n f) := modHeat s _ fun _ => rfl

theorem modDesk (s : State) (n : LaneNo) (f : Desk → Desk) : RaceOnly s (s.modDesk n f) := modHeat s _ fun _ => rfl

theorem modExchange (s : State) (n : LaneNo) (g : Nat) (f : Exchange → Exchange) : RaceOnly s (s.modExchange n g f) :=
  modLane s n _

theorem modBoard (s : State) (f : Board → Board) (hf : Worked s.board (f s.board)) : RaceOnly s (s.modBoard f) :=
  ⟨rfl, rfl, rfl, rfl, rfl, rfl, rfl, rfl, rfl, rfl, hf, fun _ => Noticed.refl _, rfl, rfl⟩

theorem raise (n : Notice) (s : State) : RaceOnly s (Machine.raise n s) :=
  ⟨rfl, rfl, rfl, rfl, rfl, rfl, rfl, rfl, rfl, rfl, Worked.refl _,
    fun l => by simpa using Clu.offer_noticed n (s.links.get l), rfl, rfl⟩

theorem queueLane (n : LaneNo) (s : State) : RaceOnly s (Machine.queueLane n s) :=
  modBoard s _ (Board.queueLane_worked n _)

theorem queueEvent (i : EventItem) (s : State) : RaceOnly s (Machine.queueEvent i s) :=
  modBoard s _ (Board.queueEvent_worked i _)

theorem owesHeader (s : State) : RaceOnly s (Machine.owesHeader s) := modBoard s _ ⟨rfl, rfl, id, id⟩

theorem raceNotice (cause : RaceCause) (l : Option Link) (s : State) : RaceOnly s (Machine.raceNotice cause l s) :=
  raise _ s

theorem heatEvent (code : EventCode) (v : Nat) (s : State) : RaceOnly s (Machine.heatEvent code v s) := by
  unfold Machine.heatEvent
  split
  · exact refl s
  · exact queueEvent _ s

theorem startAdvance (s : State) : RaceOnly s (Machine.startAdvance s) := modHeat s _ fun _ => rfl

/-! ## The end of the race and the Result Desk -/

theorem testReview (s : State) : RaceOnly s (Machine.testReview s) := by
  unfold Machine.testReview
  split
  · exact refl s
  · split
    · dsimp only
      refine trans ?_ (raceNotice _ _ _)
      refine trans ?_ (modBoard _ _ (Board.stopClock_worked _))
      exact modHeat s _ fun _ => rfl
    · exact refl s

theorem testFinal (s : State) : RaceOnly s (Machine.testFinal s) := by
  unfold Machine.testFinal
  split
  · exact refl s
  · split
    · have h := ((modHeat s (fun h => { h with phase := .final }) fun _ => rfl).trans (heatEvent .final 0 _)).trans
        (raceNotice .allReleased none _)
      dsimp only
      split
      · exact h.trans (startAdvance _)
      · exact h
    · exact refl s

theorem reportDesk (n : LaneNo) (c : HoldCause) (l : Option Link) (b s : State) :
    RaceOnly s (Machine.reportDesk n c l b s) := by
  unfold Machine.reportDesk
  split
  · exact refl s
  · split
    · exact refl s
    · exact raise _ s

theorem changeDesk (n : LaneNo) (c : HoldCause) (l : Option Link) (f : Desk → Desk) (s : State) :
    RaceOnly s (Machine.changeDesk n c l f s) := (modDesk s n f).trans (reportDesk n c l s _)

theorem addReason (n : LaneNo) (r : Reason) (s : State) : RaceOnly s (Machine.addReason n r s) := changeDesk _ _ _ _ s

theorem addReasons (n : LaneNo) (rs : List Reason) (s : State) : RaceOnly s (Machine.addReasons n rs s) :=
  foldl _ (fun s r => addReason n r s) rs s

theorem placeLane (s : State) (n : LaneNo) : RaceOnly s (Machine.placeLane s n) := by
  unfold Machine.placeLane
  split
  · exact refl s
  · split
    · exact refl s
    · exact ((modDesk s n _).trans (raise _ _)).trans (queueLane _ _)

theorem recomputePlaces (s : State) : RaceOnly s (Machine.recomputePlaces s) :=
  (modHeat s (fun h => { h with placing := h.rankedLanes }) fun _ => rfl).trans (foldl _ placeLane _ _)

theorem releaseLane (n : LaneNo) (c : Option Link) (s : State) : RaceOnly s (Machine.releaseLane n c s) := by
  unfold Machine.releaseLane
  split
  · exact refl s
  · split
    · exact refl s
    · exact (((modLane s n _).trans (raise _ _)).trans (queueLane _ _)).trans (testFinal _)

theorem releaseCheck (n : LaneNo) (s : State) : RaceOnly s (Machine.releaseCheck n s) := by
  unfold Machine.releaseCheck
  split
  · exact refl s
  · split
    · exact releaseLane n none s
    · exact refl s

theorem finishLane (n : LaneNo) (c : ResultCore) (l : Option Link) (rs : List Reason) (s : State) :
    RaceOnly s (Machine.finishLane n c l rs s) := by
  unfold Machine.finishLane
  dsimp only
  have h := (((modLane s n (Lane.finish c)).trans (raise (.finish n c l) _)).trans (queueLane n _)).trans
    (addReasons n rs _)
  split
  · exact (((h.trans (recomputePlaces _)).trans (releaseCheck n _)).trans (testReview _)).trans (testFinal _)
  · exact ((h.trans (releaseCheck n _)).trans (testReview _)).trans (testFinal _)

/-! ## Judging -/

theorem armForMarks (n : LaneNo) (s : State) : RaceOnly s (Machine.armForMarks n s) := modLane s n _

theorem writeReaction (n : LaneNo) (r : Reaction) (c : Option DeckTime) (s : State) :
    RaceOnly s (Machine.writeReaction n r c s) := (modLane s n _).trans (raise _ _)

theorem earlyRelease (n : LaneNo) (r : Reaction) (c : DeckTime) (s : State) :
    RaceOnly s (Machine.earlyRelease n r c s) := by
  unfold Machine.earlyRelease
  split
  · exact refl s
  · exact (writeReaction n _ _ s).trans (addReason n _ _)

theorem offerToReaction (n : LaneNo) (h : Heat) (r : Reaction) (c : DeckTime) (s : State) :
    RaceOnly s (Machine.offerToReaction n h r c s) := by
  unfold Machine.offerToReaction
  split
  · split
    · exact earlyRelease n r c s
    · dsimp only
      split
      · exact earlyRelease n r c s
      · exact writeReaction n _ none s
  · exact refl s

theorem endReactionArming (n : LaneNo) (s : State) : RaceOnly s (Machine.endReactionArming n s) := modLane s n _

theorem completeExchange (n : LaneNo) (x : Exchange) (r : Option Reason) (s : State) :
    RaceOnly s (Machine.completeExchange n x r s) := by
  unfold Machine.completeExchange
  dsimp only
  split
  · exact (modExchange s n _ _).trans (raise _ _)
  · exact ((modExchange s n _ _).trans (raise _ _)).trans (addReason n _ _)

theorem giveVerdict (n : LaneNo) (x : Exchange) (v : Verdict) (s : State) : RaceOnly s (Machine.giveVerdict n x v s) :=
  completeExchange n _ _ s

theorem judgeMargin (n : LaneNo) (a : Nat) (x : Exchange) (s : State) : RaceOnly s (Machine.judgeMargin n a x s) := by
  unfold Machine.judgeMargin
  split
  · exact giveVerdict n _ _ s
  · exact modExchange s n _ _

theorem settleTouch (n : LaneNo) (e : SplitEntry) (s : State) : RaceOnly s (Machine.settleTouch n e s) := by
  unfold Machine.settleTouch
  split
  · exact refl s
  · split
    · exact refl s
    · split
      · exact giveVerdict n _ _ s
      · exact judgeMargin n _ _ s

theorem settleTakeoff (n : LaneNo) (e : SplitEntry) (s : State) : RaceOnly s (Machine.settleTakeoff n e s) := by
  unfold Machine.settleTakeoff
  split
  · exact refl s
  · split
    · exact refl s
    · split
      · exact giveVerdict n _ _ s
      · exact refl s

theorem armExchange (n : LaneNo) (m : Nat) (s : State) : RaceOnly s (Machine.armExchange n m s) := by
  unfold Machine.armExchange
  split
  · exact refl s
  · split
    · exact refl s
    · split
      · exact modExchange s n _ _
      · exact giveVerdict n _ _ s

theorem judgeEntry (n : LaneNo) (s : State) (e : SplitEntry) : RaceOnly s (Machine.judgeEntry n s e) := by
  unfold Machine.judgeEntry
  dsimp only
  split
  · exact (((endReactionArming n s).trans (settleTouch n e _)).trans (settleTakeoff n e _)).trans (armExchange n _ _)
  · exact ((settleTouch n e s).trans (settleTakeoff n e _)).trans (armExchange n _ _)

theorem judgeFrom (n : LaneNo) (k : Nat) (s : State) : RaceOnly s (Machine.judgeFrom n k s) := by
  unfold Machine.judgeFrom
  split
  · exact refl s
  · exact foldl _ (judgeEntry n) _ s

theorem abandonExchange (n : LaneNo) (s : State) (x : Exchange) : RaceOnly s (Machine.abandonExchange n s x) := by
  unfold Machine.abandonExchange
  split
  · exact completeExchange n _ _ s
  · exact refl s

theorem abandonExchanges (n : LaneNo) (s : State) : RaceOnly s (Machine.abandonExchanges n s) := by
  unfold Machine.abandonExchanges
  split
  · exact refl s
  · exact foldl _ (abandonExchange n) _ s

theorem offerToExchange (n : LaneNo) (h : Heat) (x : Exchange) (c : DeckTime) (s : State) :
    RaceOnly s (Machine.offerToExchange n h x c s) := by
  unfold Machine.offerToExchange
  split
  · exact refl s
  · split
    · exact modExchange s n _ _
    · exact refl s

theorem judgeTakeoff (n : LaneNo) (s : State) (x : Exchange) : RaceOnly s (Machine.judgeTakeoff n s x) := by
  unfold Machine.judgeTakeoff
  split
  · exact refl s
  · exact judgeMargin n _ x s

theorem judgeTakeoffs (b : State) (n : LaneNo) (s : State) : RaceOnly s (Machine.judgeTakeoffs b n s) :=
  foldl _ (judgeTakeoff n) _ s

theorem reportLane (b s : State) (n : LaneNo) : RaceOnly s (Machine.reportLane b s n) := by
  unfold Machine.reportLane
  dsimp only
  split
  · exact (judgeTakeoffs b n s).trans (reportDesk n _ _ b _)
  · exact judgeTakeoffs b n s

theorem takeRelease (n : LaneNo) (e : End) (c : DeckTime) (s : State) : RaceOnly s (Machine.takeRelease n e c s) := by
  unfold Machine.takeRelease
  split
  · exact refl s
  · split
    · split
      · exact offerToReaction n _ _ c s
      · exact offerToExchange n _ _ c s
      · exact refl s
    · exact refl s

theorem platformLost (n : LaneNo) (e : End) (s : State) : RaceOnly s (Machine.platformLost n e s) := by
  unfold Machine.platformLost
  split
  · exact refl s
  · split
    · split
      · split
        · exact writeReaction n _ none s
        · exact refl s
      · exact giveVerdict n _ _ s
      · exact refl s
    · exact refl s

/-! ## Touches -/

theorem expectLength (n : LaneNo) (k r : Nat) (s : State) : RaceOnly s (Machine.expectLength n k r s) :=
  modHeat s _ fun _ => rfl

theorem addSplit (n : LaneNo) (e : SplitEntry) (p : Option Promotion) (s : State) :
    RaceOnly s (Machine.addSplit n e p s) := by
  unfold Machine.addSplit
  split
  · exact refl s
  · dsimp only
    split
    · exact ((modLane s n _).trans (raise _ _)).trans (queueLane n _)
    · exact (modLane s n _).trans (raise _ _)

theorem addMissed (n : LaneNo) (k : Nat) (s : State) : RaceOnly s (Machine.addMissed n k s) := by
  unfold Machine.addMissed
  split
  · exact refl s
  · exact (addSplit n _ none s).trans (addReason n _ _)

theorem infer (n : LaneNo) (fuel : Nat) (s : State) : RaceOnly s (Machine.infer n fuel s) := by
  induction fuel generalizing s with
  | zero => exact refl s
  | succ fuel ih =>
    unfold Machine.infer
    split
    · exact refl s
    · split
      · exact refl s
      · split
        · exact ((addMissed n _ s).trans (expectLength n _ _ _)).trans (ih _)
        · exact refl s

theorem inferAll (n : LaneNo) (s : State) : RaceOnly s (Machine.inferAll n s) := by
  unfold Machine.inferAll
  split
  · exact refl s
  · exact infer n _ s

theorem acceptLength (n : LaneNo) (k t : Nat) (q : SplitSource) (p : Option Promotion) (s : State) :
    RaceOnly s (Machine.acceptLength n k t q p s) := by
  unfold Machine.acceptLength
  split
  · exact refl s
  · split
    · exact refl s
    · dsimp only
      exact (((addSplit n _ p s).trans (modLane _ n _)).trans (expectLength n _ _ _)).trans (inferAll n _)

theorem openCollect (n : LaneNo) (o : Nat) (k : CollectionSlot) (t : Nat) (s : State) :
    RaceOnly s (Machine.openCollect n o k t s) :=
  (modHeat s (fun h => h.modLane n (Lane.open h.definition o k t)) fun _ => rfl).trans (queueLane n _)

theorem fillSlot (n : LaneNo) (k : CollectionSlot) (t : Nat) (s : State) : RaceOnly s (Machine.fillSlot n k t s) :=
  modLane s n _

theorem rejectTouch (n : LaneNo) (t : Nat) (e : End) (r : RejectReason) (k : Nat) (s : State) :
    RaceOnly s (Machine.rejectTouch n t e r k s) := by
  unfold Machine.rejectTouch
  split
  · exact refl s
  · exact (modLane s n _).trans (raise _ _)

theorem takeSkip (n : LaneNo) (d : Definition) (x : Expectation) (t : Nat) (s : State) :
    RaceOnly s (Machine.takeSkip n d x t s) := by
  unfold Machine.takeSkip
  dsimp only
  split
  · exact ((addMissed n _ s).trans (expectLength n _ _ _)).trans (acceptLength n _ _ _ _ _)
  · exact ((addMissed n _ s).trans (expectLength n _ _ _)).trans (openCollect n _ _ _ _)

theorem judgeTouch (n : LaneNo) (h : Heat) (x : Expectation) (e : End) (t : Nat) (s : State) :
    RaceOnly s (Machine.judgeTouch n h x e t s) := by
  unfold Machine.judgeTouch
  dsimp only
  split
  · exact refl s
  · split
    · split
      · exact rejectTouch n t e _ _ s
      · split
        · exact acceptLength n _ t _ _ s
        · exact openCollect n t _ t s
    · split
      · exact refl s
      · split
        · exact takeSkip n _ x t s
        · exact rejectTouch n t e _ _ s

theorem takeTouch (n : LaneNo) (e : End) (c : DeckTime) (s : State) : RaceOnly s (Machine.takeTouch n e c s) := by
  unfold Machine.takeTouch
  split
  · exact refl s
  · split
    · exact judgeTouch n _ _ e _ s
    · split
      · exact fillSlot n _ _ s
      · exact refl s
    · exact refl s

theorem takePress (n : LaneNo) (k : Slot) (c : DeckTime) (s : State) : RaceOnly s (Machine.takePress n k c s) := by
  unfold Machine.takePress
  split
  · exact refl s
  · dsimp only
    split
    · split
      · exact openCollect n _ _ _ s
      · exact refl s
    · exact fillSlot n _ _ s
    · exact refl s

theorem padLost (n : LaneNo) (e : End) (s : State) : RaceOnly s (Machine.padLost n e s) := by
  unfold Machine.padLost
  split
  · exact refl s
  · split
    · split
      · exact inferAll n s
      · exact refl s
    · exact refl s

theorem promoteEntry (l : Link) (n : LaneNo) (h : Heat) (x : Expectation) (r : RejectedEntry) (s : State) :
    RaceOnly s (Machine.promoteEntry l n h x r s) := by
  unfold Machine.promoteEntry
  dsimp only
  split
  · exact ((modLane s n _).trans (acceptLength n _ _ _ _ _)).trans (judgeFrom n _ _)
  · exact (modLane s n _).trans (openCollect n _ _ _ _)

/-! ## Finishes -/

theorem addFinalSplit (n : LaneNo) (t : Nat) (q : SplitSource) (s : State) : RaceOnly s (Machine.addFinalSplit n t q s) := by
  unfold Machine.addFinalSplit
  split
  · exact refl s
  · exact (addSplit n _ none s).trans (judgeFrom n _ _)

theorem resolveFinish (n : LaneNo) (s : State) : RaceOnly s (Machine.resolveFinish n s) := by
  unfold Machine.resolveFinish
  split
  · exact refl s
  · split
    · exact refl s
    · split
      · exact refl s
      · dsimp only
        exact ((addFinalSplit n _ _ s).trans (modBoard _ _ (Board.beginFreeze_worked _ _ _ _))).trans
          (finishLane n _ _ _ _)

theorem finishWithoutTime (n : LaneNo) (l : Option Link) (s : State) : RaceOnly s (Machine.finishWithoutTime n l s) :=
  (abandonExchanges n s).trans (finishLane n _ _ _ _)

theorem replaceFinish (l : Link) (t o : Nat) (b : Option Nat) (n : LaneNo) (s : State) :
    RaceOnly s (Machine.replaceFinish l t o b n s) := by
  unfold Machine.replaceFinish
  dsimp only
  refine trans ?_ (releaseCheck n _)
  refine trans ?_ (recomputePlaces _)
  refine trans ?_ (changeDesk n _ _ _ _)
  refine trans ?_ (queueLane n _)
  refine trans ?_ (raise _ _)
  exact modHeat s _ fun _ => rfl

/-! ## Lane requests, marks, start, recall, overtime -/

theorem scratch (l : Link) (n : LaneNo) (s : State) : RaceOnly s (Machine.scratch l n s) :=
  (((modLane s n _).trans (queueLane n _)).trans (owesHeader _)).trans (changeDesk n _ _ _ _)

theorem retag (is : List TagItem) (n : LaneNo) (s : State) : RaceOnly s (Machine.retag is n s) :=
  (modLane s n _).trans (queueLane n _)

theorem enterLane (is : List TagItem) (n : LaneNo) (h : Heat) (s : State) : RaceOnly s (Machine.enterLane is n h s) := by
  unfold Machine.enterLane
  dsimp only
  split
  · exact (((modLane s n _).trans (armForMarks n _)).trans (queueLane n _)).trans (owesHeader _)
  · exact ((modLane s n _).trans (queueLane n _)).trans (owesHeader _)

theorem replaceIfTimed (l : Lane) (s : State) : RaceOnly s (Machine.replaceIfTimed l s) := by
  unfold Machine.replaceIfTimed
  split
  · exact recomputePlaces s
  · exact refl s

theorem marksRise (s : State) : RaceOnly s (Machine.marksRise s) := by
  unfold Machine.marksRise
  split
  · exact refl s
  · split
    · dsimp only
      split
      · refine trans ?_ (raceNotice _ _ _)
        refine trans ?_ (foldl _ (fun s n => armForMarks n s) _ _)
        exact modHeat s _ fun _ => rfl
      · refine trans ?_ (raceNotice _ _ _)
        exact modHeat s _ fun _ => rfl
    · exact refl s

theorem cancelMarks (c : RaceCause) (s : State) : RaceOnly s (Machine.cancelMarks c s) := by
  unfold Machine.cancelMarks
  dsimp only
  refine trans ?_ (foldl _ (fun s n => changeDesk n _ _ _ s) _ _)
  refine trans ?_ (raceNotice c none _)
  exact modHeat s _ fun _ => rfl

theorem marksFall (s : State) : RaceOnly s (Machine.marksFall s) := by
  unfold Machine.marksFall
  split
  · exact refl s
  · split
    · exact cancelMarks _ s
    · exact refl s

theorem testStartPlatform (n : LaneNo) (s : State) : RaceOnly s (Machine.testStartPlatform n s) := by
  unfold Machine.testStartPlatform
  split
  · exact refl s
  · split
    · exact refl s
    · split
      · exact refl s
      · exact writeReaction n _ none s

theorem startLane (d : DeckTime) (s : State) (n : LaneNo) : RaceOnly s (Machine.startLane d s n) := by
  unfold Machine.startLane
  split
  · exact refl s
  · split
    · exact ((((modLane s n _).trans (queueLane n _)).trans (testStartPlatform n _)).trans
        (expectLength n _ _ _)).trans (inferAll n _)
    · exact refl s

theorem judgeStart (s : State) (n : LaneNo) : RaceOnly s (Machine.judgeStart s n) :=
  (armExchange n 1 s).trans (judgeFrom n 0 _)

theorem boardStart (h : Heat) (s : State) : RaceOnly s (Machine.boardStart h s) :=
  (heatEvent _ _ s).trans (modBoard _ _ ⟨rfl, rfl, id, id⟩)

theorem startRace (d : DeckTime) (c : RaceCause) (l : Option Link) (s : State) :
    RaceOnly s (Machine.startRace d c l s) := by
  unfold Machine.startRace
  split
  · exact refl s
  · dsimp only
    refine trans ?_ (foldl _ judgeStart _ _)
    refine trans ?_ (foldl _ (startLane d) _ _)
    refine trans ?_ (boardStart _ _)
    refine trans ?_ (raceNotice c l _)
    exact modHeat s _ fun _ => rfl

theorem startEvent (d : DeckTime) (s : State) : RaceOnly s (Machine.startEvent d s) := by
  unfold Machine.startEvent
  split
  · exact refl s
  · split
    · exact startRace d _ _ s
    · exact refl s

theorem honourRecall (s : State) : RaceOnly s (Machine.honourRecall s) := by
  unfold Machine.honourRecall
  split
  · exact refl s
  · dsimp only
    refine trans ?_ (foldl _ (fun s n => changeDesk n _ _ _ s) _ _)
    refine trans ?_ (foldl _ (fun s n => queueLane n s) _ _)
    refine trans ?_ (owesHeader _)
    refine trans ?_ (heatEvent _ _ _)
    refine trans ?_ (modBoard _ _ (Board.stopClock_worked _))
    refine trans ?_ (raceNotice _ _ _)
    exact modHeat s _ fun _ => rfl

theorem takeRecall (d : DeckTime) (s : State) : RaceOnly s (Machine.takeRecall d s) := by
  unfold Machine.takeRecall
  split
  · exact raise _ s
  · split
    · exact cancelMarks _ s
    · split
      · exact honourRecall s
      · exact raise _ s
    · exact raise _ s
    · exact raise _ s
    · exact raise _ s

theorem overtimeLane (s : State) (n : LaneNo) : RaceOnly s (Machine.overtimeLane s n) := by
  unfold Machine.overtimeLane
  split
  · exact refl s
  · split
    · exact finishWithoutTime n none s
    · exact refl s

theorem overtime (s : State) : RaceOnly s (Machine.overtime s) := by
  unfold Machine.overtime
  dsimp only
  refine trans ?_ (foldl _ overtimeLane _ _)
  refine trans ?_ (raceNotice _ _ _)
  refine trans ?_ (heatEvent _ _ _)
  exact modHeat s _ fun _ => rfl

theorem overtimeIfDue (s : State) : RaceOnly s (Machine.overtimeIfDue s) := by
  unfold Machine.overtimeIfDue
  split
  · exact overtime s
  · exact refl s

theorem losePads (lost : List (Fin 71)) (s : State) (n : LaneNo) : RaceOnly s (Machine.losePads lost s n) :=
  foldl _ (fun s e => by
    split
    · exact padLost n e s
    · exact refl s) _ s

theorem losePlatforms (lost : List (Fin 71)) (n : LaneNo) (s : State) : RaceOnly s (Machine.losePlatforms lost n s) :=
  foldl _ (fun s e => by
    split
    · exact platformLost n e s
    · exact refl s) _ s

theorem settleLane (j : State) (lost : List (Fin 71)) (s : State) (n : LaneNo) :
    RaceOnly s (Machine.settleLane j lost s n) :=
  ((judgeTakeoffs j n s).trans (judgeFrom n _ _)).trans (losePlatforms lost n _)

theorem handServices (b j : State) (is : List (Fin 71)) (s : State) : RaceOnly s (Machine.handServices b j is s) :=
  (foldl _ (losePads _) _ s).trans (foldl _ (settleLane j _) _ _)

theorem deliver (l : Line) (o v : Level) (d : DeckTime) (s : State) : RaceOnly s (Machine.deliver l o v d s) := by
  unfold Machine.deliver
  split
  · exact takeTouch _ _ _ s
  · exact takeRelease _ _ _ s
  · exact takePress _ _ _ s
  · exact startEvent _ s
  · exact marksRise s
  · exact marksFall s
  · exact takeRecall _ s
  · exact refl s

theorem deliverCounted (b s : State) (l : Line) : RaceOnly s (Machine.deliverCounted b s l) := by
  unfold Machine.deliverCounted
  split
  · exact refl s
  · unfold Machine.deliverGated
    split
    · exact deliver l _ _ _ _
    · exact refl s

theorem handEvents (b : State) (ls : List Line) (s : State) : RaceOnly s (Machine.handEvents b ls s) :=
  foldl _ (deliverCounted b) _ s

/-- Notices held back leave no other trace: the masks are the links' own again. -/
theorem holdingBack (k : NoticeKind) (f : State → State) (hf : ∀ s, RaceOnly s (f s)) (s : State) :
    RaceOnly s (Machine.holdingBack k f s) := by
  have h := hf (s.withMasks (s.masks.map fun m => m.filter fun j => j != k))
  refine ⟨h.phase, h.deckTime, h.resetn, h.resetPending, h.params, h.queue, h.currentId, h.decoders, h.faults, h.linkFaults,
    h.board, fun l => ?_, h.choices, h.pending⟩
  have hl := h.links l
  cases l <;> exact ⟨hl.framer, hl.unanswered, hl.answers, rfl, hl.flight, hl.bound⟩

theorem handTogether (b : State) (ls : List Line) (s : State) : RaceOnly s (Machine.handTogether b ls s) :=
  (holdingBack _ _ (handEvents b ls) s).trans (foldl _ (reportLane s) _ _)

end RaceOnly

/-! ## Notices held back -/

/-- A link without a kind in its mask takes the other notices as it would. -/
theorem offer_heldBack (k : NoticeKind) (hk : k ≠ .started) (q : Notice) (c d : Clu) (m : List NoticeKind)
    (h : c = { d with mask := m.filter fun j => j != k }) (hm : d.mask = m) :
    Clu.offer q c = { (if q.kind = k then d else Clu.offer q d) with mask := m.filter fun j => j != k } := by
  subst h hm
  by_cases e : q.kind = k
  · have : ({ d with mask := d.mask.filter fun j => j != k } : Clu).admits q.kind = false := by
      simp [Clu.admits, e, hk]
    rw [Clu.offer, this, if_pos e]
    rfl
  · have : ({ d with mask := d.mask.filter fun j => j != k } : Clu).admits q.kind = d.admits q.kind := by
      simp [Clu.admits, e]
    rw [Clu.offer, this, if_neg e, Clu.offer]
    split
    · split <;> rfl
    · rfl

theorem raise_heldBack (k : NoticeKind) (hk : k ≠ .started) (q : Notice) (s t : State) (l : Link)
  (h : t.links.get l = { s.links.get l with mask := (s.links.get l).mask.filter fun j => j != k }) :
  (raise q t).links.get l = 
    { (if q.kind = k then s else raise q s).links.get l with mask := (s.links.get l).mask.filter fun j => j != k } := by
  have : (raise q t).links.get l = Clu.offer q (t.links.get l) := by cases l <;> rfl
  rw [this, offer_heldBack k hk q _ _ _ h rfl]
  split
  · rfl
  · cases l <;> rfl

/-- The notices of an operation that are of the kind held back are not offered; the others are, in their order. -/
theorem holdingBack_links (k : NoticeKind) (hk : k ≠ .started) (f : State → State) (s u : State) (ns : List Notice)
    (hu : u = s.withMasks (s.masks.map fun m => m.filter fun j => j != k))
    (hf : (f u).links = (ns.foldl (fun v q => raise q v) u).links) :
    (holdingBack k f s).links = ((ns.filter fun q => q.kind != k).foldl (fun v q => raise q v) s).links := by
  have mask : ∀ (q : Notice) (v : State) (l : Link), ((raise q v).links.get l).mask = (v.links.get l).mask := fun q v l => by
    have := (RaceOnly.raise q v).links l
    exact this.mask
  have step : ∀ (ns : List Notice) (v w : State),
      (∀ l, w.links.get l = { v.links.get l with mask := (v.links.get l).mask.filter fun j => j != k }) →
      ∀ l, (ns.foldl (fun v q => raise q v) w).links.get l =
        { ((ns.filter fun q => q.kind != k).foldl (fun v q => raise q v) v).links.get l with
          mask := (v.links.get l).mask.filter fun j => j != k } := by
    intro ns
    induction ns with
    | nil => exact fun v w h l => h l
    | cons q ns ih =>
      intro v w h l
      have hq := fun l => raise_heldBack k hk q v w l (h l)
      rw [List.foldl_cons, List.filter_cons]
      by_cases e : q.kind = k
      · simp only [e, bne_self_eq_false, Bool.false_eq_true, if_false]
        exact ih v _ (fun l => by rw [hq l, if_pos e]) l
      · rw [if_pos (by simp [e]), List.foldl_cons]
        rw [ih (raise q v) _ (fun l => by rw [hq l, if_neg e, mask]) l, mask]
  have hs : ∀ l, ((ns.filter fun q => q.kind != k).foldl (fun v q => raise q v) s).links.get l =
      { (f u).links.get l with mask := (s.links.get l).mask } := fun l => by
    rw [hf, step ns s u (fun l => by subst hu; cases l <;> rfl) l]
    have : ∀ (xs : List Notice) (v : State), ((xs.foldl (fun v q => raise q v) v).links.get l).mask = (v.links.get l).mask := by
      intro xs
      induction xs with
      | nil => exact fun _ => rfl
      | cons q xs ih => exact fun v => by rw [List.foldl_cons, ih, mask]
    rw [← this (ns.filter fun q => q.kind != k) s]
  have ext : ∀ a b : PerLink Clu, (∀ l, a.get l = b.get l) → a = b := fun a b h => by
    cases a
    cases b
    have h0 := h .cl0
    have h1 := h .cl1
    have h2 := h .cl2
    simp only [PerLink.get] at h0 h1 h2
    rw [h0, h1, h2]
  refine ext _ _ fun l => ?_
  rw [hs l, holdingBack, ← hu]
  cases l <;> rfl

end Sys2Proof.Machine
end

