-- ==== Sys2Proof/Laws/Owned.lean ====
section
/-! SUPPORT. What any owner or timer may do in an event, `Owned s t`: phase, deck time, RESETn, the waiting commands and the
answer side of every link stay; notices and the board's pending work stay within their bounds. One lemma per request and
per event, and what an answer to a taken request can never be. -/

namespace Sys2Proof.Machine

open Sys2Proof

/-- A link whose answer side and framer are untouched; its mask may change. -/
structure Kept (c d : Clu) : Prop where
  framer : d.framer = c.framer
  unanswered : d.unanswered = c.unanswered
  answers : d.answers = c.answers
  flight : d.flight = c.flight
  bound : c.notices.length ≤ 32 → d.notices.length ≤ 32

/-- What an owner leaves alone. -/
structure Owned (s t : State) : Prop where
  phase : t.phase = s.phase
  deckTime : t.deckTime = s.deckTime
  resetn : t.resetn = s.resetn
  board : Worked s.board t.board
  links : ∀ l, Kept (s.links.get l) (t.links.get l)
  choices : t.choices = s.choices
  pending : t.pending = s.pending

theorem Kept.refl (c : Clu) : Kept c c := ⟨rfl, rfl, rfl, rfl, id⟩

theorem Kept.trans {a b c : Clu} (h : Kept a b) (k : Kept b c) : Kept a c :=
  ⟨k.framer.trans h.framer, k.unanswered.trans h.unanswered, k.answers.trans h.answers, k.flight.trans h.flight,
    fun x => k.bound (h.bound x)⟩

theorem Noticed.kept {c d : Clu} (h : Noticed c d) : Kept c d := ⟨h.framer, h.unanswered, h.answers, h.flight, h.bound⟩

theorem RaceOnly.owned {s t : State} (h : RaceOnly s t) : Owned s t :=
  ⟨h.phase, h.deckTime, h.resetn, h.board, fun l => (h.links l).kept, h.choices, h.pending⟩

/-- A board at a load: its ten lanes wait once each. -/
theorem Board.load_worked (b : Board) : Worked b b.load := ⟨rfl, rfl, id, fun _ => List.nodup_finRange 10⟩

theorem Board.becomeEmpty_worked (p : Params) (now : DeckTime) (b : Board) : Worked b (b.becomeEmpty p now) :=
  ⟨rfl, rfl, id, fun _ => List.nodup_nil⟩

theorem Board.clockExpires_worked (p : Params) (now : DeckTime) (b : Board) : Worked b (b.clockExpires p now) := by
  unfold Board.clockExpires
  split
  · exact ⟨rfl, rfl, id, id⟩
  · exact Worked.refl b

theorem Board.freezeExpires_worked (now : DeckTime) (b : Board) : Worked b (b.freezeExpires now) := by
  unfold Board.freezeExpires
  split
  · exact ⟨rfl, rfl, id, id⟩
  · exact Worked.refl b

theorem Board.idleExpires_worked (p : Params) (now : DeckTime) (b : Board) : Worked b (b.idleExpires p now) := by
  unfold Board.idleExpires
  split
  · exact ⟨rfl, rfl, id, id⟩
  · exact Worked.refl b

namespace Owned

theorem refl (s : State) : Owned s s := (RaceOnly.refl s).owned

theorem trans {a b c : State} (h : Owned a b) (k : Owned b c) : Owned a c :=
  ⟨k.phase.trans h.phase, k.deckTime.trans h.deckTime, k.resetn.trans h.resetn, h.board.trans k.board,
    fun l => (h.links l).trans (k.links l), k.choices.trans h.choices, k.pending.trans h.pending⟩

theorem foldl {α : Type} (f : State → α → State) (hf : ∀ s a, Owned s (f s a)) (as : List α) (s : State) :
    Owned s (as.foldl f s) := by
  induction as generalizing s with
  | nil => exact refl s
  | cons a as ih => exact (hf s a).trans (ih (f s a))

/-- The fields an owner may write freely. -/
theorem write (s t : State) (hp : t.phase = s.phase) (hd : t.deckTime = s.deckTime) (hr : t.resetn = s.resetn)
    (hb : t.board = s.board) (hl : t.links = s.links) (hc : t.choices = s.choices) (hq : t.pending = s.pending) :
    Owned s t :=
  ⟨hp, hd, hr, hb ▸ Worked.refl _, fun _ => hl ▸ Kept.refl _, hc, hq⟩

theorem raise (n : Notice) (s : State) : Owned s (Machine.raise n s) := (RaceOnly.raise n s).owned

theorem modHeat (s : State) (f : Heat → Heat) : Owned s (s.modHeat f) := write s _ rfl rfl rfl rfl rfl rfl rfl

theorem modDecoder (s : State) (l : Line) (f : Decoder → Decoder) : Owned s (s.modDecoder l f) :=
  write s _ rfl rfl rfl rfl rfl rfl rfl

theorem modBoard (s : State) (f : Board → Board) (hf : Worked s.board (f s.board)) : Owned s (s.modBoard f) :=
  (RaceOnly.modBoard s f hf).owned

/-! ## Race and queue -/

theorem load (l : Option Link) (s : State) : Owned s (Machine.load l s) := by
  unfold Machine.load
  split
  · exact refl s
  · dsimp only
    refine trans ?_ (RaceOnly.raceNotice _ _ _).owned
    refine trans ?_ (raise _ _)
    refine trans ?_ (modBoard _ _ (Board.load_worked _))
    exact write s _ rfl rfl rfl rfl rfl rfl rfl

theorem emptyRace (c : RaceCause) (l : Option Link) (s : State) : Owned s (Machine.emptyRace c l s) := by
  unfold Machine.emptyRace
  refine trans ?_ (RaceOnly.raceNotice _ _ _).owned
  exact ⟨rfl, rfl, rfl, Board.becomeEmpty_worked _ _ _, fun _ => Kept.refl _, rfl, rfl⟩

theorem advanceRace (c : RaceCause) (l : Option Link) (s : State) : Owned s (Machine.advanceRace c l s) := by
  unfold Machine.advanceRace
  split
  · exact emptyRace c l s
  · exact load l s

theorem stage (l : Link) (d : Definition) (s : State) : Owned s (Machine.stage l d s) := by
  unfold Machine.stage
  dsimp only
  have h : Owned s (Machine.raise (.queueChange .staged d.id (some l) (s.queue ++ [QueueEntry.mk d l]).length)
      { s with queue := s.queue ++ [QueueEntry.mk d l] }) := by
    refine trans ?_ (raise _ _)
    exact write s _ rfl rfl rfl rfl rfl rfl rfl
  split
  · exact h.trans (load _ _)
  · exact h

/-! ## Faults and deck -/

theorem writeFault (i : Fin 71) (c : FaultClass) (k : FaultCause) (l : Option Link) (q : FaultRecord) (s : State) :
    Owned s (Machine.writeFault i c k l q s) := by
  unfold Machine.writeFault
  dsimp only
  have h : Owned s { s with faults := s.faults.set i.val q i.isLt } := write s _ rfl rfl rfl rfl rfl rfl rfl
  split
  · exact h.trans (raise _ _)
  · exact h

theorem handServices (b j : State) (is : List (Fin 71)) (s : State) : Owned s (Machine.handServices b j is s) :=
  (RaceOnly.handServices b j is s).owned

theorem moveFaults (is : List (Fin 71)) (f : Fin 71 → FaultRecord → FaultRecord) (c : Fin 71 → FaultRecord → FaultClass)
    (k : FaultCause) (l : Option Link) (s : State) : Owned s (Machine.moveFaults is f c k l s) := by
  unfold Machine.moveFaults
  refine trans ?_ (handServices s s is _)
  exact foldl _ (fun t i => writeFault i _ k l _ t) is s

theorem expireRetries (is : List (Fin 71)) (s : State) : Owned s (Machine.expireRetries is s) := moveFaults _ _ _ _ _ s

theorem clearLink (l : Option Link) (s : State) (m : Link) : Owned s (Machine.clearLink l s m) := by
  unfold Machine.clearLink
  dsimp only
  split
  · refine trans ?_ (raise _ _)
    exact write s _ rfl rfl rfl rfl rfl rfl rfl
  · exact refl s

theorem clearFaults (is : List (Fin 71)) (ls : List Link) (l : Option Link) (s : State) :
    Owned s (Machine.clearFaults is ls l s) :=
  (moveFaults is _ _ _ l s).trans (foldl _ (clearLink l) ls _)

theorem reportDiscard (l : Link) (d : Discard) (s : State) : Owned s (Machine.reportDiscard l d s) := by
  unfold Machine.reportDiscard
  split
  · exact refl s
  · refine trans ?_ (raise _ _)
    exact write s _ rfl rfl rfl rfl rfl rfl rfl

theorem reportFault (i : Fin 71) (c : Condition) (k : FaultCause) (f : FaultRecord → FaultRecord) (s : State) :
    Owned s (Machine.reportFault i c k f s) := writeFault i _ k none _ s

theorem reportLine (i : Fin 71) (o v : Condition) (s : State) : Owned s (Machine.reportLine i o v s) := by
  unfold Machine.reportLine
  split
  · exact refl s
  · split
    · exact reportFault i _ _ _ s
    · split
      · exact reportFault i _ _ _ s
      · exact reportFault i _ _ _ s

theorem superviseChange (i : Fin 71) (o v : Decoder) (s : State) : Owned s (Machine.superviseChange i o v s) := by
  unfold Machine.superviseChange
  refine trans ?_ (reportLine i _ _ _)
  split
  · exact reportFault i _ _ _ s
  · exact refl s

theorem countLine (s : State) (l : Line) : Owned s (Machine.countLine s l) := by
  unfold Machine.countLine
  dsimp only
  split
  · exact refl s
  · split
    · exact modDecoder s l _
    · exact (modDecoder s l _).trans (superviseChange _ _ _ _)

theorem completeLines (ls : List Line) (s : State) : Owned s (Machine.completeLines ls s) := by
  unfold Machine.completeLines
  dsimp only
  refine trans ?_ (handServices s _ _ _)
  have hc := foldl _ countLine (ls.filter fun l => (s.decoder l).candidateDue s.params l s.deckTime) s
  split
  · exact hc.trans (RaceOnly.handTogether s _ _).owned
  · exact hc.trans (RaceOnly.handEvents s _ _).owned

theorem reportStuck (s : State) (l : Line) : Owned s (Machine.reportStuck s l) := by
  unfold Machine.reportStuck
  split
  · exact refl s
  · exact (modDecoder s l _).trans (reportFault _ _ _ _ _)

theorem expireLines (ls : List Line) (s : State) : Owned s (Machine.expireLines ls s) := by
  unfold Machine.expireLines
  dsimp only
  exact (foldl _ reportStuck _ s).trans (handServices s _ _ _)

/-! ## Parameters -/

theorem parameterWritten (p : ParamId) (s : State) : Owned s (Machine.parameterWritten p s) := by
  have hd : ∀ q, Owned s (Machine.deglitchWritten q s) := fun q => completeLines _ s
  have hm : ∀ c, Owned s (Machine.modeWritten c s) := fun c => moveFaults _ _ _ _ _ s
  have ha : Owned s (Machine.autoAdvanceWritten s) := by
    unfold Machine.autoAdvanceWritten
    split
    · split
      · exact refl s
      · split
        · exact (RaceOnly.startAdvance s).owned
        · exact refl s
    · exact modHeat s _
  have hs : Owned s (Machine.stuckWritten s) := expireLines _ s
  unfold Machine.parameterWritten
  split
  · exact hd _
  · exact hd _
  · exact hd _
  · exact hd _
  · exact hd _
  · exact hs
  · exact expireRetries _ s
  · exact expireRetries _ s
  · exact ha
  · split
    · exact hm _
    · exact refl s

theorem writeParameter (l : Link) (p : ParamId) (v : Int) (s : State) : Owned s (Machine.writeParameter l p v s) := by
  unfold Machine.writeParameter
  dsimp only
  have h : Owned s (Machine.raise (.parameterChanged p (s.params.value p) v l)
      { s with params := s.params.write p v }) := by
    refine trans ?_ (raise _ _)
    exact write s _ rfl rfl rfl rfl rfl rfl rfl
  split
  · exact h
  · exact h.trans (parameterWritten p _)

theorem setMask (l : Link) (m : List NoticeKind) (s : State) : Owned s (s.modLink l fun c => { c with mask := m }) := by
  refine ⟨rfl, rfl, rfl, Worked.refl _, fun k => ?_, rfl, rfl⟩
  simp only [State.modLink_links, PerLink.get_put]
  split
  · rename_i h
    subst h
    exact ⟨rfl, rfl, rfl, rfl, id⟩
  · exact Kept.refl _

end Owned

/-! ## Requests: what their owners leave, and that no owner answers BUSY -/

/-- A reply of an owner: what it leaves of the state, and a result other than BUSY (R178, R179). -/
structure Served (s : State) (r : Reply) : Prop where
  owned : Owned s r.state
  result : r.result ≠ .busy

namespace Served

theorem refuse (r : Result) (s : State) (h : r ≠ .busy) : Served s (Machine.refuse r s) := ⟨Owned.refl s, h⟩

theorem malformed (s : State) : Served s (Machine.malformed s) := ⟨Owned.refl s, by simp [Machine.malformed, Machine.refuse]⟩

theorem wrongRace (s : State) : Served s (Machine.wrongRace s) := ⟨Owned.refl s, by simp [Machine.wrongRace]⟩

theorem wrongLane (l : Lane) (s : State) : Served s (Machine.wrongLane l s) := ⟨Owned.refl s, by simp [Machine.wrongLane]⟩

theorem invalid (v : Invalid) (s : State) : Served s (Machine.invalid v s) := ⟨Owned.refl s, by simp [Machine.invalid]⟩

theorem done (d : List Byte) {s t : State} (h : Owned s t) : Served s (Machine.done d t) := ⟨h, by simp [Machine.done]⟩

theorem read (d : List Byte) (s : State) : Served s (Machine.done d s) := done d (Owned.refl s)

theorem laneRequest (b : Byte) (row : LaneState → LaneGate) (own : LaneNo → Heat → Lane → State → Reply) (s : State)
    (h : ∀ n g l, Served s (own n g l s)) : Served s (Machine.laneRequest b row own s) := by
  unfold Machine.laneRequest
  split
  · exact malformed s
  · split
    · exact wrongRace s
    · split
      · exact h _ _ _
      · exact wrongLane _ s
      · exact refuse _ s (by decide)
      · exact refuse _ s (by decide)

theorem stageHeat (l : Link) (b : HeatBody) (s : State) : Served s (performStageHeat l b s) := by
  unfold performStageHeat
  split
  · exact malformed s
  · unfold stageDefinition
    split
    · exact invalid _ s
    · split
      · exact refuse _ s (by decide)
      · split
        · exact refuse _ s (by decide)
        · exact done _ (Owned.stage l _ s)

theorem withdrawHeat (l : Link) (i : HeatId) (s : State) : Served s (performWithdrawHeat l i s) := by
  unfold performWithdrawHeat
  split
  · dsimp only
    refine done _ (Owned.trans ?_ (Owned.raise _ _))
    exact Owned.write s _ rfl rfl rfl rfl rfl rfl rfl
  · split
    · exact wrongRace s
    · exact refuse _ s (by decide)

theorem advance (l : Link) (s : State) : Served s (performAdvance l s) := by
  unfold performAdvance
  split
  · split
    · exact refuse _ s (by decide)
    · exact done _ (Owned.load _ s)
  · split
    · exact done _ ((Owned.modHeat s _).trans (Owned.advanceRace _ _ _))
    · exact ⟨Owned.refl s, by simp⟩
    all_goals exact wrongRace s

theorem abandon (l : Link) (s : State) : Served s (performAbandon l s) := by
  unfold performAbandon
  split
  · exact wrongRace s
  · exact done _ ((RaceOnly.heatEvent _ _ s).owned.trans (Owned.emptyRace _ _ _))

theorem startRace (l : Link) (s : State) : Served s (performStartRace l s) := by
  unfold performStartRace
  split
  · exact refuse _ s (by decide)
  · split
    · exact wrongRace s
    · split
      · exact done _ (RaceOnly.startRace _ _ _ s).owned
      · exact wrongRace s

theorem readRace (p : Byte) (s : State) : Served s (performReadRace p s) := by
  unfold performReadRace
  split
  · exact read _ s
  · split
    · exact read _ s
    · exact malformed s

theorem scratchLane (l : Link) (b : Byte) (s : State) : Served s (performScratchLane l b s) := by
  refine laneRequest _ _ _ s fun n g x => ?_
  dsimp only
  split
  · exact refuse _ s (by decide)
  · exact done _ (RaceOnly.scratch l n s).owned

theorem assignEntrant (b : Byte) (is : List TagItem) (s : State) : Served s (performAssignEntrant b is s) := by
  refine laneRequest _ _ _ s fun n g x => ?_
  unfold assign
  split
  · exact invalid _ s
  · split
    · exact invalid _ s
    · split
      · exact invalid _ s
      · unfold assignByState
        split
        · split
          · exact invalid _ s
          · split
            · exact done _ (RaceOnly.enterLane is n g s).owned
            · exact wrongRace s
        · split
          · exact ⟨Owned.refl s, by simp⟩
          · exact done _ (RaceOnly.retag is n s).owned

theorem setLaneTiming (b : Byte) (t : TimingBody) (s : State) : Served s (performSetLaneTiming b t s) := by
  unfold performSetLaneTiming
  split
  · exact malformed s
  · refine laneRequest _ _ _ s fun n g x => ?_
    unfold setTiming
    split
    · exact invalid _ s
    · exact done _ (Owned.modHeat s _)

theorem promoteTouch (l : Link) (b : Byte) (k : Word16) (s : State) : Served s (performPromote l b k s) := by
  unfold performPromote
  split
  · exact malformed s
  · refine laneRequest _ _ _ s fun n g x => ?_
    unfold promote
    split
    · split
      · exact refuse _ s (by decide)
      · unfold promoteAnswer
        split <;> exact done _ (RaceOnly.promoteEntry l n g _ _ s).owned
    · exact refuse _ s (by decide)

theorem declareNoFinish (l : Link) (b : Byte) (s : State) : Served s (performDeclareNoFinish l b s) :=
  laneRequest _ _ _ s fun n _ _ => done _ (RaceOnly.finishWithoutTime n (some l) s).owned

theorem enterFinish (l : Link) (b : Byte) (t : Word32) (s : State) : Served s (performEnterFinish l b t s) := by
  refine laneRequest _ _ _ s fun n g x => ?_
  unfold Machine.enterFinish
  split
  · exact refuse _ s (by decide)
  · split
    · exact refuse _ s (by decide)
    · exact done _ ((RaceOnly.addFinalSplit n _ _ s).trans (RaceOnly.finishLane n _ _ _ _)).owned

theorem adjustFinish (l : Link) (b : Byte) (t : Word32) (s : State) : Served s (performAdjustFinish l b t s) := by
  refine laneRequest _ _ _ s fun n g x => ?_
  unfold Machine.adjustFinish
  split
  · split
    · exact refuse _ s (by decide)
    · exact done _ (RaceOnly.replaceFinish l _ _ _ n s).owned
  · exact wrongLane x s
  · exact wrongLane x s

theorem readLane (b : Byte) (s : State) : Served s (performReadLane b s) := laneRequest _ _ _ s fun _ _ _ => read _ s

theorem readSplits (b f : Byte) (s : State) : Served s (performReadSplits b f s) := by
  unfold performReadSplits
  split
  · exact malformed s
  · exact laneRequest _ _ _ s fun _ _ _ => read _ s

theorem holdLane (l : Link) (b : Byte) (s : State) : Served s (performHoldLane l b s) := by
  refine laneRequest _ _ _ s fun n g x => ?_
  dsimp only
  split
  · exact refuse _ s (by decide)
  · exact done _ (RaceOnly.changeDesk n _ _ _ s).owned

theorem unholdLane (l : Link) (b : Byte) (s : State) : Served s (performUnholdLane l b s) := by
  refine laneRequest _ _ _ s fun n g x => ?_
  dsimp only
  split
  · exact done _ ((RaceOnly.changeDesk n _ _ _ s).trans (RaceOnly.releaseCheck n _)).owned
  · exact refuse _ s (by decide)

theorem clearSystemHold (l : Link) (b r : Byte) (s : State) : Served s (performClearSystemHold l b r s) := by
  unfold performClearSystemHold
  split
  · exact malformed s
  · refine laneRequest _ _ _ s fun n g x => ?_
    dsimp only
    split
    · exact refuse _ s (by decide)
    · exact done _ ((RaceOnly.changeDesk n _ _ _ s).trans (RaceOnly.releaseCheck n _)).owned

theorem releaseLane (l : Link) (b : Byte) (s : State) : Served s (performReleaseLane l b s) := by
  refine laneRequest _ _ _ s fun n g x => ?_
  split
  · exact done _ (RaceOnly.releaseLane n _ s).owned
  · exact ⟨Owned.refl s, by simp⟩

theorem disqualify (l : Link) (b c : Byte) (s : State) : Served s (performDisqualify l b c s) := by
  refine laneRequest _ _ _ s fun n g x => ?_
  dsimp only
  split
  · exact refuse _ s (by decide)
  · exact done _ (((RaceOnly.changeDesk n _ _ _ s).trans (RaceOnly.queueLane n _)).trans
      (RaceOnly.replaceIfTimed x _)).owned

theorem reinstate (l : Link) (b : Byte) (s : State) : Served s (performReinstate l b s) := by
  refine laneRequest _ _ _ s fun n g x => ?_
  dsimp only
  split
  · exact refuse _ s (by decide)
  · exact done _ (((RaceOnly.changeDesk n _ _ _ s).trans (RaceOnly.queueLane n _)).trans
      (RaceOnly.replaceIfTimed x _)).owned

theorem setParameter (l : Link) (p : Byte) (v : Word32) (s : State) : Served s (performSetParameter l p v s) := by
  unfold performSetParameter
  split
  · exact malformed s
  · split
    · exact malformed s
    · split
      · exact done _ (Owned.writeParameter l _ _ s)
      · exact invalid _ s

theorem getParameter (p : Byte) (s : State) : Served s (performGetParameter p s) := by
  unfold performGetParameter
  split
  · exact malformed s
  · exact read _ s
  · exact read _ s

theorem setNoticeMask (l : Link) (k : Word16) (s : State) : Served s (performSetNoticeMask l k s) := by
  unfold performSetNoticeMask
  split
  · exact malformed s
  · exact done _ (Owned.setMask l _ s)

theorem readFaults (r : Byte) (s : State) : Served s (performReadFaults r s) := by
  unfold performReadFaults
  split
  · exact malformed s
  all_goals exact read _ s

theorem clearFaults (l : Link) (r : Byte) (s : State) : Served s (performClearFaults l r s) := by
  unfold performClearFaults
  split
  · exact malformed s
  · exact done _ (Owned.clearFaults _ _ _ s)

theorem resetDevice (l : Link) (s : State) : Served s (performResetDevice l s) := by
  have h : Owned s { s with resetPending := some l } := Owned.write s _ rfl rfl rfl rfl rfl rfl rfl
  unfold performResetDevice
  split
  any_goals exact done _ h
  all_goals exact wrongRace s

theorem withBody {α : Type} (r : Reader α) (b : List Byte) (f : α → State → Reply) (s : State)
    (h : ∀ a, Served s (f a s)) : Served s (Machine.withBody r b f s) := by
  unfold Machine.withBody
  split
  · exact malformed s
  · exact h _

theorem withoutBody (b : List Byte) (f : State → Reply) (s : State) (h : Served s (f s)) :
    Served s (Machine.withoutBody b f s) := by
  unfold Machine.withoutBody
  split
  · exact h
  · exact malformed s

/-- Every request, whatever its KIND and body. -/
theorem serve (l : Link) (k : Byte) (b : List Byte) (s : State) : Served s (Machine.serve l k b s) := by
  unfold Machine.serve
  split
  · exact withBody _ _ _ s fun a => stageHeat l a s
  · exact withBody _ _ _ s fun a => withdrawHeat l a s
  · exact withoutBody _ _ s (read _ s)
  · exact withoutBody _ _ s (advance l s)
  · exact withoutBody _ _ s (abandon l s)
  · exact withoutBody _ _ s (startRace l s)
  · exact withBody _ _ _ s fun a => readRace a s
  · exact withBody _ _ _ s fun a => scratchLane l a s
  · exact withBody _ _ _ s fun a => assignEntrant a.1 a.2 s
  · exact withBody _ _ _ s fun a => setLaneTiming a.1 a.2 s
  · exact withBody _ _ _ s fun a => promoteTouch l a.1 a.2 s
  · exact withBody _ _ _ s fun a => declareNoFinish l a s
  · exact withBody _ _ _ s fun a => enterFinish l a.1 a.2 s
  · exact withBody _ _ _ s fun a => adjustFinish l a.1 a.2 s
  · exact withBody _ _ _ s fun a => readLane a s
  · exact withBody _ _ _ s fun a => readSplits a.1 a.2 s
  · exact withBody _ _ _ s fun a => holdLane l a s
  · exact withBody _ _ _ s fun a => unholdLane l a s
  · exact withBody _ _ _ s fun a => clearSystemHold l a.1 a.2 s
  · exact withBody _ _ _ s fun a => releaseLane l a s
  · exact withBody _ _ _ s fun a => disqualify l a.1 a.2 s
  · exact withBody _ _ _ s fun a => reinstate l a s
  · exact withBody _ _ _ s fun a => setParameter l a.1 a.2 s
  · exact withBody _ _ _ s fun a => getParameter a s
  · exact withBody _ _ _ s fun a => setNoticeMask l a s
  · exact withBody _ _ _ s fun a => readFaults a s
  · exact withBody _ _ _ s fun a => clearFaults l a s
  · exact withoutBody _ _ s (resetDevice l s)
  · exact refuse _ s (by decide)

end Served

end Sys2Proof.Machine
end

