-- ==== Sys2Proof/Laws/Requests.lean ====
section
/-! SUPPORT. The arrival of a request, once for all: what it is when taken, when refused BUSY and when the hub does not
run. -/

namespace Sys2Proof.Machine

open Sys2Proof

/-- A taken arrival is its owner's reply, answered. -/
theorem arrive_taken {l : Link} {s : State} (h : Takes l s) (tag kind : Byte) (perform : State → Reply) :
    arrive l tag kind perform s =
      answered l tag kind (perform (counted l s)).result (perform (counted l s)).data (perform (counted l s)).state := by
  have hr : s.refusesArrival l = false := by simp [State.refusesArrival, h.noReset, h.room]
  simp [arrive, event, judgeArrival, take, hr, h.running, answered, counted]

/-- An arrival under a pending reset, or behind four taken requests, is refused BUSY. -/
theorem arrive_refused {l : Link} {s : State} (hp : s.phase = .running) (h : s.refusesArrival l = true) (tag kind : Byte)
    (perform : State → Reply) : arrive l tag kind perform s = settle (refuseBusy l tag kind s) := by
  simp [arrive, event, judgeArrival, h, hp]

/-- A hub that does not run takes nothing. -/
theorem event_idle {s : State} (h : s.phase ≠ .running) (f : State → State) : event f s = s := by
  simp [event, h]

theorem event_running {s : State} (h : s.phase = .running) (f : State → State) : event f s = settle (f s) := by
  simp [event, h]

end Sys2Proof.Machine
end

