-- ==== Sys2Proof/Certificates/Slice0/Obligations.lean ====
section
/-! DEFINITION. The statements about the hub, for the provers. Every taken request is written as `answered l tag kind r data
t`: the state `t` its owner leaves, with the answer `r` and `data` queued on link `l`, at the end of the event. -/

section

open Sys2Proof Sys2Proof.Machine

/-! ## The step, time and the resets -/

/-- The command at the front of the queue is what a step runs, on the state that holds the rest of the queue. -/
def Obligations.StepRunsTheFrontCommand : Prop :=
  ∀ (c : Instr) (rest : List Instr) (s : State), s.pending = c :: rest → step s = exec c { s with pending := rest }

/-- With no command waiting, the model's choice (logs 1 and 3): one of the events fallen due is taken, else a unit passes.
In a running hub deck time rises by one (R18) and every frame in flight has 288 parts of 1/288 of a unit less of line time left
(log 4), and nothing else of it moves; in start-up its time left falls by one; RESETn low lasts one unit longer. No other field
of the state, of the board or of a link moves. -/
def Obligations.EmptyQueueTakesWhatIsDueOrAUnitPasses : Prop :=
  ∀ s : State, s.pending = [] →
    (dueCommands s = [] → step s = .next (tick s)) ∧
    (∀ c, dueCommands s = [c] → step s = exec c s) ∧
    (2 ≤ (dueCommands s).length → ∃ c ∈ dueCommands s, step s = exec c { s with choices := s.choices + 1 }) ∧
    (s.phase = .running →
      tick s =
        { s with
          deckTime := s.deckTime + 1
          resetn := s.resetn.map (· + 1)
          board := { s.board with flight := s.board.flight.map fun f => ⟨f.frame, f.left - 288⟩ }
          links := (tick s).links } ∧
      ∀ l, (tick s).links.get l =
        { s.links.get l with flight := (s.links.get l).flight.map fun f => ⟨f.frame, f.left - 288⟩ }) ∧
    (∀ left cause, s.phase = .startUp left cause →
      tick s = { s with phase := .startUp (left - 1) cause, resetn := s.resetn.map (· + 1) }) ∧
    (s.phase = .held → tick s = { s with resetn := s.resetn.map (· + 1) })

/-- What stands among the events fallen due. In a running hub: a candidate that has lasted its deglitch time (R136), a line
ACTIVE for StuckTime (R143), a retry timer run out (R153), a collection CollectTime past its opening (R86), overtime
(R33), the advance timer (R24), the clock, freeze and idle timers (R169 to R171), a frame 5 ms without a byte (R177), which
log 5 counts as 50 whole units of deck time, a frame in flight sent whole (R162, R180), which is one with no line time left by
log 4, and RESETn low for 5 ms (R187; log 5). In start-up: its end, exactly when none of its 200 ms is left, and RESETn low for
5 ms, nothing else (R187). In a part held in reset: nothing, its long pulse being recognised already. -/
def Obligations.WhatFallsDue : Prop :=
  (∀ (s : State) (left : Nat) (cause : StartCause), s.phase = .startUp left cause →
    (.startUpEnd ∈ dueCommands s ↔ left = 0) ∧
    (.longResetnPulse ∈ dueCommands s ↔ ∃ n, s.resetn = some n ∧ 50 ≤ n) ∧
    ∀ c ∈ dueCommands s, c = .startUpEnd ∨ c = .longResetnPulse) ∧
  (∀ s : State, s.phase = .held → dueCommands s = []) ∧
  ∀ s : State, s.phase = .running →
    .startUpEnd ∉ dueCommands s ∧
    (∀ l, .candidateCompletes l ∈ dueCommands s ↔
      ∃ c, (s.decoder l).candidate = some c ∧ s.params.deglitch l (s.decoder l).counted c.level ≤ elapsed c.since s.deckTime) ∧
    (∀ l, .stuckTimerExpiry l ∈ dueCommands s ↔
      (s.decoder l).stuck = .running ∧ s.params.stuckTime ≤ elapsed (s.decoder l).since s.deckTime) ∧
    (∀ i, .retryExpiry i ∈ dueCommands s ↔
      (s.faults.get i).state = .retryTiming ∧ ∃ t c n, (s.faults.get i).retryStart = some t ∧
        (s.faults.get i).serviceClass = some c ∧ s.params.retryTime (s.params.mode c) = some n ∧ n ≤ elapsed t s.deckTime) ∧
    (∀ n, .collecttimeExpiry n ∈ dueCommands s ↔
      ∃ h c, s.heat = some h ∧ (h.lanes.get n).state = .collect ∧ (h.lanes.get n).collection = some c ∧
        c.opening + h.definition.collectTime ≤ h.raceTime s.deckTime) ∧
    (.overtimeExpiry ∈ dueCommands s ↔
      ∃ h, s.heat = some h ∧ h.phase = .running ∧ h.overtimeTimer = true ∧
        s.params.raceTimeLimit ≤ h.raceTime s.deckTime) ∧
    (.advanceTimerExpiry ∈ dueCommands s ↔
      ∃ h t, s.heat = some h ∧ h.advance = some t ∧ t.limit ≤ elapsed t.start s.deckTime) ∧
    (.clockTimerExpiry ∈ dueCommands s ↔
      ∃ t, s.board.clockTimer = some t ∧ t.limit ≤ elapsed t.start s.deckTime) ∧
    (.idleTimerExpiry ∈ dueCommands s ↔
      ∃ t, s.board.idleTimer = some t ∧ t.limit ≤ elapsed t.start s.deckTime) ∧
    (.freezeTimerExpiry ∈ dueCommands s ↔
      ∃ z, s.board.freeze = some z ∧ z.timer.limit ≤ elapsed z.timer.start s.deckTime) ∧
    (∀ l, .gapExpiry l ∈ dueCommands s ↔
      ∃ bytes last, (s.links.get l).framer = .frame bytes last ∧ 50 ≤ elapsed last s.deckTime) ∧
    (.boardTransmissionCompletes ∈ dueCommands s ↔ ∃ f, s.board.flight = some ⟨f, 0⟩) ∧
    (∀ l, .linkTransmissionCompletes l ∈ dueCommands s ↔ ∃ f, (s.links.get l).flight = some ⟨f, 0⟩) ∧
    (.longResetnPulse ∈ dueCommands s ↔ ∃ n, s.resetn = some n ∧ 50 ≤ n)

/-- The state after a power-on reset: start-up of 200 ms begins (R187), every parameter at its default (R184), no race and
an empty queue (R11), every fault record CLEAR (R148), board (R174) and links (R187) at rest, every mask full (R183). -/
def Obligations.ResetLeavesTheStatedValues : Prop :=
  State.reset.phase = .startUp 2000 .powerOn ∧
  State.reset.heat = none ∧ State.reset.queue = [] ∧ State.reset.resetPending = none ∧ State.reset.pending = [] ∧
  (∀ p, State.reset.params.value p = p.default) ∧
  (∀ i, State.reset.faults.get i = ⟨.clear, .none, none, false, none, none⟩) ∧
  (∀ l, State.reset.linkFaults.get l = ⟨none, false⟩) ∧
  State.reset.board = ⟨none, none, [], false, [], false, none, none, false, false, none⟩ ∧
  ∀ l, (State.reset.links.get l).framer = .hunt ∧ (State.reset.links.get l).unanswered = 0 ∧
    (State.reset.links.get l).answers = [] ∧ (State.reset.links.get l).notices = [] ∧
    (State.reset.links.get l).lost = false ∧ (State.reset.links.get l).flight = none ∧
    ∀ k, (State.reset.links.get l).admits k = true

/-- The end of start-up: deck time 0 (R18), the decoders begun (R145), STARTED in flight on every link (R187), an IDLE
frame in flight and the idle timer started (R171, R174); parameters, masks, fault records and RESETn stay. That START_UP_END
ends start-up whatever time of it is left is the model's choice (log 4). -/
def Obligations.StartUpEnds : Prop :=
  ∀ (s : State) (left : Nat) (cause : StartCause) (m : Link → List NoticeKind),
    s.phase = .startUp left cause → ResetTo s.params m s s →
    ∃ t, exec .startUpEnd s = .next t ∧ t.phase = .running ∧ t.deckTime = 0 ∧
      (∀ l, beginsAs l (s.decoder l) (t.decoder l)) ∧
      (∀ l, ((t.links.get l).flight.map LinkFlight.frame = some (.notice ⟨false, .started cause⟩)) ∧
        (t.links.get l).framer = .hunt ∧ (t.links.get l).unanswered = 0 ∧ (t.links.get l).answers = [] ∧
        (t.links.get l).notices = [] ∧ (t.links.get l).lost = false ∧ (t.links.get l).mask = m l) ∧
      t.board.flight.map BoardFlight.frame = some (.idle s.params.idlePattern) ∧ t.board.idleDue = false ∧
      t.board.idleTimer = some ⟨0, s.params.idleInterval⟩ ∧ t.board.events = [] ∧ t.board.laneQueue = [] ∧
      t.board.lastKind = none ∧ t.board.headerPending = false ∧ t.board.clockDue = false ∧
      t.heat = none ∧ t.queue = [] ∧ t.params = s.params ∧ t.faults = s.faults ∧ t.linkFaults = s.linkFaults ∧
      t.resetPending = none ∧ t.resetn = s.resetn ∧ t.pending = s.pending

/-- A power-on reset is a full one whose start-up begins at it, cause POWER_ON, whatever the part did and however RESETn stands
(R187). That a low level of RESETn is timed from the supply's coming up is the model's choice (log 10). -/
def Obligations.PowerOnReset : Prop :=
  ∀ s : State, ∃ t, exec .powerOnReset s = .next t ∧ ResetTo Params.default (fun _ => NoticeKind.maskable) s t ∧
    t.phase = .startUp 2000 .powerOn ∧ t.resetn = s.resetn.map (fun _ => 0) ∧ t.pending = s.pending

/-- RESETn by the length of its low level (R158, R187): below 20 µs nothing but the pin; below 5 ms CLEAR FAULTS of ALL in
a running hub, as `FaultsCleared` says (R157), with no requesting link; held for 5 ms a full reset, whose start-up begins when
the pin returns high. A pin that is high already stays so, and nothing happens. The model's choices: the low time
in units and microseconds (log 5), LONG_RESETN_PULSE changing nothing before 5 ms, in a part held already and with the pin high (log 2), and the full reset by RESETN_HIGH
alone after 5 ms (log 29). -/
def Obligations.ResetnPulses : Prop :=
  (∀ s : State, s.resetn = none → exec .resetnLow s = .next { s with resetn := some 0 }) ∧
  (∀ (s : State) (n : Nat), s.resetn = some n → exec .resetnLow s = .next s) ∧
  (∀ (s : State) (n : Nat), s.resetn = some n → s.phase ≠ .held → 50 ≤ n →
    ∃ t, exec .longResetnPulse s = .next t ∧ t.phase = .held ∧ t.resetn = some n ∧ t.pending = s.pending ∧
      ResetTo Params.default (fun _ => NoticeKind.maskable) s t) ∧
  (∀ (s : State) (n : Nat), s.resetn = some n → n < 50 → exec .longResetnPulse s = .next s) ∧
  (∀ s : State, s.resetn = none ∨ s.phase = .held → exec .longResetnPulse s = .next s) ∧
  (∀ (s : State) (micros : Nat), s.resetn = none → exec (.resetnHigh micros) s = .next s) ∧
  (∀ (s : State) (n micros : Nat), s.resetn = some n → s.phase = .held →
    exec (.resetnHigh micros) s = .next { s with resetn := none, phase := .startUp 2000 .resetn }) ∧
  (∀ (s : State) (n micros : Nat), s.resetn = some n → s.phase ≠ .held → 100 * n + micros < 20 →
    exec (.resetnHigh micros) s = .next { s with resetn := none }) ∧
  (∀ (s : State) (n micros : Nat), s.resetn = some n → s.phase = .running → 20 ≤ 100 * n + micros →
    100 * n + micros < 5000 →
    ∃ t, exec (.resetnHigh micros) s = .next (settle t) ∧
      FaultsCleared (fun _ => true) (fun _ => true) none { s with resetn := none } t) ∧
  (∀ (s : State) (n micros left : Nat) (cause : StartCause), s.resetn = some n → s.phase = .startUp left cause →
    100 * n + micros < 5000 → exec (.resetnHigh micros) s = .next { s with resetn := none }) ∧
  (∀ (s : State) (n micros : Nat), s.resetn = some n → s.phase ≠ .held → 5000 ≤ 100 * n + micros →
    ∃ t, exec (.resetnHigh micros) s = .next t ∧ t.phase = .startUp 2000 .resetn ∧ t.resetn = none ∧
      ResetTo Params.default (fun _ => NoticeKind.maskable) s t)

/-- RESET DEVICE (R186): taken in EMPTY, LOADED and FINAL, it leaves a reset pending; in MARKS, RUNNING and REVIEW it is refused
WRONG_STATE with the race state. The reset begins in the event in which its DONE answer has been sent: parameters and masks keep
their values, all else is as after any reset. The model's choices: DEVICE_RESET_BEGINS is that same event (log 23), and both
commands complete the answer whatever line time is left of it (log 4). -/
def Obligations.ResetDeviceAndItsReset : Prop :=
  (∀ (l : Link) (tag : Byte) (s : State), Takes l s →
    (s.raceState = .empty ∨ s.raceState = .loaded ∨ s.raceState = .final →
      exec (.resetDevice l tag) s =
        .next (answered l tag 0x1C .done [] { counted l s with resetPending := some l })) ∧
    (s.raceState = .marks ∨ s.raceState = .running ∨ s.raceState = .review →
      exec (.resetDevice l tag) s =
        .next (answered l tag 0x1C .wrongState [0, byteOf s.raceState.code] (counted l s)))) ∧
  (∀ (l : Link) (tag : Byte) (data : List Byte) (left : Nat) (s : State), s.phase = .running → s.resetPending = some l →
    (s.links.get l).flight = some ⟨.answer ⟨tag, 0x1C, .done, data⟩, left⟩ →
    ∃ t, exec .deviceResetBegins s = .next t ∧ exec (.linkTransmissionCompletes l) s = .next t ∧
      t.phase = .startUp 2000 (.resetDevice l) ∧ t.resetn = s.resetn ∧ t.pending = s.pending ∧
      ResetTo s.params (fun k => (s.links.get k).mask) s t)

/-- In reset and start-up no command but a level of a line, a reset's own and the end of start-up changes anything: no byte
is received, no request taken, no timer expires (R145, R187). -/
def Obligations.NothingIsTakenInReset : Prop :=
  ∀ (c : Instr) (s : State), s.phase ≠ .running → c.wellFormed = true →
    (∀ l v, c ≠ .sensedLevelChange l v) → (∀ n, c ≠ .resetnHigh n) →
    c ≠ .powerOnReset → c ≠ .resetnLow → c ≠ .longResetnPulse → c ≠ .startUpEnd → exec c s = .next s

/-! ## The console links -/

/-- An arrival while a reset is pending, or behind four taken requests unanswered, is refused BUSY and reaches no block; with
four BUSY refusals waiting it gets no answer at all (R178). -/
def Obligations.ArrivalsRefusedBusy : Prop :=
  ∀ (c : Instr) (l : Link) (tag kind : Byte) (s : State), requestOf c = some (l, tag, kind) →
    (∀ k t m, c = .unknownRequest k t m → requestKinds.contains m = false) →
    s.phase = .running → s.resetPending ≠ none ∨ 4 ≤ (s.links.get l).unanswered →
    (busyCount (s.links.get l).answers < 4 →
      exec c s = .next (settle (s.modLink l fun u => { u with answers := u.answers ++ [⟨tag, kind, .busy, []⟩] }))) ∧
    (4 ≤ busyCount (s.links.get l).answers → exec c s = .next (settle s))

/-- A taken request whose body breaks a convention or carries a number outside its set is answered MALFORMED, one whose KIND
names no request UNKNOWN_REQUEST; both count as taken and change nothing else (R179). A term that names a request's KIND as
unknown is no command: the model's own stop (log 24). -/
def Obligations.MalformedAndUnknownRequests : Prop :=
  (∀ (c : Instr) (l : Link) (tag kind : Byte) (s : State), requestOf c = some (l, tag, kind) → Takes l s →
    (∀ k t m, c ≠ .unknownRequest k t m) → c.wellFormed = false →
    exec c s = .next (answered l tag kind .malformed [] (counted l s))) ∧
  (∀ (l : Link) (tag kind : Byte) (s : State), Takes l s → kind ∉ requestKinds →
    exec (.unknownRequest l tag kind) s = .next (answered l tag kind .unknownRequest [] (counted l s))) ∧
  (∀ (l : Link) (tag kind : Byte) (s : State), kind ∈ requestKinds →
    exec (.unknownRequest l tag kind) s = .fault .kindNamesARequest)

/-- The checks 1 to 3 of R47 and R123, by request and lane state: outside lanes 0 to 9 MALFORMED, in EMPTY WRONG_STATE with
the race state, else what the tables say. A refused request changes nothing. -/
def Obligations.LaneRequestsFollowTheirTables : Prop :=
  ∀ (c : Instr) (l : Link) (tag kind b : Byte) (s : State), requestOf c = some (l, tag, kind) → laneOf c = some b →
    Takes l s →
    (10 ≤ b.toNat → exec c s = .next (answered l tag kind .malformed [] (counted l s))) ∧
    (c.wellFormed = true → s.heat = none → exec c s = .next (answered l tag kind .wrongState [0, 0] (counted l s))) ∧
    (∀ (h : Heat) (n : LaneNo) (r : Result), c.wellFormed = true → s.heat = some h → b.toNat = n.val →
      refusalByTable c (h.lanes.get n).state = some r →
      exec c s = .next (answered l tag kind r (refusalData r (h.lanes.get n).state) (counted l s)))

/-- Bytes in a running receiver that end no frame (R176): HUNT skips every byte but SYNC; a LEN byte of 2 to 250 and every further byte
of a frame join its buffer, and the framer alone changes. A frame is discarded at a bad LEN, at a second CRC byte that does not
fit, and 5 ms after its last byte: HUNT, and under REPORT one LINK_FRAME condition with its FAULT notice (R154, R177). A gap timer
that has not run out expires nothing (log 2). The model's choices: the cause BEGIN without a link (log 32), the gap in whole
units of deck time (log 5). -/
def Obligations.ReceiveFramer : Prop :=
  (∀ (l : Link) (b : Byte) (s : State), s.phase = .running →
    ((s.links.get l).framer = .hunt → b ≠ 0xC3 → exec (.receivedByte l b) s = .next (settle s)) ∧
    ((s.links.get l).framer = .hunt → b = 0xC3 →
      exec (.receivedByte l b) s = .next (settle (setFramer l (.frame [] s.deckTime) s))) ∧
    (∀ last, (s.links.get l).framer = .frame [] last → 2 ≤ b.toNat → b.toNat ≤ 250 →
      exec (.receivedByte l b) s = .next (settle (setFramer l (.frame [b] s.deckTime) s))) ∧
    (∀ len rest last, (s.links.get l).framer = .frame (len :: rest) last → rest.length + 2 < len.toNat + 3 →
      exec (.receivedByte l b) s = .next (settle (setFramer l (.frame (len :: rest ++ [b]) s.deckTime) s)))) ∧
  (∀ (l : Link) (s : State), s.phase = .running →
    (∀ b last, (s.links.get l).framer = .frame [] last → b.toNat < 2 ∨ 250 < b.toNat →
      exec (.receivedByte l b) s = .next (settle (afterDiscard l .length s))) ∧
    (∀ len bytes high low last, (s.links.get l).framer = .frame (len :: bytes ++ [high]) last →
      bytes.length = len.toNat → (high ≠ crcHigh (crc16 (len :: bytes)) ∨ low ≠ crcLow (crc16 (len :: bytes))) →
      exec (.receivedByte l low) s = .next (settle (afterDiscard l .crc s))) ∧
    (∀ bytes last, (s.links.get l).framer = .frame bytes last → 50 ≤ elapsed last s.deckTime →
      exec (.gapExpiry l) s = .next (settle (afterDiscard l .gap s))) ∧
    ((s.links.get l).framer = .hunt ∨
        (∃ bytes last, (s.links.get l).framer = .frame bytes last ∧ elapsed last s.deckTime < 50) →
      exec (.gapExpiry l) s = .next (settle s)))

/-- A request laid out by R189 to R191 and received byte by byte is its row: when the last byte of its frame arrives, the
event is that of the request itself, with the framer in HUNT. The bodies not tabulated by R191 are laid out as log 17
says. -/
def Obligations.FramedRequestIsItsRow : Prop :=
  ∀ (c : Instr) (l : Link) (tag kind : Byte) (last : DeckTime) (s : State), requestOf c = some (l, tag, kind) →
    c.wellFormed = true → (requestBody c).length ≤ 248 → s.phase = .running →
    (s.links.get l).framer = .frame (frameBuffer tag kind (requestBody c)) last →
    exec (.receivedByte l (lastByte tag kind (requestBody c))) s = exec c (setFramer l .hunt s)

/-- A frame of a link sent whole frees its transmitter; the answer to a taken request leaves the count, a BUSY refusal and a
notice do not (R178, R180). That the completion is taken whatever line time is left of the frame, and does nothing with nothing in
flight, is the model's choice (log 4). The DONE answer to RESET DEVICE on its own link
is the case of `ResetDeviceAndItsReset`. -/
def Obligations.LinkTransmissionCompletes : Prop :=
  ∀ (l : Link) (s : State), s.phase = .running →
    (∀ tag data left, s.resetPending = some l →
      (s.links.get l).flight ≠ some ⟨.answer ⟨tag, 0x1C, .done, data⟩, left⟩) →
    (∀ a left, (s.links.get l).flight = some ⟨.answer a, left⟩ → a.result ≠ .busy →
      exec (.linkTransmissionCompletes l) s =
        .next (settle (s.modLink l fun u => { u with flight := none, unanswered := u.unanswered - 1 }))) ∧
    (∀ a left, (s.links.get l).flight = some ⟨.answer a, left⟩ → a.result = .busy →
      exec (.linkTransmissionCompletes l) s = .next (settle (s.modLink l fun u => { u with flight := none }))) ∧
    (∀ q left, (s.links.get l).flight = some ⟨.notice q, left⟩ →
      exec (.linkTransmissionCompletes l) s = .next (settle (s.modLink l fun u => { u with flight := none }))) ∧
    ((s.links.get l).flight = none → exec (.linkTransmissionCompletes l) s = .next (settle s))

/-- The arbiters at the end of an event, `settle`: a SENDING link transmitter keeps its frame; a QUIET one takes the head of
the answer queue, else of the notice queue, with the frame's line time of 10 bits a byte (R180). Nothing else of the link
changes, and nothing of the state but links and board. -/
def Obligations.LinkArbiter : Prop :=
  ∀ (s : State) (l : Link),
    ((settle s).phase = s.phase ∧ (settle s).deckTime = s.deckTime ∧ (settle s).heat = s.heat ∧
      (settle s).queue = s.queue ∧ (settle s).params = s.params ∧ (settle s).decoders = s.decoders ∧
      (settle s).faults = s.faults ∧ (settle s).linkFaults = s.linkFaults ∧ (settle s).resetn = s.resetn ∧
      (settle s).resetPending = s.resetPending ∧ (settle s).pending = s.pending) ∧
    (∀ f, (s.links.get l).flight = some f → (settle s).links.get l = s.links.get l) ∧
    (∀ a as, (s.links.get l).flight = none → (s.links.get l).answers = a :: as →
      (settle s).links.get l =
        { s.links.get l with
          answers := as
          flight := some ⟨.answer a, (LinkFrame.answer a).bytes.length * 125⟩ }) ∧
    (∀ q qs, (s.links.get l).flight = none → (s.links.get l).answers = [] → (s.links.get l).notices = q :: qs →
      (settle s).links.get l =
        { s.links.get l with
          notices := qs
          flight := some ⟨.notice q, (LinkFrame.notice q).bytes.length * 125⟩ }) ∧
    ((s.links.get l).flight = none → (s.links.get l).answers = [] → (s.links.get l).notices = [] →
      (settle s).links.get l = s.links.get l)

/-- A notice raised, `raise`: each link whose mask admits its kind queues it at the tail with LOST set exactly when the lost flag
was, which it clears; behind 32 notices it is dropped and the lost flag set; an excluded notice does nothing (R181, R182). STARTED
is admitted by every mask. SET NOTICE MASK replaces the requesting link's mask by the kinds named, STARTED passed over, and answers
it (R183); that the mask answered shows STARTED, bit 0, clear is the model's choice (log 41). -/
def Obligations.NoticesAndMasks : Prop :=
  (∀ (n : Notice) (s : State) (l : Link),
    (n.kind ≠ .started → n.kind ∉ (s.links.get l).mask → (raise n s).links.get l = s.links.get l) ∧
    (n.kind = .started ∨ n.kind ∈ (s.links.get l).mask → (s.links.get l).notices.length < 32 →
      (raise n s).links.get l =
        { s.links.get l with notices := (s.links.get l).notices ++ [⟨(s.links.get l).lost, n⟩], lost := false }) ∧
    (n.kind = .started ∨ n.kind ∈ (s.links.get l).mask → 32 ≤ (s.links.get l).notices.length →
      (raise n s).links.get l = { s.links.get l with lost := true }) ∧
    raise n s = { s with links := (raise n s).links }) ∧
  (∀ (l : Link) (tag : Byte) (kinds : Word16) (s : State), Takes l s → kinds.toNat < 0x4000 →
    ∃ m, (∀ k : NoticeKind, k ∈ m ↔ k ≠ .started ∧ kinds.getLsbD (k.code - 0x40) = true) ∧
      exec (.setNoticeMask l tag kinds) s =
        .next (answered l tag 0x19 .done (maskBytes m)
          ((counted l s).modLink l fun u => { u with mask := m })))

/-! ## Reads and parameters -/

/-- READ RACE, READ LANE and READ FAULTS answer the items of R38, R60 and R156 as the state holds them, in the order and layout of
R191, and change nothing. The layout of READ FAULTS of one record is the model's choice (log 17). The lane reads in EMPTY are
refused by `LaneRequestsFollowTheirTables`. -/
def Obligations.ReadsChangeNothing : Prop :=
  ∀ (l : Link) (tag : Byte) (s : State), Takes l s →
    exec (.readRace l tag 0) s = .next (answered l tag 0x07 .done (raceItems s) (counted l s)) ∧
    exec (.readRace l tag 1) s = .next (answered l tag 0x07 .done (assignmentItems s) (counted l s)) ∧
    (∀ (b : Byte) (n : LaneNo) (h : Heat), b.toNat = n.val → s.heat = some h →
      exec (.readLane l tag b) s = .next (answered l tag 0x0F .done (laneItems h n s.deckTime) (counted l s))) ∧
    exec (.readFaults l tag 0xFF) s = .next (answered l tag 0x1A .done (faultItems s) (counted l s)) ∧
    (∀ (b : Byte) (i : Fin 71), b.toNat = i.val →
      exec (.readFaults l tag b) s = .next (answered l tag 0x1A .done (inputItems s i) (counted l s))) ∧
    (∀ (b : Byte) (k : Link), b.toNat = 71 + k.code →
      exec (.readFaults l tag b) s =
        .next (answered l tag 0x1A .done
          [0, 1, 0, byteOf (((s.linkFaults.get k).last.map Discard.code).getD 0xFF), if (s.linkFaults.get k).seen then 1 else 0, 0]
          (counted l s)))

/-- LIST QUEUE answers the number of queued definitions and one summary for each from the head: heat ID, N, pool length, L,
start kind, OPEN lanes and staging link; it changes no state (R14). -/
def Obligations.ListQueueSummarises : Prop :=
  ∀ (l : Link) (tag : Byte) (s : State), Takes l s →
    exec (.listQueue l tag) s =
      .next (answered l tag 0x03 .done
        (byteOf s.queue.length ::
          (s.queue.map fun q =>
            le2 q.definition.id.event.toNat ++ [q.definition.id.heat] ++
              [byteOf q.definition.lengths, byteOf q.definition.poolLength, byteOf q.definition.legs,
                byteOf q.definition.startKind.code] ++
              laneSetBytes q.definition.openLanes ++ [byteOf q.link.code]).flatten)
        (counted l s))

/-- READ SPLITS: a first length outside 1 to 64 is MALFORMED; in EMPTY it is refused; else, in every lane state, DONE with
the lane, the size of the split list and its entries from length f onward, at most 24, none when f exceeds the size; it
changes no state (R61; the entry in position k is for length k, R57). The count byte before the page is the model's choice
(log 17). -/
def Obligations.ReadSplitsPages : Prop :=
  ∀ (l : Link) (tag b f : Byte) (s : State), Takes l s →
    (f.toNat < 1 ∨ 64 < f.toNat → exec (.readSplits l tag b f) s = .next (answered l tag 0x10 .malformed [] (counted l s))) ∧
    (∀ n : LaneNo, b.toNat = n.val → 1 ≤ f.toNat → f.toNat ≤ 64 → s.heat = none →
      exec (.readSplits l tag b f) s = .next (answered l tag 0x10 .wrongState [0, 0] (counted l s))) ∧
    (∀ (n : LaneNo) (h : Heat), b.toNat = n.val → 1 ≤ f.toNat → f.toNat ≤ 64 → s.heat = some h →
      ∃ page, page = (((h.lanes.get n).splits.drop (f.toNat - 1)).take 24) ∧ page.length ≤ 24 ∧
        ((h.lanes.get n).splits.length < f.toNat → page = []) ∧
        exec (.readSplits l tag b f) s =
          .next (answered l tag 0x10 .done
            ([b, byteOf (h.lanes.get n).splits.length] ++ byteOf page.length :: (page.map SplitEntry.bytes).flatten)
            (counted l s)))

/-- GET PARAMETER: one parameter's value and range, or the 39 values in identifier order for ALL; an unknown identifier is
MALFORMED; it changes no state (R185). The range as two bounds, low then high, and the 39 values without a count byte are the
model's choice (log 17). -/
def Obligations.GetParameterAnswers : Prop :=
  ParamId.all.length = 39 ∧ ∀ (l : Link) (tag b : Byte) (s : State), Takes l s →
    (b = 0xFF →
      exec (.getParameter l tag b) s =
        .next (answered l tag 0x18 .done (ParamId.all.map fun p => le4Int (s.params.value p)).flatten (counted l s))) ∧
    (∀ p : ParamId, b.toNat = p.code →
      exec (.getParameter l tag b) s =
        .next (answered l tag 0x18 .done (le4Int (s.params.value p) ++ le4Int p.range.1 ++ le4Int p.range.2)
          (counted l s))) ∧
    (39 ≤ b.toNat → b ≠ 0xFF →
      exec (.getParameter l tag b) s = .next (answered l tag 0x18 .malformed [] (counted l s)))

/-- SET PARAMETER (R184): a value outside the range is refused INVALID, code RANGE, with the parameter named, and changes
nothing; a value within it replaces the old one and no other, and is answered DONE with the old and the new value. For a
parameter that no owner acts on when it is written, or a value equal to the one held, its PARAMETER_CHANGED notice is all
that follows. A new class mode moves each fault record that concerns the class by the table of R159; a new retry time, StuckTime
or deglitch time takes the retry timers (R153), stuck timers (R143) and candidates (R138) that have already run that long. After
PARAMETER_CHANGED, each of these raises the FAULT notices of the records it changes, in input order and before any notice of
another kind (R155): MODE, RETRY_EXPIRY, BEGIN of STUCK, and END, BEGIN or KIND of the conditions of the levels counted. The
model's choices: that a MODE notice names the class written (log 39), all reports before the deck events (log 21), the two
notices of a stuck line that faults (log 13), that a retry expiry judges a condition of another class as R159 does (log 27). -/
def Obligations.SetParameterWrites : Prop :=
  (∀ (l : Link) (tag : Byte) (p : ParamId) (w : Word32) (v : Int) (s : State), Takes l s → decodeParamValue p w = some v →
    p.admits v = true → v ≠ s.params.value p → p ≠ .raceTimeLimit →
    ∃ t, exec (.setParameter l tag (byteOf p.code) w) s =
        .next (answered l tag 0x17 .done (le4Int (s.params.value p) ++ le4Int v) t) ∧
      FaultsNoticed
        (.parameterChanged p (s.params.value p) v l :: allInputs.flatMap (writeRaised p v s t)) (counted l s) t) ∧
  (∀ (l : Link) (tag : Byte) (p : ParamId) (w : Word32) (v : Int) (s : State), Takes l s → decodeParamValue p w = some v →
    p.admits v = true → v ≠ s.params.value p →
    ∃ t, exec (.setParameter l tag (byteOf p.code) w) s = .next t ∧ OwnersFollow p v s t) ∧
  ∀ (l : Link) (tag : Byte) (p : ParamId) (w : Word32) (v : Int) (s : State), Takes l s → decodeParamValue p w = some v →
    (p.admits v = false →
      exec (.setParameter l tag (byteOf p.code) w) s =
        .next (answered l tag 0x17 .invalid [6, byteOf p.code, 0, 0, 0, 0, 0] (counted l s))) ∧
    (p.admits v = true →
      ∃ t, exec (.setParameter l tag (byteOf p.code) w) s = .next t ∧ t.params.value p = v ∧
        (∀ q, q ≠ p → t.params.value q = s.params.value q) ∧
        t.phase = s.phase ∧ t.deckTime = s.deckTime ∧ t.queue = s.queue ∧ t.linkFaults = s.linkFaults ∧
        t.resetn = s.resetn ∧ t.resetPending = s.resetPending ∧ t.pending = s.pending ∧
        (t.links.get l).outgoing =
          (s.links.get l).outgoing ++ [⟨tag, 0x17, .done, le4Int (s.params.value p) ++ le4Int v⟩] ∧
        ∀ k, k ≠ l → (t.links.get k).outgoing = (s.links.get k).outgoing) ∧
    (p.admits v = true → p.quiet = true ∨ v = s.params.value p →
      exec (.setParameter l tag (byteOf p.code) w) s =
        .next (answered l tag 0x17 .done (le4Int (s.params.value p) ++ le4Int v)
          (raise (.parameterChanged p (s.params.value p) v l) { counted l s with params := s.params.write p v })))

/-- AutoAdvance written (R24): turned on in FINAL with advance pending clear, it starts the advance timer with the AdvanceDelay of that
moment; turned off, it clears advance pending; else the race stays as it is. RaceTimeLimit written in RUNNING to or below the race
time is followed by overtime as an event of its own (R34; when both happen, log 22); above it, the timer runs on. -/
def Obligations.WritesTheRaceFollows : Prop :=
  (∀ (l : Link) (tag : Byte) (s : State) (h : Heat), Takes l s → s.heat = some h →
    (s.params.autoAdvance = false → h.phase = .final → h.advance = none →
      ∃ t, exec (.setParameter l tag 18 1) s = .next t ∧
        t.heat = some { h with advance := some ⟨s.deckTime, s.params.advanceDelay⟩ }) ∧
    (s.params.autoAdvance = false → h.phase ≠ .final ∨ h.advance ≠ none →
      ∃ t, exec (.setParameter l tag 18 1) s = .next t ∧ t.heat = some h) ∧
    (s.params.autoAdvance = true →
      ∃ t, exec (.setParameter l tag 18 0) s = .next t ∧ t.heat = some { h with advance := none })) ∧
  (∀ (l : Link) (tag : Byte) (w : Word32) (s : State) (h : Heat), Takes l s → s.heat = some h →
    600000 ≤ w.toNat → w.toNat ≤ 59400000 →
    (h.phase = .running → h.overtimeTimer = true → w.toNat ≤ h.raceTime s.deckTime → w.toNat ≠ s.params.raceTimeLimit →
      ∃ t g, exec (.setParameter l tag 17 w) s = .next t ∧ t.params.raceTimeLimit = w.toNat ∧ t.heat = some g ∧
        g.overtimeFlag = true ∧ ∀ n, (g.lanes.get n).state ≠ .swimming) ∧
    (h.phase ≠ .running ∨ h.raceTime s.deckTime < w.toNat →
      ∃ t, exec (.setParameter l tag 17 w) s = .next t ∧ t.params.raceTimeLimit = w.toNat ∧ t.heat = some h))

/-! ## The heat queue and the race -/

/-- The leg check of R8, by the model's `badLegAt`: none for a well-formed list, else the position, from 1, of the first
segment that breaks a condition; in a well-formed list every leg from 1 to the last has a segment, and the boundary after every
leg but the last exists and lies before the end of the race. -/
def Obligations.LegOrderCheck : Prop :=
  (∀ ss, badLegAt ss = none ↔ ∀ i, breaksLegOrder ss i = false) ∧
  (∀ ss p, badLegAt ss = some p ↔ ∃ i, p = i + 1 ∧ breaksLegOrder ss i = true ∧ ∀ j, j < i → breaksLegOrder ss j = false) ∧
  (∀ ss last leg, badLegAt ss = none → ss.getLast? = some last → 1 ≤ leg → leg ≤ last.leg → ∃ s ∈ ss, s.leg = leg) ∧
  (∀ (d : Definition) (leg : Nat), badLegAt d.segments = none → (∀ g ∈ d.segments, 1 ≤ g.lengths) → 2 ≤ leg →
    leg ≤ d.legs → ∃ m, d.boundary leg = some m ∧ m < planSum d.segments)

/-- STAGE HEAT (R2, R12), the definition filled from the defaults of that moment: INVALID, DUPLICATE and QUEUE_FULL in that
order, changing nothing; else the definition joins the tail with its link, STAGED is raised, and with AutoAdvance on in EMPTY
the head is loaded in the same event. DONE carries the heat ID and the number queued at the end. -/
def Obligations.StageHeatDecides : Prop :=
  ∀ (l : Link) (tag : Byte) (b : HeatBody) (c : HeatCodes) (d : Definition) (s : State), Takes l s →
    decodeHeatCodes b = some c → d = fillDefinition s.params b c →
    (∀ v, d.invalid = some v →
      exec (.stageHeat l tag b) s =
        .next (answered l tag 0x01 .invalid
          ([byteOf v.check.code, byteOf (v.field.getD 0xFF), byteOf v.index] ++ le4 v.value) (counted l s))) ∧
    (d.invalid = none → d.id ∈ s.heatIds →
      exec (.stageHeat l tag b) s = .next (answered l tag 0x01 .duplicate [] (counted l s))) ∧
    (d.invalid = none → d.id ∉ s.heatIds → 4 ≤ s.queue.length →
      exec (.stageHeat l tag b) s = .next (answered l tag 0x01 .queueFull [] (counted l s))) ∧
    (d.invalid = none → d.id ∉ s.heatIds → s.queue.length < 4 → s.params.autoAdvance = false ∨ s.heat ≠ none →
      exec (.stageHeat l tag b) s =
        .next (answered l tag 0x01 .done (d.id.bytes ++ [byteOf (s.queue.length + 1)])
          (raise (.queueChange .staged d.id (some l) (s.queue.length + 1))
            { counted l s with queue := s.queue ++ [⟨d, l⟩] }))) ∧
    (d.invalid = none → d.id ∉ s.heatIds → s.queue.length < 4 → s.params.autoAdvance = true → s.heat = none →
      ∃ e rest t, s.queue ++ [⟨d, l⟩] = e :: rest ∧
        Loaded (some l) e rest
          (raise (.queueChange .staged d.id (some l) (s.queue.length + 1))
            { counted l s with queue := s.queue ++ [⟨d, l⟩] }) t ∧
        exec (.stageHeat l tag b) s =
          .next (answered l tag 0x01 .done (d.id.bytes ++ [byteOf s.queue.length]) t))

/-- WITHDRAW HEAT (R13), in every race state: a queued ID leaves the queue, the others keeping their order, DONE carries the
number left and WITHDRAWN is raised; the current race's ID, not queued, is refused WRONG_STATE with the race state; another is
NOT_FOUND. The race, an advance delay that runs in it included, stays as it is. -/
def Obligations.WithdrawHeat : Prop :=
  ∀ (l : Link) (tag : Byte) (e : Word16) (k : Byte) (s : State), Takes l s →
    (∀ before q after, s.queue = before ++ q :: after → q.definition.id = ⟨e, k⟩ →
      (∀ r ∈ before ++ after, r.definition.id ≠ ⟨e, k⟩) →
      exec (.withdrawHeat l tag e k) s =
        .next (answered l tag 0x02 .done [byteOf (before ++ after).length]
          (raise (.queueChange .withdrawn ⟨e, k⟩ (some l) (before ++ after).length)
            { counted l s with queue := before ++ after }))) ∧
    ((∀ q ∈ s.queue, q.definition.id ≠ ⟨e, k⟩) → (∃ h, s.heat = some h ∧ h.definition.id = ⟨e, k⟩) →
      exec (.withdrawHeat l tag e k) s =
        .next (answered l tag 0x02 .wrongState [0, byteOf s.raceState.code] (counted l s))) ∧
    ((∀ q ∈ s.queue, q.definition.id ≠ ⟨e, k⟩) → (∀ h, s.heat = some h → h.definition.id ≠ ⟨e, k⟩) →
      exec (.withdrawHeat l tag e k) s = .next (answered l tag 0x02 .notFound [] (counted l s)))

/-- ADVANCE by race state and queue (R23), and the advance timer's expiry (R24): with a definition queued the head is loaded, no
link named; else the race becomes EMPTY with cause ADVANCE_TIMER. Before the timer has run out, or with none running, nothing
happens (log 2). The presence byte over the heat ID of the DONE answer is the model's choice (log 17). -/
def Obligations.AdvanceAndItsTimer : Prop :=
  (∀ (l : Link) (tag : Byte) (s : State), Takes l s →
    (s.raceState = .empty → s.queue = [] →
      exec (.advance l tag) s = .next (answered l tag 0x04 .queueEmpty [] (counted l s))) ∧
    (∀ e rest, s.raceState = .empty ∨ s.raceState = .final → s.queue = e :: rest →
      ∃ t, Loaded (some l) e rest (counted l s) t ∧
        exec (.advance l tag) s = .next (answered l tag 0x04 .done (1 :: 1 :: e.definition.id.bytes) t)) ∧
    (s.raceState = .final → s.queue = [] →
      exec (.advance l tag) s =
        .next (answered l tag 0x04 .done [0, 0] (emptied .advance (some l) (counted l s)))) ∧
    (∀ h, s.heat = some h → h.phase = .review →
      exec (.advance l tag) s =
        .next (answered l tag 0x04 .held
          (laneSetBytes (h.lanesWhere fun r => r.state != .vacant && r.state != .released)) (counted l s))) ∧
    (s.raceState = .loaded ∨ s.raceState = .marks ∨ s.raceState = .running →
      exec (.advance l tag) s =
        .next (answered l tag 0x04 .wrongState [0, byteOf s.raceState.code] (counted l s)))) ∧
  (∀ (s : State), s.phase = .running →
    (∀ h t e rest, s.heat = some h → h.advance = some t → t.limit ≤ elapsed t.start s.deckTime → s.queue = e :: rest →
      ∃ u, Loaded none e rest s u ∧ exec .advanceTimerExpiry s = .next (settle u)) ∧
    (∀ h t, s.heat = some h → h.advance = some t → t.limit ≤ elapsed t.start s.deckTime → s.queue = [] →
      exec .advanceTimerExpiry s = .next (settle (emptied .advanceTimer none s))) ∧
    ((∀ h t, s.heat = some h → h.advance = some t → elapsed t.start s.deckTime < t.limit) →
      exec .advanceTimerExpiry s = .next (settle s)))

/-- ABANDON (R37): in EMPTY refused WRONG_STATE; else the race becomes EMPTY with cause ABANDON and the link, the queue stays,
and an ABANDON item joins the event list unless four wait (R164). -/
def Obligations.AbandonEmptiesTheRace : Prop :=
  ∀ (l : Link) (tag : Byte) (s : State), Takes l s →
    (s.heat = none → exec (.abandon l tag) s = .next (answered l tag 0x05 .wrongState [0, 0] (counted l s))) ∧
    (∀ h, s.heat = some h → s.board.events.length < 4 →
      exec (.abandon l tag) s =
        .next (answered l tag 0x05 .done []
          (emptied .abandon (some l)
            { counted l s with
              board := { s.board with events := s.board.events ++ [⟨.abandon, h.definition.id, 0⟩] } }))) ∧
    (∀ h, s.heat = some h → 4 ≤ s.board.events.length →
      exec (.abandon l tag) s = .next (answered l tag 0x05 .done [] (emptied .abandon (some l) (counted l s))))

/-- START RACE (R28): LINE_IN_SERVICE while the START line is in service, then WRONG_STATE outside LOADED and MARKS, each changing
nothing; else the race starts at the deck time of the taking, which DONE carries. The START event (R27) starts the race in LOADED
and MARKS at its capture time; in another race state it has no effect. A start's notices are RACE_STATE, then the lanes' SPLIT and
REACTION notices in lane order, the EXCHANGE notices behind every SPLIT (R21, R39, R80, R116). -/
def Obligations.StartRequestAndStartLine : Prop :=
  (∀ (l : Link) (tag : Byte) (s : State), Takes l s →
    (s.inService 70 = true →
      exec (.startRace l tag) s = .next (answered l tag 0x06 .lineInService [] (counted l s))) ∧
    (s.inService 70 = false → s.raceState ≠ .loaded → s.raceState ≠ .marks →
      exec (.startRace l tag) s =
        .next (answered l tag 0x06 .wrongState [0, byteOf s.raceState.code] (counted l s))) ∧
    (∀ h, s.inService 70 = false → s.heat = some h → h.phase = .loaded ∨ h.phase = .marks →
      ∃ t g, exec (.startRace l tag) s = .next (answered l tag 0x06 .done (le4 s.deckTime.toNat) t) ∧
        t.heat = some g ∧ Started s.deckTime s t h g ∧
        StartNoticed s.deckTime .startRequest (some l) (counted l s) t h g)) ∧
  (∀ (since : DeckTime) (s : State), Completes .start .idle .active since s →
    (∀ h, s.heat = some h → h.phase = .loaded ∨ h.phase = .marks →
      ∃ t g, exec (.candidateCompletes .start) s = .next (settle t) ∧ t.heat = some g ∧ Started since s t h g ∧
        StartNoticed since .startLine none s t h g) ∧
    (s.raceState ≠ .loaded → s.raceState ≠ .marks →
      exec (.candidateCompletes .start) s =
        .next (settle (countedAt .start .active since s))))

/-- Marks (R25, R26, R105, R107): a rise in LOADED moves the race to MARKS and, for a BLOCK start, gives every READY lane a new
reaction record armed from now; a fall in MARKS returns it to LOADED, discards the reaction records and takes FALSE_START, and
nothing else, out of every hold set. In any other race state, EMPTY included, the level is counted and neither has any other
effect. -/
def Obligations.MarksAndTheirCancellation : Prop :=
  ∀ (since : DeckTime) (s : State),
    (∀ h, s.heat = some h → Completes .marks .idle .active since s → h.phase = .loaded →
      ∃ t g, exec (.candidateCompletes .marks) s = .next t ∧ t.heat = some g ∧ g.phase = .marks ∧
        g.definition = h.definition ∧ g.desks = h.desks ∧
        ∀ n, g.lanes.get n =
          if h.definition.startKind = .block ∧ (h.lanes.get n).state = .ready then
            { h.lanes.get n with reaction := some ⟨s.deckTime, none, none, false, false, true⟩ }
          else h.lanes.get n) ∧
    (Completes .marks .idle .active since s → s.raceState ≠ .loaded →
      exec (.candidateCompletes .marks) s = .next (settle (countedAt .marks .active since s))) ∧
    (∀ h, s.heat = some h → Completes .marks .active .idle since s → h.phase = .marks →
      ∃ t g, exec (.candidateCompletes .marks) s = .next t ∧ t.heat = some g ∧ g.phase = .loaded ∧
        g.definition = h.definition ∧ g.recalls = h.recalls ∧
        (∀ n, g.lanes.get n = { h.lanes.get n with reaction := none }) ∧
        ∀ n, (g.desks.get n) =
          { h.desks.get n with
            hold :=
              { (h.desks.get n).hold with
                reasons := { (h.desks.get n).hold.reasons with falseStart := false } } }) ∧
    (Completes .marks .active .idle since s → s.raceState ≠ .marks →
      exec (.candidateCompletes .marks) s = .next (settle (countedAt .marks .idle since s)))

/-- A RECALL in RUNNING (R29, R31, R32, R62): honoured when its race time, 0 before the start, is below RecallWindow and no lane
is in COLLECT, FINISHED or RELEASED; then the race is LOADED, one more recall counted, every lane in use READY, and SYSTEM gone
from every hold set while link holders and DQ marks stay. Otherwise, and in LOADED, REVIEW and FINAL, the race stays; there
and in EMPTY RECALL_IGNORED is all that follows (R30); that it carries race time 0 for a capture before the start is the model's
choice (log 42). -/
def Obligations.RecallJudged : Prop :=
  (∀ (since : DeckTime) (s : State), Completes .recall .idle .active since s → s.heat = none →
    exec (.candidateCompletes .recall) s =
      .next (settle (raise (.recallIgnored .empty since.toNat none) (countedAt .recall .active since s)))) ∧
  ∀ (since : DeckTime) (s : State) (h : Heat) (t : Nat), s.heat = some h → Completes .recall .idle .active since s →
    t = (if 2147483648 ≤ (since - h.startTime.getD 0).toNat then 0 else (since - h.startTime.getD 0).toNat) →
    (h.phase = .running → t < s.params.recallWindow →
      (∀ n, (h.lanes.get n).state ≠ .collect ∧ (h.lanes.get n).state ≠ .finished ∧ (h.lanes.get n).state ≠ .released) →
      ∃ u g, exec (.candidateCompletes .recall) s = .next (settle u) ∧ u.heat = some g ∧ g.phase = .loaded ∧ g.startTime = none ∧
        g.overtimeFlag = false ∧ g.overtimeTimer = false ∧ g.recalls = min 255 (h.recalls + 1) ∧
        g.definition = h.definition ∧ (∀ n, g.lanes.get n = recalledLane (h.lanes.get n)) ∧
        (∀ n, g.desks.get n =
          { h.desks.get n with
            hold := ⟨(h.desks.get n).hold.cl0, (h.desks.get n).hold.cl1, (h.desks.get n).hold.cl2,
              ⟨false, false, false, false, false, false⟩⟩ }) ∧
        u.board.headerPending = true ∧ u.board.clockDue = false ∧ u.board.clockTimer = none) ∧
    (h.phase = .running →
      s.params.recallWindow ≤ t ∨
        (∃ n, (h.lanes.get n).state = .collect ∨ (h.lanes.get n).state = .finished ∨ (h.lanes.get n).state = .released) →
      exec (.candidateCompletes .recall) s =
        .next (settle (raise
          (.recallIgnored .running t (some (if s.params.recallWindow ≤ t then .window else .result)))
          (countedAt .recall .active since s)))) ∧
    (h.phase = .loaded ∨ h.phase = .review ∨ h.phase = .final →
      exec (.candidateCompletes .recall) s =
        .next (settle (raise (.recallIgnored h.phase.state since.toNat none)
          (countedAt .recall .active since s)))) ∧
    (h.phase = .marks →
      ∃ u g, exec (.candidateCompletes .recall) s = .next u ∧ u.heat = some g ∧ g.phase = .loaded ∧ g.recalls = h.recalls ∧
        ∀ n, g.lanes.get n = { h.lanes.get n with reaction := none })

/-- Overtime (R33, R99, R114): at the limit the flag is set, the timer stops, every SWIMMING lane is finished with NO_FINISH and
no expectation or pending timing, and every other lane keeps its record; with no READY lane, REVIEW or FINAL follows when none is
in COLLECT (R35), at the stop race time of this moment. Its notices are RACE_STATE of cause OVERTIME, then those of the lanes, one
FINISH for each in lane order (R33, R56). Before the limit nothing happens (log 2). -/
def Obligations.OvertimeFinishesTheSwimmers : Prop :=
  ∀ (s : State), s.phase = .running →
    (∀ h, s.heat = some h → h.phase = .running → h.overtimeTimer = true → s.params.raceTimeLimit ≤ h.raceTime s.deckTime →
      ∃ t g, exec .overtimeExpiry s = .next (settle t) ∧ t.heat = some g ∧
        (∃ ns, Raised (.raceState .running .overtime none (some h.definition.id) h.recalls h.startTime none :: ns) s t ∧
          ofKind .finish ns =
            (allLanes.filter fun n => (h.lanes.get n).state == .swimming).map fun n => .finish n .noFinish none) ∧
        g.overtimeFlag = true ∧ g.overtimeTimer = false ∧
        g.definition = h.definition ∧ g.startTime = h.startTime ∧
        (∀ n, (h.lanes.get n).state = .swimming →
          ((g.lanes.get n).state = .finished ∨ (g.lanes.get n).state = .released) ∧
          (g.lanes.get n).result = some .noFinish ∧ (g.lanes.get n).expectation = none ∧
          (g.lanes.get n).pendingTiming = none ∧ (g.lanes.get n).splits = (h.lanes.get n).splits ∧
          (g.lanes.get n).rejected = (h.lanes.get n).rejected ∧ (g.lanes.get n).leg = (h.lanes.get n).leg ∧
          ∀ x ∈ (g.lanes.get n).exchanges, x.verdict ≠ .pending) ∧
        (∀ n, (h.lanes.get n).state ≠ .swimming → g.lanes.get n = h.lanes.get n) ∧
        ((∃ n, (h.lanes.get n).state = .collect ∨ (h.lanes.get n).state = .ready) → g.phase = .running) ∧
        ((∀ n, (h.lanes.get n).state ≠ .collect ∧ (h.lanes.get n).state ≠ .ready) →
          (∃ n, (h.lanes.get n).state = .swimming) →
          (g.phase = .review ∨ g.phase = .final) ∧ g.stopTime = some (h.raceTime s.deckTime))) ∧
    (s.heat = none ∨
        (∃ h, s.heat = some h ∧ (h.phase ≠ .running ∨ h.overtimeTimer = false ∨ h.raceTime s.deckTime < s.params.raceTimeLimit)) →
      exec .overtimeExpiry s = .next (settle s))


/-! ## Lane requests -/

/-- SCRATCH LANE (R48): the only READY lane is refused LAST_LANE; another becomes VACANT, without tags, leg, reaction record, hold
set and DQ mark, its timing kept; a board update and a HEADER wait, HOLD_CHANGE of cause SCRATCH is raised when hold set or DQ
mark change, and DONE carries the number of READY lanes left, one byte (log 17). -/
def Obligations.ScratchLane : Prop :=
  ∀ (l : Link) (tag b : Byte) (n : LaneNo) (s : State) (h : Heat), Takes l s → b.toNat = n.val → s.heat = some h →
    (h.lanes.get n).state = .ready →
    ((∀ m, (h.lanes.get m).state = .ready → m = n) →
      exec (.scratchLane l tag b) s = .next (answered l tag 0x08 .lastLane [] (counted l s))) ∧
    ((∃ m, m ≠ n ∧ (h.lanes.get m).state = .ready) →
      ∃ t g, t.heat = some g ∧
        exec (.scratchLane l tag b) s =
          .next (answered l tag 0x08 .done
            [byteOf (allLanes.countP fun m => (g.lanes.get m).state == .ready)] t) ∧
        g.definition = h.definition ∧ g.phase = h.phase ∧
        g.lanes.get n = { h.lanes.get n with state := .vacant, tags := [], leg := none, reaction := none } ∧
        g.desks.get n = ⟨HoldSet.empty, none, (h.desks.get n).place⟩ ∧ othersAsBefore n h g ∧
        t.board =
          { s.board with
            headerPending := true
            laneQueue := if n ∈ s.board.laneQueue then s.board.laneQueue else s.board.laneQueue ++ [n] } ∧
        t.links =
          (if (h.desks.get n).hold = HoldSet.empty ∧ (h.desks.get n).dq = none then counted l s
            else raise (.holdChange n .scratch (some l) HoldSet.empty none) (counted l s)).links)

/-- ASSIGN ENTRANT on a VACANT, READY or SWIMMING lane (R49, R50): the checks in their order, a wrong item count and a repeated or
missing leg INVALID TAG_COUNT, an item's leg outside 1 to L INVALID RANGE with field LEG and the item's position (log 17), a VACANT
lane past MARKS WRONG_STATE, a leg begun LEG_STARTED with that leg, of several the first in list order by the model's choice
(log 37); else the tags named are written and no other, DONE carries
the tag list, and a VACANT lane is READY on leg 1, armed in the marks of a BLOCK start (R105), with a HEADER owed. -/
def Obligations.AssignEntrant : Prop :=
  ∀ (l : Link) (tag b : Byte) (items : List TagItem) (n : LaneNo) (s : State) (h : Heat), Takes l s → b.toNat = n.val →
    s.heat = some h →
    (h.lanes.get n).state = .vacant ∨ (h.lanes.get n).state = .ready ∨ (h.lanes.get n).state = .swimming →
    (items = [] ∨ 4 < items.length →
      exec (.assignEntrant l tag b items) s = .next (answered l tag 0x09 .invalid [4, 0xFF, 0, 0, 0, 0, 0] (counted l s))) ∧
    (∀ before i after, items = before ++ i :: after → items.length ≤ 4 →
      (∀ j ∈ before, 1 ≤ j.leg.toNat ∧ j.leg.toNat ≤ h.definition.legs) →
      i.leg.toNat < 1 ∨ h.definition.legs < i.leg.toNat →
      exec (.assignEntrant l tag b items) s =
        .next (answered l tag 0x09 .invalid [6, 12, byteOf (before.length + 1), 0, 0, 0, 0] (counted l s))) ∧
    (items ≠ [] → items.length ≤ 4 → (∀ j ∈ items, 1 ≤ j.leg.toNat ∧ j.leg.toNat ≤ h.definition.legs) →
      ((¬ (items.map TagItem.leg).Nodup ∨
          ((h.lanes.get n).state = .vacant ∧
            ∃ g, 1 ≤ g ∧ g ≤ h.definition.legs ∧ ∀ j ∈ items, j.leg.toNat ≠ g)) →
        exec (.assignEntrant l tag b items) s =
          .next (answered l tag 0x09 .invalid [4, 0xFF, 0, 0, 0, 0, 0] (counted l s))) ∧
      ((items.map TagItem.leg).Nodup → (h.lanes.get n).state = .vacant →
        (∀ g, 1 ≤ g → g ≤ h.definition.legs → ∃ j ∈ items, j.leg.toNat = g) → h.phase ≠ .loaded → h.phase ≠ .marks →
        exec (.assignEntrant l tag b items) s =
          .next (answered l tag 0x09 .wrongState [0, byteOf s.raceState.code] (counted l s))) ∧
      (∀ before i after k, (items.map TagItem.leg).Nodup → (h.lanes.get n).state = .swimming →
        (h.lanes.get n).leg = some k → items = before ++ i :: after → (∀ j ∈ before, k < j.leg.toNat) → i.leg.toNat ≤ k →
        exec (.assignEntrant l tag b items) s = .next (answered l tag 0x09 .legStarted [i.leg] (counted l s))) ∧
      ((items.map TagItem.leg).Nodup →
        ((h.lanes.get n).state = .vacant ∧ (∀ g, 1 ≤ g → g ≤ h.definition.legs → ∃ j ∈ items, j.leg.toNat = g) ∧
            (h.phase = .loaded ∨ h.phase = .marks)) ∨
          ((h.lanes.get n).state = .ready ∧ (h.lanes.get n).tags.length = h.definition.legs) ∨
          ((h.lanes.get n).state = .swimming ∧ (h.lanes.get n).tags.length = h.definition.legs ∧
            ∃ k, (h.lanes.get n).leg = some k ∧ ∀ j ∈ items, k < j.leg.toNat) →
        ∃ t g, t.heat = some g ∧
          exec (.assignEntrant l tag b items) s =
            .next (answered l tag 0x09 .done
              (byteOf h.definition.legs :: ((g.lanes.get n).tags.map tagBytes).flatten) t) ∧
          (g.lanes.get n).tags.length = h.definition.legs ∧
          (∀ j ∈ items, (g.lanes.get n).tags[j.leg.toNat - 1]? = some j.tag) ∧
          ((h.lanes.get n).state ≠ .vacant → ∀ k, (∀ j ∈ items, j.leg.toNat - 1 ≠ k) →
            (g.lanes.get n).tags[k]? = (h.lanes.get n).tags[k]?) ∧
          g.lanes.get n =
            (if (h.lanes.get n).state = .vacant then
              { h.lanes.get n with
                state := .ready
                leg := some 1
                tags := (g.lanes.get n).tags
                reaction :=
                  if h.phase = .marks ∧ h.definition.startKind = .block then
                    some ⟨s.deckTime, none, none, false, false, true⟩
                  else (h.lanes.get n).reaction }
            else { h.lanes.get n with tags := (g.lanes.get n).tags }) ∧
          othersAsBefore n h g ∧ n ∈ t.board.laneQueue ∧
          ((h.lanes.get n).state = .vacant → t.board.headerPending = true)))

/-- SET LANE TIMING (R52, R53), with at least one field: a W outside 1 to 31 is INVALID RANGE, field WINDOW_WEIGHT; on a READY
lane the fields replace the lane timing at once, on a SWIMMING lane they are merged into the pending timing; DONE carries
both. -/
def Obligations.SetLaneTiming : Prop :=
  ∀ (l : Link) (tag b : Byte) (m : Option Mode) (w : Option Byte) (k : Option Basis) (n : LaneNo) (s : State) (h : Heat),
    Takes l s → b.toNat = n.val → s.heat = some h →
    (h.lanes.get n).state = .ready ∨ (h.lanes.get n).state = .swimming → m ≠ none ∨ w ≠ none ∨ k ≠ none →
    (∀ v, w = some v → v.toNat < 1 ∨ 31 < v.toNat →
      exec (.setLaneTiming l tag b ⟨m.map fun a => byteOf a.code, w, k.map fun a => byteOf a.code⟩) s =
        .next (answered l tag 0x0A .invalid [6, 7, 0, 0, 0, 0, 0] (counted l s))) ∧
    ((∀ v, w = some v → 1 ≤ v.toNat ∧ v.toNat ≤ 31) →
      ∃ t g, t.heat = some g ∧
        exec (.setLaneTiming l tag b ⟨m.map fun a => byteOf a.code, w, k.map fun a => byteOf a.code⟩) s =
          .next (answered l tag 0x0A .done
            ((g.lanes.get n).timing.bytes ++ pendingBytes (g.lanes.get n).pendingTiming) t) ∧
        g.lanes.get n =
          (if (h.lanes.get n).state = .ready then
            { h.lanes.get n with
              timing :=
                ⟨m.getD (h.lanes.get n).timing.mode, (w.map BitVec.toNat).getD (h.lanes.get n).timing.weight,
                  k.getD (h.lanes.get n).timing.basis⟩ }
          else
            { h.lanes.get n with
              pendingTiming :=
                some
                  ⟨m.or ((h.lanes.get n).pendingTiming.bind PendingTiming.mode),
                    (w.map BitVec.toNat).or ((h.lanes.get n).pendingTiming.bind PendingTiming.weight),
                    k.or ((h.lanes.get n).pendingTiming.bind PendingTiming.basis)⟩ }) ∧
        othersAsBefore n h g ∧ t.links = (counted l s).links ∧ t.board = s.board)

/-- PROMOTE TOUCH on a SWIMMING lane (R81 to R83): number 0 is MALFORMED, an unknown number NOT_FOUND, an entry of another end or
not later than the reference STALE; below N the entry leaves the rejected list and its touch is accepted with source PROMOTED;
at N it leaves it and opens COLLECT from the present race time. DONE carries the length, the expectation now standing, absent in
COLLECT, and the size of the rejected list (log 17). An acceptance raises one SPLIT notice for each entry, the promoted one with link
and number, EXCHANGE notices behind them (R80, R116); the opening raises none. -/
def Obligations.PromoteTouch : Prop :=
  ∀ (l : Link) (tag b : Byte) (number : Word16) (n : LaneNo) (s : State) (h : Heat) (x : Expectation), Takes l s →
    b.toNat = n.val → s.heat = some h → (h.lanes.get n).state = .swimming → (h.lanes.get n).expectation = some x →
    (number = 0 → exec (.promoteTouch l tag b number) s = .next (answered l tag 0x0B .malformed [] (counted l s))) ∧
    (number ≠ 0 → (∀ r ∈ (h.lanes.get n).rejected, r.number ≠ number.toNat) →
      exec (.promoteTouch l tag b number) s = .next (answered l tag 0x0B .notFound [] (counted l s))) ∧
    (∀ before r after, number ≠ 0 → (h.lanes.get n).rejected = before ++ r :: after → r.number = number.toNat →
      (∀ q ∈ before ++ after, q.number ≠ number.toNat) →
      (r.finish ≠ x.finish ∨ r.time ≤ x.reference →
        exec (.promoteTouch l tag b number) s = .next (answered l tag 0x0B .stale [] (counted l s))) ∧
      (r.finish = x.finish → x.reference < r.time → 1 ≤ x.length → x.length < h.definition.lengths →
        ∃ t g, t.heat = some g ∧ Accepted n x.length r.time .promoted [] (before ++ after) x s h g ∧
          SplitsNoticed n (some ⟨l, r.number⟩) (counted l s) t h g ∧
          exec (.promoteTouch l tag b number) s =
            .next (answered l tag 0x0B .done
              (byteOf x.length :: optionalGroup [(g.lanes.get n).expectation.map Expectation.bytes] ++
                [byteOf (before ++ after).length]) t)) ∧
      (r.finish = x.finish → x.reference < r.time → x.length = h.definition.lengths →
        ∃ t g, t.heat = some g ∧
          g.lanes.get n =
            openedLane h.definition ⟨h.raceTime s.deckTime, some r.time, none, none, none⟩
              { h.lanes.get n with rejected := before ++ after } ∧
          othersAsBefore n h g ∧ n ∈ t.board.laneQueue ∧ t.links = (counted l s).links ∧
          exec (.promoteTouch l tag b number) s =
            .next (answered l tag 0x0B .done [byteOf x.length, 0, byteOf (before ++ after).length] t)))

/-! ## Finishes -/

/-- DECLARE NO FINISH and ENTER FINISH on a SWIMMING lane (R55, R95, R96): the first finishes it with NO_FINISH, no exchange record
left PENDING (R114), the split list as it was; the second is refused NOT_FINAL_LENGTH below N and ORDER outside the times between
the last timed entry and now, and else adds the entry for N with source MANUAL and finishes it with that time, DONE carrying time
and place, the place under a presence byte (log 17). Each raises FINISH with the requesting link, behind the SPLIT of the final
entry and its judging, and before every hold, place and race notice (R56, R94). -/
def Obligations.DeclareAndEnterFinish : Prop :=
  ∀ (l : Link) (tag b : Byte) (n : LaneNo) (s : State) (h : Heat), Takes l s → b.toNat = n.val → s.heat = some h →
    (h.lanes.get n).state = .swimming →
    (∃ t g, t.heat = some g ∧ exec (.declareNoFinish l tag b) s = .next (answered l tag 0x0C .done [] t) ∧
      Finishes n .noFinish s h g ∧ FinishNoticed n .noFinish (some l) [] (counted l s) t g ∧ (g.lanes.get n).splits = (h.lanes.get n).splits ∧
      ∀ x ∈ (g.lanes.get n).exchanges, x.verdict ≠ .pending) ∧
    (∀ (w : Word32) (x : Expectation), (h.lanes.get n).expectation = some x →
      (x.length ≠ h.definition.lengths →
        exec (.enterFinish l tag b w) s = .next (answered l tag 0x0D .notFinalLength [] (counted l s))) ∧
      (x.length = h.definition.lengths →
        w.toNat ≤ lastTimedTime (h.lanes.get n).splits ∨ h.raceTime s.deckTime < w.toNat →
        exec (.enterFinish l tag b w) s = .next (answered l tag 0x0D .order [] (counted l s))) ∧
      (x.length = h.definition.lengths → lastTimedTime (h.lanes.get n).splits < w.toNat →
        w.toNat ≤ h.raceTime s.deckTime →
        ∃ t g, t.heat = some g ∧ Finishes n (.time w.toNat .manual none none) s h g ∧
          FinishNoticed n (.time w.toNat .manual none none) (some l)
            [⟨h.definition.lengths, h.definition.finishEnd, h.definition.legs, some w.toNat, .manual⟩] (counted l s) t g ∧
          (g.lanes.get n).splits =
            (h.lanes.get n).splits ++
              [⟨h.definition.lengths, h.definition.finishEnd, h.definition.legs, some w.toNat, .manual⟩] ∧
          exec (.enterFinish l tag b w) s =
            .next (answered l tag 0x0D .done (le4 w.toNat ++ optionalGroup [(g.desks.get n).place.map fun p => [byteOf p]]) t)))

/-- ADJUST FINISH on a FINISHED lane (R97, R98): with NO_FINISH refused WRONG_STATE; ORDER for a time not later than the last timed
entry below N or later than the race clock; else the time, source MANUAL, the replaced time and the kept backup value stand, the
entry for N is rewritten, DISCREPANT and PAD_MISSED leave the hold set, and the release check follows; DONE carries both times and
the place, under a presence byte (log 17). -/
def Obligations.AdjustFinish : Prop :=
  ∀ (l : Link) (tag b : Byte) (w : Word32) (n : LaneNo) (s : State) (h : Heat) (clock : Nat), Takes l s →
    b.toNat = n.val → s.heat = some h → (h.lanes.get n).state = .finished →
    (h.phase = .running ∧ h.startTime ≠ none ∧ clock = h.raceTime s.deckTime) ∨
      (h.phase = .review ∧ h.stopTime = some clock) →
    ((h.lanes.get n).result = some .noFinish →
      exec (.adjustFinish l tag b w) s = .next (answered l tag 0x0E .wrongState [1, 4] (counted l s))) ∧
    (∀ old source backup replaced, (h.lanes.get n).result = some (.time old source backup replaced) →
      (w.toNat ≤ lastTimedTime ((h.lanes.get n).splits.filter fun e => e.length != h.definition.lengths) ∨
          clock < w.toNat →
        exec (.adjustFinish l tag b w) s = .next (answered l tag 0x0E .order [] (counted l s))) ∧
      (lastTimedTime ((h.lanes.get n).splits.filter fun e => e.length != h.definition.lengths) < w.toNat →
        w.toNat ≤ clock →
        ∃ t g, t.heat = some g ∧
          exec (.adjustFinish l tag b w) s =
            .next (answered l tag 0x0E .done
              (le4 w.toNat ++ le4 old ++ optionalGroup [(g.desks.get n).place.map fun p => [byteOf p]]) t) ∧
          g.lanes.get n =
            { h.lanes.get n with
              state := finishedState n g
              result := some (.time w.toNat .manual backup (some old))
              splits := (h.lanes.get n).splits.map fun e =>
                if e.length = h.definition.lengths then { e with time := some w.toNat, source := .manual } else e } ∧
          (g.desks.get n).hold =
            { (h.desks.get n).hold with
              reasons := { (h.desks.get n).hold.reasons with discrepant := false, padMissed := false } } ∧
          (g.desks.get n).dq = (h.desks.get n).dq ∧
          (∀ m, m ≠ n → g.lanes.get m = h.lanes.get m ∧ (g.desks.get m).hold = (h.desks.get m).hold ∧
            (g.desks.get m).dq = (h.desks.get m).dq) ∧
          g.definition = h.definition ∧ g.startTime = h.startTime ∧ g.stopTime = h.stopTime))

/-- The CollectTime expiry (R86, R90 to R94): with a pad time that time and PAD, else the backup value of the filled buttons and its
source; DISCREPANT when the pad and the backup value of two or three buttons differ by more than BackupTolerance, PAD_MISSED when
no pad time came from a pad in service; the entry for N joins the list. The first resolution begins the clock freeze while the race
runs on (R170). FINISH is raised without a link, behind the SPLIT of the final entry and its judging, and before every hold, place
and race notice (R56, R94). Before the expiry, and outside COLLECT, nothing happens (log 2). -/
def Obligations.CollecttimeExpiryResolves : Prop :=
  ∀ (n : LaneNo) (s : State), s.phase = .running →
    (∀ (h : Heat) (c : Collection) (buttons : List Nat) (backup : Option Nat) (t : Nat) (source : SplitSource),
      s.heat = some h → (h.lanes.get n).state = .collect → (h.lanes.get n).collection = some c →
      c.opening + h.definition.collectTime ≤ h.raceTime s.deckTime →
      buttons = [c.one, c.two, c.three].filterMap id → backupIs buttons backup →
      (c.pad = some t ∧ source = .pad) ∨
        (c.pad = none ∧ backup = some t ∧ source = sourceByButtons buttons.length) →
      ∃ u g, exec (.collecttimeExpiry n) s = .next (settle u) ∧ u.heat = some g ∧
        Finishes n (.time t source backup none) s h g ∧
        FinishNoticed n (.time t source backup none) none
          [⟨h.definition.lengths, h.definition.finishEnd, h.definition.legs, some t, source⟩] s u g ∧
        (g.lanes.get n).splits =
          (h.lanes.get n).splits ++
            [⟨h.definition.lengths, h.definition.finishEnd, h.definition.legs, some t, source⟩] ∧
        ((g.desks.get n).hold.reasons.discrepant = true ↔
          (h.desks.get n).hold.reasons.discrepant = true ∨
            (c.pad = some t ∧ 2 ≤ buttons.length ∧
              ∃ v, backup = some v ∧ (h.definition.backupTolerance < t - v ∨ h.definition.backupTolerance < v - t))) ∧
        ((g.desks.get n).hold.reasons.padMissed = true ↔
          (h.desks.get n).hold.reasons.padMissed = true ∨
            (c.pad = none ∧ s.inService (padInput n h.definition.finishEnd) = true)) ∧
        (h.phase = .running → (∃ m, m ≠ n ∧ (h.lanes.get m).unfinished = true) →
          u.board.freeze =
              (if s.board.freezeUsed = true ∨ s.params.freezeHold = 0 then s.board.freeze
                else some ⟨⟨s.deckTime, s.params.freezeHold⟩, t / 100⟩) ∧
            u.board.freezeUsed = true)) ∧
    ((∀ h c, s.heat = some h → (h.lanes.get n).state = .collect → (h.lanes.get n).collection = some c →
        h.raceTime s.deckTime < c.opening + h.definition.collectTime) →
      exec (.collecttimeExpiry n) s = .next (settle s))

/-! ## Touches, presses and releases -/

/-- Touches turned away (R46, R68, R69, R73, R75, R87): one before the start, within TurnLockout at the other wall, for a lane in
another state, or in COLLECT at the other end, at or below the floor or with the pad slot filled leaves no trace; one before the
window is rejected EARLY, one at the other wall that fails the skip test WRONG_END, with its REJECT notice; of nine entries the
oldest goes, and number 65535 is followed by 1 (R59). Without a race, and on a lane neither SWIMMING nor COLLECT, as every lane is
in LOADED and MARKS (R21), a touch leaves no trace whether or not there is a start deck time. -/
def Obligations.TouchesTurnedAway : Prop :=
  (∀ (e : End) (n : LaneNo) (since : DeckTime) (s : State), Completes (.pad e n) .idle .active since s →
    (∀ h, s.heat = some h → (h.lanes.get n).state ≠ .swimming ∧ (h.lanes.get n).state ≠ .collect) →
    exec (.candidateCompletes (.pad e n)) s = .next (settle (countedAt (.pad e n) .active since s))) ∧
  ∀ (e : End) (n : LaneNo) (since start : DeckTime) (t : Nat) (s : State) (h : Heat),
    Completes (.pad e n) .idle .active since s → s.heat = some h → h.startTime = some start →
    t = (since + BitVec.ofInt 32 (s.params.padOffset e) - start).toNat →
    ((h.lanes.get n).state ≠ .swimming → (h.lanes.get n).state ≠ .collect →
      exec (.candidateCompletes (.pad e n)) s = .next (settle (countedAt (.pad e n) .active since s))) ∧
    (∀ c, (h.lanes.get n).state = .collect → (h.lanes.get n).collection = some c →
      e ≠ h.definition.finishEnd ∨ 2147483648 ≤ t ∨ t ≤ lastTimedTime (h.lanes.get n).splits ∨ c.pad ≠ none →
      exec (.candidateCompletes (.pad e n)) s = .next (settle (countedAt (.pad e n) .active since s))) ∧
    (∀ x, (h.lanes.get n).state = .swimming → (h.lanes.get n).expectation = some x →
      (2147483648 ≤ t ∨ (e ≠ x.finish ∧ t < x.reference + h.definition.turnLockout) →
        exec (.candidateCompletes (.pad e n)) s = .next (settle (countedAt (.pad e n) .active since s))) ∧
      (∀ reason entry, t < 2147483648 →
        (e = x.finish ∧ t < x.window ∧ reason = .early) ∨
          (e ≠ x.finish ∧ x.reference + h.definition.turnLockout ≤ t ∧
            (h.definition.lengths ≤ x.length ∨ t < skipBound h.definition (h.lanes.get n) x) ∧ reason = .wrongEnd) →
        entry =
          ⟨if (h.lanes.get n).rejections = 65535 then 1 else (h.lanes.get n).rejections + 1, t, e, reason, x.length⟩ →
        exec (.candidateCompletes (.pad e n)) s =
          .next (settle
            (raise
              (.reject n entry
                (if (h.lanes.get n).rejected.length < 8 then none
                  else (h.lanes.get n).rejected.head?.map RejectedEntry.number))
              ((countedAt (.pad e n) .active since s).modLane n fun r =>
                { r with
                  rejections := entry.number
                  rejected := (if r.rejected.length < 8 then r.rejected else r.rejected.drop 1) ++ [entry] })))))

/-- Touches accepted on a SWIMMING lane (R68, R70, R74): at the expected end, at or after the window and below N, for k; at the
other wall, past TurnLockout and the window length k+1 would have had, with k+1 below N, for k+1 as a skip, whose NONE entry for k
brings SKIPPED_LENGTH. One SPLIT notice is raised for each entry, in length order, EXCHANGE notices behind them (R80, R116). -/
def Obligations.TouchesAccepted : Prop :=
  ∀ (e : End) (n : LaneNo) (since start : DeckTime) (t : Nat) (x : Expectation) (s : State) (h : Heat),
    Completes (.pad e n) .idle .active since s → s.heat = some h → h.startTime = some start →
    t = (since + BitVec.ofInt 32 (s.params.padOffset e) - start).toNat → t < 2147483648 →
    (h.lanes.get n).state = .swimming → (h.lanes.get n).expectation = some x → 1 ≤ x.length →
    (e = x.finish → x.window ≤ t → x.length < h.definition.lengths →
      ∃ u g, exec (.candidateCompletes (.pad e n)) s = .next (settle u) ∧ u.heat = some g ∧
        Accepted n x.length t .pad [] (h.lanes.get n).rejected x s h g ∧ SplitsNoticed n none s u h g) ∧
    (e ≠ x.finish → x.reference + h.definition.turnLockout ≤ t → skipBound h.definition (h.lanes.get n) x ≤ t →
      x.length + 1 < h.definition.lengths →
      ∃ u g, exec (.candidateCompletes (.pad e n)) s = .next (settle u) ∧ u.heat = some g ∧
        (g.desks.get n).hold.reasons.skippedLength = true ∧
        Accepted n (x.length + 1) t .pad
          [⟨x.length, h.definition.endOf x.length, h.definition.legOf x.length, none, .none⟩]
          (h.lanes.get n).rejected x s h g ∧
        SplitsNoticed n none s u h g)

/-- COLLECT opens on length N (R72, R74, R85, R86): by a touch at the expected end or a press, each at or after the window, its time
opening and first slot, or by a skip of length N-1; in COLLECT a contact above the floor fills its empty slot (R87); a press
otherwise leaves no trace (R46, R85), in EMPTY, LOADED and MARKS included, where there is no start deck time (R21). -/
def Obligations.CollectOpensAndFills : Prop :=
  (∀ (n : LaneNo) (slot : Slot) (since : DeckTime) (s : State), Completes (.button n slot) .idle .active since s →
    (∀ h, s.heat = some h → (h.lanes.get n).state ≠ .swimming ∧ (h.lanes.get n).state ≠ .collect) →
    exec (.candidateCompletes (.button n slot)) s = .next (settle (countedAt (.button n slot) .active since s))) ∧
  ∀ (n : LaneNo) (since start : DeckTime) (s : State) (h : Heat), s.heat = some h → h.startTime = some start →
    (∀ e t x, Completes (.pad e n) .idle .active since s →
      t = (since + BitVec.ofInt 32 (s.params.padOffset e) - start).toNat → t < 2147483648 →
      (h.lanes.get n).state = .swimming → (h.lanes.get n).expectation = some x →
      (e = x.finish → x.length = h.definition.lengths → x.window ≤ t →
        ∃ u g, exec (.candidateCompletes (.pad e n)) s = .next (settle u) ∧ u.heat = some g ∧
          g.lanes.get n = openedLane h.definition ⟨t, some t, none, none, none⟩ (h.lanes.get n) ∧ othersAsBefore n h g) ∧
      (e ≠ x.finish → x.length + 1 = h.definition.lengths → x.reference + h.definition.turnLockout ≤ t →
        skipBound h.definition (h.lanes.get n) x ≤ t →
        ∃ u g, exec (.candidateCompletes (.pad e n)) s = .next (settle u) ∧ u.heat = some g ∧
          (g.lanes.get n).state = .collect ∧ (g.lanes.get n).collection = some ⟨t, some t, none, none, none⟩ ∧
          (g.lanes.get n).expectation = none ∧ (g.lanes.get n).pendingTiming = none ∧
          (g.lanes.get n).leg = some h.definition.legs ∧ (g.lanes.get n).d1 = (h.lanes.get n).d1 ∧
          (g.lanes.get n).splits =
            (h.lanes.get n).splits ++
              [⟨x.length, h.definition.endOf x.length, h.definition.legOf x.length, none, .none⟩] ∧
          (g.desks.get n).hold.reasons.skippedLength = true ∧ othersAsBefore n h g)) ∧
    (∀ t c, Completes (.pad h.definition.finishEnd n) .idle .active since s →
      t = (since + BitVec.ofInt 32 (s.params.padOffset h.definition.finishEnd) - start).toNat → t < 2147483648 →
      (h.lanes.get n).state = .collect → (h.lanes.get n).collection = some c →
      lastTimedTime (h.lanes.get n).splits < t → c.pad = none →
      exec (.candidateCompletes (.pad h.definition.finishEnd n)) s =
        .next (settle ((countedAt (.pad h.definition.finishEnd n) .active since s).modLane n fun r =>
          { r with collection := some { c with pad := some t } }))) ∧
    (∀ slot t k, Completes (.button n slot) .idle .active since s → t = (since - start).toNat →
      k = CollectionSlot.button slot →
      (∀ x, (h.lanes.get n).state = .swimming → (h.lanes.get n).expectation = some x →
        (x.length = h.definition.lengths → t < 2147483648 → x.window ≤ t →
          ∃ u g, exec (.candidateCompletes (.button n slot)) s = .next (settle u) ∧ u.heat = some g ∧
            g.lanes.get n =
              openedLane h.definition ((Collection.mk t none none none none).write k t) (h.lanes.get n) ∧
            othersAsBefore n h g) ∧
        (x.length ≠ h.definition.lengths ∨ 2147483648 ≤ t ∨ t < x.window →
          exec (.candidateCompletes (.button n slot)) s =
            .next (settle (countedAt (.button n slot) .active since s)))) ∧
      (∀ c, (h.lanes.get n).state = .collect → (h.lanes.get n).collection = some c →
        (t < 2147483648 → lastTimedTime (h.lanes.get n).splits < t → c.read k = none →
          exec (.candidateCompletes (.button n slot)) s =
            .next (settle ((countedAt (.button n slot) .active since s).modLane n fun r =>
              { r with collection := some (c.write k t) }))) ∧
        (2147483648 ≤ t ∨ t ≤ lastTimedTime (h.lanes.get n).splits ∨ c.read k ≠ none →
          exec (.candidateCompletes (.button n slot)) s =
            .next (settle (countedAt (.button n slot) .active since s)))) ∧
      ((h.lanes.get n).state ≠ .swimming → (h.lanes.get n).state ≠ .collect →
        exec (.candidateCompletes (.button n slot)) s =
          .next (settle (countedAt (.button n slot) .active since s))))

/-- A platform's release (R104, R106, R108, R111, R112): armed for the lane's reaction record it is ignored before the arming time, the
first one before the start sets PLATFORM_EARLY with FALSE_START, one after the start gives release time and reaction; armed for an
exchange record, and captured at or after its arming, it is the takeoff, with margin and verdict when the touch is known; else it
is ignored. A capture lies at or after an arming time when the difference modulo 2^32 is below 2^31: the model's reading
(log 12). -/
def Obligations.PlatformReleases : Prop :=
  ∀ (e : End) (n : LaneNo) (since : DeckTime) (s : State) (h : Heat),
    Completes (.platform e n) .active .idle since s → s.heat = some h →
    (h.lanes.get n).state = .ready ∨ (h.lanes.get n).state = .swimming ∨ (h.lanes.get n).state = .collect →
    (∀ r, e = h.definition.startEnd → (h.lanes.get n).reaction = some r → r.armed = true →
      (2147483648 ≤ (since - r.arming).toNat →
        exec (.candidateCompletes (.platform e n)) s = .next (settle (countedAt (.platform e n) .idle since s))) ∧
      ((since - r.arming).toNat < 2147483648 →
        (h.startTime = none ∨ 2147483648 ≤ h.raceTime since →
          ∃ u g, exec (.candidateCompletes (.platform e n)) s = .next (settle u) ∧ u.heat = some g ∧
            g.lanes.get n = { h.lanes.get n with reaction := some { r with early := true } } ∧
            (r.early = false → (g.desks.get n).hold.reasons.falseStart = true) ∧
            (r.early = true → g.desks.get n = h.desks.get n) ∧ othersAsBefore n h g) ∧
        (h.startTime ≠ none → h.raceTime since < 2147483648 →
          ∃ u g, exec (.candidateCompletes (.platform e n)) s = .next (settle u) ∧ u.heat = some g ∧
            g.lanes.get n =
              { h.lanes.get n with
                reaction :=
                  some { r with release := some (h.raceTime since), reaction := some (h.raceTime since), armed := false } } ∧
            g.desks.get n = h.desks.get n ∧ othersAsBefore n h g))) ∧
    (∀ before x after a, e ≠ h.definition.startEnd ∨ (∀ r, (h.lanes.get n).reaction = some r → r.armed = false) →
      (h.lanes.get n).exchanges = before ++ x :: after → x.finish = e → x.arming = some a → x.release = none →
      x.verdict = .pending → (∀ y ∈ before, y.finish ≠ e ∨ y.armed = false) →
      (∀ y ∈ before ++ after, y.leg ≠ x.leg) →
      (2147483648 ≤ (since - (h.startTime.getD 0 + BitVec.ofNat 32 a)).toNat →
        exec (.candidateCompletes (.platform e n)) s = .next (settle (countedAt (.platform e n) .idle since s))) ∧
      ((since - (h.startTime.getD 0 + BitVec.ofNat 32 a)).toNat < 2147483648 →
        (x.touch = none →
          ∃ u g, exec (.candidateCompletes (.platform e n)) s = .next (settle u) ∧ u.heat = some g ∧
            g.lanes.get n =
              { h.lanes.get n with
                exchanges := before ++ { x with release := some (h.raceTime since) } :: after } ∧
            g.desks.get n = h.desks.get n ∧ othersAsBefore n h g) ∧
        (∀ p margin, x.touch = some p → margin = (h.raceTime since : Int) - (p : Int) →
          ∃ u g, exec (.candidateCompletes (.platform e n)) s = .next (settle u) ∧ u.heat = some g ∧
            g.lanes.get n =
              { h.lanes.get n with
                exchanges :=
                  before ++
                    { x with
                      release := some (h.raceTime since)
                      margin := some margin
                      verdict := if margin < -(h.definition.exchangeAllowance : Int) then .early else .ok } ::
                    after } ∧
            (margin < -(h.definition.exchangeAllowance : Int) → (g.desks.get n).hold.reasons.exchangeEarly = true) ∧
            (-(h.definition.exchangeAllowance : Int) ≤ margin → g.desks.get n = h.desks.get n) ∧
            othersAsBefore n h g))) ∧
    (e ≠ h.definition.startEnd ∨ (∀ r, (h.lanes.get n).reaction = some r → r.armed = false) →
      (∀ y ∈ (h.lanes.get n).exchanges, y.finish ≠ e ∨ y.armed = false) →
      exec (.candidateCompletes (.platform e n)) s = .next (settle (countedAt (.platform e n) .idle since s)))

/-! ## Result requests -/

/-- HOLD LANE and UNHOLD LANE in every lane state they are taken in (R124, R125): a holder's HOLD is ALREADY, another's UNHOLD
NOT_HELD; else the link joins or leaves the hold set with its HOLD_CHANGE, DONE carries the set, and an UNHOLD that leaves a
FINISHED lane's set empty in release mode AUTO releases the lane, whose state it answers. -/
def Obligations.LinkHolds : Prop :=
  ∀ (l : Link) (tag b : Byte) (n : LaneNo) (s : State) (h : Heat), Takes l s → b.toNat = n.val → s.heat = some h →
    (h.lanes.get n).state ≠ .vacant → (h.lanes.get n).state ≠ .released →
    ((h.desks.get n).hold.holds l = true →
      exec (.holdLane l tag b) s = .next (answered l tag 0x11 .already [] (counted l s))) ∧
    ((h.desks.get n).hold.holds l = false →
      exec (.unholdLane l tag b) s = .next (answered l tag 0x12 .notHeld [] (counted l s))) ∧
    (∀ hold, (h.desks.get n).hold.holds l = false → hold = (h.desks.get n).hold.put l true →
      exec (.holdLane l tag b) s =
        .next (answered l tag 0x11 .done hold.bytes
          (raise (.holdChange n .hold (some l) hold (h.desks.get n).dq)
            ((counted l s).modDesk n fun k => { k with hold := hold })))) ∧
    (∀ hold, (h.desks.get n).hold.holds l = true → hold = (h.desks.get n).hold.put l false →
      ∃ t g, t.heat = some g ∧
        exec (.unholdLane l tag b) s =
          .next (answered l tag 0x12 .done (hold.bytes ++ [byteOf (g.lanes.get n).state.code]) t) ∧
        g.lanes.get n =
          { h.lanes.get n with
            state := if (h.lanes.get n).state = .finished ∧ (h.lanes.get n).result ≠ none then finishedState n g
              else (h.lanes.get n).state } ∧
        g.desks.get n = { h.desks.get n with hold := hold } ∧ g.definition = h.definition ∧ othersAsBefore n h g ∧
        ((h.lanes.get n).state ≠ .finished ∨ hold.isEmpty = false →
          t = raise (.holdChange n .unhold (some l) hold (h.desks.get n).dq)
            ((counted l s).modDesk n fun k => { k with hold := hold })))

/-- CLEAR SYSTEM HOLD and RELEASE LANE (R126, R128, R129; ALL as 0xFF by log 18): NOT_HELD when no named reason stands; else every
named reason goes and no holder, DONE carries the reasons left and the lane state, a FINISHED lane left with an empty set in AUTO
being released. RELEASE LANE on a FINISHED lane releases it in MANUAL with an empty set and is else refused HELD with the set. -/
def Obligations.ClearAndRelease : Prop :=
  ∀ (l : Link) (tag b : Byte) (n : LaneNo) (s : State) (h : Heat), Takes l s → b.toNat = n.val → s.heat = some h →
    (∀ rs : Byte, rs = 0xFF ∨ (1 ≤ rs.toNat ∧ rs.toNat ≤ 63) →
      (h.lanes.get n).state ≠ .vacant → (h.lanes.get n).state ≠ .released →
      ((∀ x : Reason, (h.desks.get n).hold.reasons.has x = true → rs ≠ 0xFF ∧ rs.getLsbD x.code = false) →
        exec (.clearSystemHold l tag b rs) s = .next (answered l tag 0x13 .notHeld [] (counted l s))) ∧
      ((∃ x : Reason, (h.desks.get n).hold.reasons.has x = true ∧ (rs = 0xFF ∨ rs.getLsbD x.code = true)) →
        ∃ t g, t.heat = some g ∧
          exec (.clearSystemHold l tag b rs) s =
            .next (answered l tag 0x13 .done
              [(g.desks.get n).hold.reasons.byte, byteOf (g.lanes.get n).state.code] t) ∧
          (∀ x : Reason, (g.desks.get n).hold.reasons.has x = true ↔
            (h.desks.get n).hold.reasons.has x = true ∧ rs ≠ 0xFF ∧ rs.getLsbD x.code = false) ∧
          (∀ k, (g.desks.get n).hold.holds k = (h.desks.get n).hold.holds k) ∧
          (g.desks.get n).dq = (h.desks.get n).dq ∧ (g.desks.get n).place = (h.desks.get n).place ∧
          g.lanes.get n =
            { h.lanes.get n with
              state := if (h.lanes.get n).state = .finished ∧ (h.lanes.get n).result ≠ none then finishedState n g
                else (h.lanes.get n).state } ∧
          g.definition = h.definition ∧ othersAsBefore n h g)) ∧
    ((h.lanes.get n).state = .finished →
      (h.definition.releaseMode = .auto ∨ (h.desks.get n).hold.isEmpty = false →
        exec (.releaseLane l tag b) s =
          .next (answered l tag 0x14 .held (h.desks.get n).hold.bytes (counted l s))) ∧
      (h.definition.releaseMode = .manual → (h.desks.get n).hold.isEmpty = true → (h.lanes.get n).result ≠ none →
        ∃ t g, t.heat = some g ∧ exec (.releaseLane l tag b) s = .next (answered l tag 0x14 .done [] t) ∧
          g.lanes.get n = { h.lanes.get n with state := .released } ∧ n ∈ t.board.laneQueue ∧
          g.desks = h.desks ∧ (∀ m, m ≠ n → g.lanes.get m = h.lanes.get m) ∧
          (h.phase = .review → (∀ m, m ≠ n → (h.lanes.get m).state = .vacant ∨ (h.lanes.get m).state = .released) →
            g.phase = .final) ∧
          (h.phase = .running ∨
              (∃ m, m ≠ n ∧ (h.lanes.get m).state ≠ .vacant ∧ (h.lanes.get m).state ≠ .released) →
            g.phase = h.phase)))

/-- DISQUALIFY and REINSTATE on a SWIMMING or FINISHED lane (R130, R131): the code already held, or no mark, is ALREADY; else the
mark is set or removed, HOLD_CHANGE raised and then any PLACE_CHANGE, a board update queued, and DONE carries the place after it
(by R100, the invariant `Placed`), under a presence byte (log 17). No hold set, no lane record and no other lane's mark
changes. -/
def Obligations.DisqualifyAndReinstate : Prop :=
  ∀ (l : Link) (tag b : Byte) (n : LaneNo) (s : State) (h : Heat), Takes l s → b.toNat = n.val → s.heat = some h →
    (h.lanes.get n).state = .swimming ∨ (h.lanes.get n).state = .finished →
    (∀ code, (h.desks.get n).dq = some code →
      exec (.disqualify l tag b code) s = .next (answered l tag 0x15 .already [] (counted l s))) ∧
    ((h.desks.get n).dq = none →
      exec (.reinstate l tag b) s = .next (answered l tag 0x16 .already [] (counted l s))) ∧
    (∀ code, (h.desks.get n).dq ≠ some code →
      ∃ t g, t.heat = some g ∧
        exec (.disqualify l tag b code) s =
          .next (answered l tag 0x15 .done (code :: optionalGroup [(g.desks.get n).place.map fun p => [byteOf p]]) t) ∧
        NoticesThenPlaces (.holdChange n .disqualify (some l) (h.desks.get n).hold (some code)) (counted l s) t ∧
        (g.desks.get n).dq = some code ∧ g.lanes = h.lanes ∧ g.phase = h.phase ∧ n ∈ t.board.laneQueue ∧
        (∀ m, (g.desks.get m).hold = (h.desks.get m).hold ∧ (m ≠ n → (g.desks.get m).dq = (h.desks.get m).dq))) ∧
    ((h.desks.get n).dq ≠ none →
      ∃ t g, t.heat = some g ∧
        exec (.reinstate l tag b) s =
          .next (answered l tag 0x16 .done (optionalGroup [(g.desks.get n).place.map fun p => [byteOf p]]) t) ∧
        NoticesThenPlaces (.holdChange n .reinstate (some l) (h.desks.get n).hold none) (counted l s) t ∧
        (g.desks.get n).dq = none ∧ g.lanes = h.lanes ∧ g.phase = h.phase ∧ n ∈ t.board.laneQueue ∧
        (∀ m, (g.desks.get m).hold = (h.desks.get m).hold ∧ (m ≠ n → (g.desks.get m).dq = (h.desks.get m).dq)))

/-! ## Lines and faults -/

/-- A line's level (R135, R145): in a running hub a move to a level other than the counted one begins a candidate at this moment, a
return discards it; before that only the line itself moves (log 8). The level already shown is no change. A two-level line has
no SHORT and no OPEN: the model's own stop (log 24). -/
def Obligations.SensedLevels : Prop :=
  ∀ (l : Line) (v : Level) (s : State),
    (l.fourLevel = false → v.isFault = true → exec (.sensedLevelChange l v) s = .fault .levelOfNoSuchBand) ∧
    (l.fourLevel = true ∨ v.isFault = false →
      ((s.decoder l).sensed = v → exec (.sensedLevelChange l v) s = .next s) ∧
      ((s.decoder l).sensed ≠ v → s.phase = .running →
        exec (.sensedLevelChange l v) s =
          .next (settle (s.modDecoder l fun d =>
            { d with sensed := v, candidate := if v = d.counted then none else some ⟨v, s.deckTime⟩ }))) ∧
      ((s.decoder l).sensed ≠ v → s.phase ≠ .running →
        exec (.sensedLevelChange l v) s = .next (s.modDecoder l fun d => { d with sensed := v })))

/-- A candidate counted (R136, R143): the level, its beginning and the stuck timer, of this decoder alone; an input out of service
hands on no event (R144). Without a candidate, or before its deglitch time, nothing happens (log 2). -/
def Obligations.CandidateCounts : Prop :=
  ∀ (l : Line) (s : State), s.phase = .running →
    (∀ c, (s.decoder l).candidate = some c →
      s.params.deglitch l (s.decoder l).counted c.level ≤ elapsed c.since s.deckTime →
      ∃ t, exec (.candidateCompletes l) s = .next t ∧ t.decoders = (countedAt l c.level c.since s).decoders ∧
        (∀ i, l.input = some i → s.inService i = false → t.heat = s.heat)) ∧
    ((∀ c, (s.decoder l).candidate = some c →
        elapsed c.since s.deckTime < s.params.deglitch l (s.decoder l).counted c.level) →
      exec (.candidateCompletes l) s = .next (settle s))

/-- Conditions of a four-level line judged at its fault record (R142, R150, R151, R152), no STUCK condition standing: one that begins
is judged by its class's mode, one that changes kind renames the present and, outside CLEAR, the last condition, one that ends
leads REPORTING to CLEAR and RETRY_WAIT to RETRY_TIMING. No other record changes. A pad or platform that leaves service is handed
to its lane (R160): the NONE inference of R78, UNMEASURED (R108), UNJUDGED PLATFORM_SERVICE (R113); a return changes nothing of the
race (R79). Each event raises one FAULT notice with the record as it leaves it, before any other notice, but none for a record
whose reported items stay and none under OFF for the present condition alone (R155). -/
def Obligations.LineConditions : Prop :=
  ∀ (l : Line) (i : Fin 71) (old new : Level) (since : DeckTime) (s : State), s.phase = .running → l.fourLevel = true →
    l.input = some i → (s.decoder l).stuck ≠ .expired → (s.decoder l).counted = old →
    (s.decoder l).candidate = some ⟨new, since⟩ → s.params.deglitch l old new ≤ elapsed since s.deckTime →
    ∃ t, exec (.candidateCompletes l) s = .next (settle t) ∧ (∀ j, j ≠ i → t.faults.get j = s.faults.get j) ∧
      (old.isFault = false → new.isFault = true →
        FaultsNoticed
          (faultRaised s.params i (lineClass l) .begins s.deckTime (s.faults.get i) (t.faults.get i)) s t) ∧
      (old.isFault = true → new.isFault = true → old ≠ new →
        FaultsNoticed (faultRaised s.params i (lineClass l) .kind s.deckTime (s.faults.get i) (t.faults.get i)) s t) ∧
      (old.isFault = true → new.isFault = false →
        FaultsNoticed (faultRaised s.params i (lineClass l) .ends s.deckTime (s.faults.get i) (t.faults.get i)) s t) ∧
      (old.isFault = false → new.isFault = false → FaultsNoticed [] s t) ∧
      (old.isFault = false → new.isFault = true →
        (s.faults.get i).state ≠ .reporting → (s.faults.get i).state ≠ .retryWait →
        t.faults.get i = beganRecord (s.params.mode (lineClass l)) (lineClass l) (levelCondition new) (s.faults.get i)) ∧
      (old.isFault = false → new.isFault = true → ServiceHanded l i s t) ∧ (old.isFault = true → t.heat = s.heat) ∧
      (old.isFault = true → new.isFault = true → old ≠ new →
        t.faults.get i =
          { s.faults.get i with
            present := (levelCondition new)
            last := if (s.faults.get i).state = .clear then (s.faults.get i).last else some (levelCondition new) }) ∧
      (old.isFault = true → new.isFault = false → t.faults.get i = endedRecord s.deckTime (s.faults.get i)) ∧
      (old.isFault = false → new.isFault = false → t.faults = s.faults)

/-- STUCK and retry timing (R143, R150, R152, R153, R159): a line ACTIVE for StuckTime reports STUCK under its class; its change to IDLE
ends the condition, and its change to SHORT or OPEN ends it and then begins the line condition, with a FAULT notice of each (two by
log 13) and the service judged once; a retry timer run out makes its record CLEAR, with a condition of another class that it
holds judged as a beginning by its own class in the one notice RETRY_EXPIRY (log 27), and changes nothing of the race. A pad that leaves service is
handed to its lane (R78, R160). Each raises its FAULT notice before any other (R155). A timer that has not run out expires nothing
(log 2). -/
def Obligations.StuckAndRetryTimers : Prop :=
  (∀ (l : Line) (i : Fin 71) (s : State), s.phase = .running → l.hasStuckTimer = true → l.input = some i →
    ((s.decoder l).stuck = .running → s.params.stuckTime ≤ elapsed (s.decoder l).since s.deckTime →
      ∃ t, exec (.stuckTimerExpiry l) s = .next (settle t) ∧
        FaultsNoticed
          (faultRaised s.params i (stuckClass l) .begins s.deckTime (s.faults.get i) (t.faults.get i)) s t ∧
        t.decoders = (s.modDecoder l fun d => { d with stuck := .expired }).decoders ∧
        ((s.faults.get i).state ≠ .reporting → (s.faults.get i).state ≠ .retryWait →
          t.faults.get i = beganRecord (s.params.mode (stuckClass l)) (stuckClass l) .stuck (s.faults.get i)) ∧
        ServiceHanded l i s t ∧ ∀ j, j ≠ i → t.faults.get j = s.faults.get j) ∧
    ((s.decoder l).stuck ≠ .running ∨ elapsed (s.decoder l).since s.deckTime < s.params.stuckTime →
      exec (.stuckTimerExpiry l) s = .next (settle s)) ∧
    (∀ since, (s.decoder l).stuck = .expired → (s.decoder l).counted = .active →
      (s.decoder l).candidate = some ⟨.idle, since⟩ → s.params.deglitch l .active .idle ≤ elapsed since s.deckTime →
      ∃ t, exec (.candidateCompletes l) s = .next (settle t) ∧
        t.faults.get i = endedRecord s.deckTime (s.faults.get i) ∧
        FaultsNoticed (faultRaised s.params i (stuckClass l) .ends s.deckTime (s.faults.get i) (t.faults.get i)) s t ∧
        (∀ j, j ≠ i → t.faults.get j = s.faults.get j) ∧ t.heat = s.heat) ∧
    (∀ new since middle, l.fourLevel = true → (s.decoder l).stuck = .expired → (s.decoder l).counted = .active →
      (s.decoder l).candidate = some ⟨new, since⟩ → new.isFault = true →
      s.params.deglitch l .active new ≤ elapsed since s.deckTime → middle = endedRecord s.deckTime (s.faults.get i) →
      ∃ t, exec (.candidateCompletes l) s = .next (settle t) ∧ t.decoders = (countedAt l new since s).decoders ∧
        t.faults.get i = beganRecord (s.params.mode (lineClass l)) (lineClass l) (levelCondition new) middle ∧
        FaultsNoticed
          (faultRaised s.params i (stuckClass l) .ends s.deckTime (s.faults.get i) middle ++
            faultRaised s.params i (lineClass l) .begins s.deckTime middle (t.faults.get i)) s t ∧
        ServiceHanded l i s t ∧ ∀ j, j ≠ i → t.faults.get j = s.faults.get j)) ∧
  (∀ (i : Fin 71) (s : State), s.phase = .running →
    (∀ a c limit, (s.faults.get i).state = .retryTiming → (s.faults.get i).retryStart = some a →
      (s.faults.get i).serviceClass = some c → s.params.retryTime (s.params.mode c) = some limit →
      (limit ≤ elapsed a s.deckTime →
        ∃ t, exec (.retryExpiry i) s = .next (settle t) ∧
          FaultsNoticed [faultNotice i c .retryExpiry s.deckTime (t.faults.get i)] s t ∧
          t.faults.get i = judgedOnClear s.params i c (clearRecord (s.faults.get i)) ∧
          (∀ j, j ≠ i → t.faults.get j = s.faults.get j) ∧ t.heat = s.heat ∧ t.decoders = s.decoders) ∧
      (elapsed a s.deckTime < limit → exec (.retryExpiry i) s = .next (settle s))) ∧
    ((s.faults.get i).state ≠ .retryTiming → exec (.retryExpiry i) s = .next (settle s)))

/-- CLEAR FAULTS (R155, R157): a named record without a present condition loses SEEN and, LATCHED, becomes CLEAR; one with a
condition, and every record not named, stays. One FAULT notice of cause CLEARED with the requesting link follows for each
changed record, inputs 0 to 70 and then the links, and no other notice; the class it names for a pad record without one is free
(log 14). DONE carries the records returned to service and those still out, one byte each (log 17); nothing else of the hub
moves. -/
def Obligations.ClearFaults : Prop :=
  ∀ (l : Link) (tag b : Byte) (s : State), Takes l s → b.toNat ≤ 73 ∨ b = 0xFF →
    ∃ t, exec (.clearFaults l tag b) s =
        .next (answered l tag 0x1B .done
          [byteOf (allInputs.countP fun i => !s.inService i && t.inService i),
            byteOf (allInputs.countP fun i => !t.inService i)] t) ∧
      FaultsCleared (namesInput b) (namesLink b) (some l) (counted l s) t

/-! ## The board -/

/-- The board transmitter (R162, R163): the end of a transmission records the frame's kind and runs the arbiter, `settle`; a QUIET
line sends the head of the event list, else HEADER when owed, else CLOCK when due unless it went last while a lane waits, else
the first lane waiting, else IDLE when due, with the line time of 10 bits a byte; a line that is SENDING keeps its frame. A LANE frame carries status, lengths completed,
displayed time, place, leg and tag of its lane as they stand when it is sent (R168). That a completion with nothing in flight does nothing, and one is taken whatever line time is left, is the model's choice (log 4). -/
def Obligations.BoardTransmitter : Prop :=
  ∀ s : State,
    (∀ f, s.phase = .running → s.board.flight = some f →
      exec .boardTransmissionCompletes s =
        .next (settle { s with board := { s.board with flight := none, lastKind := some f.frame.kind } })) ∧
    (s.phase = .running → s.board.flight = none → exec .boardTransmissionCompletes s = .next (settle s)) ∧
    (∀ f, s.board.flight = some f → (settle s).board = s.board) ∧
    (s.board.flight = none →
      (∀ i is, s.board.events = i :: is →
        (settle s).board =
          { s.board with events := is, flight := some ⟨.event i, (BoardFrame.event i).bytes.length * 750⟩ }) ∧
      (s.board.events = [] →
        (∀ h f, s.heat = some h → s.board.headerPending = true →
          f = .header ⟨h.definition.id, h.definition.lengths * h.definition.poolLength, h.definition.legs,
            (h.definition.segments.head?.map Segment.stroke).getD 0,
            allLanes.filter fun n => (h.lanes.get n).state != .vacant⟩ →
          (settle s).board =
            { s.board with headerPending := false, flight := some ⟨f, f.bytes.length * 750⟩ }) ∧
        (∀ h f, s.heat = some h → s.board.headerPending = false → s.board.clockDue = true →
          s.board.lastKind ≠ some .clock ∨ s.board.laneQueue = [] →
          f = (match s.board.freeze with
            | some z => BoardFrame.clock z.frozen true
            | none => BoardFrame.clock (h.raceTime s.deckTime / 100) false) →
          (settle s).board = { s.board with clockDue := false, flight := some ⟨f, f.bytes.length * 750⟩ }) ∧
        (∀ h n ns, s.heat = some h → s.board.headerPending = false →
          s.board.clockDue = false ∨ s.board.lastKind = some .clock → s.board.laneQueue = n :: ns →
          (settle s).board =
            { s.board with
              laneQueue := ns
              flight := some ⟨laneOnBoard h n, (laneOnBoard h n).bytes.length * 750⟩ }) ∧
        (s.heat = none ∨ (s.board.headerPending = false ∧ s.board.clockDue = false ∧ s.board.laneQueue = []) →
          (s.board.idleDue = true →
            (settle s).board =
              { s.board with
                idleDue := false
                flight := some ⟨.idle s.params.idlePattern, (BoardFrame.idle s.params.idlePattern).bytes.length * 750⟩ }) ∧
          (s.board.idleDue = false → (settle s).board = s.board))))

/-- The clock, freeze and idle timers (R169, R170, R171): each sets its flag, clock and idle starting again from this moment, the
freeze ending. A timer that is stopped or has not run out expires nothing (log 2). -/
def Obligations.BoardTimers : Prop :=
  ∀ s : State, s.phase = .running →
    (∀ t, s.board.clockTimer = some t →
      (t.limit ≤ elapsed t.start s.deckTime →
        exec .clockTimerExpiry s =
          .next (settle
            { s with board := { s.board with clockDue := true, clockTimer := some ⟨s.deckTime, s.params.clockInterval⟩ } })) ∧
      (elapsed t.start s.deckTime < t.limit → exec .clockTimerExpiry s = .next (settle s))) ∧
    (∀ z, s.board.freeze = some z →
      (z.timer.limit ≤ elapsed z.timer.start s.deckTime →
        exec .freezeTimerExpiry s = .next (settle { s with board := { s.board with freeze := none, clockDue := true } })) ∧
      (elapsed z.timer.start s.deckTime < z.timer.limit → exec .freezeTimerExpiry s = .next (settle s))) ∧
    (∀ t, s.board.idleTimer = some t →
      (t.limit ≤ elapsed t.start s.deckTime →
        exec .idleTimerExpiry s =
          .next (settle
            { s with board := { s.board with idleDue := true, idleTimer := some ⟨s.deckTime, s.params.idleInterval⟩ } })) ∧
      (elapsed t.start s.deckTime < t.limit → exec .idleTimerExpiry s = .next (settle s))) ∧
    (s.board.clockTimer = none → exec .clockTimerExpiry s = .next (settle s)) ∧
    (s.board.freeze = none → exec .freezeTimerExpiry s = .next (settle s)) ∧
    (s.board.idleTimer = none → exec .idleTimerExpiry s = .next (settle s))

/-! ## Frames -/

/-- What a lane request leaves, whatever its answer: everything but its own lane with its hold set and DQ mark, places, the race
state with the stop time and timers that a change of it moves, the board's work, notices and its own link's answers with their
count. -/
def Obligations.LaneRequestFrame : Prop :=
  ∀ (c : Instr) (l : Link) (tag kind b : Byte) (n : LaneNo) (s t : State), requestOf c = some (l, tag, kind) →
    laneOf c = some b → b.toNat = n.val → exec c s = .next t → LaneUntouched n l s t

/-- What the deck, board and timer commands leave: parameters, the heat queue, resets, link records, deck time, the waiting commands,
and the receiving and answering side of every link. -/
def Obligations.OwnCommandsFrame : Prop :=
  ∀ (c : Instr) (s t : State), ownCommand c = true → exec c s = .next t →
    t.phase = s.phase ∧ t.deckTime = s.deckTime ∧ t.resetn = s.resetn ∧ t.resetPending = s.resetPending ∧
    t.params = s.params ∧ t.queue = s.queue ∧ t.linkFaults = s.linkFaults ∧ t.pending = s.pending ∧
    ∀ l, (t.links.get l).outgoing = (s.links.get l).outgoing ∧
      (t.links.get l).unanswered = (s.links.get l).unanswered ∧ (t.links.get l).mask = (s.links.get l).mask ∧
      (t.links.get l).framer = (s.links.get l).framer

/-! ## Invariants -/

/-- The state after reset keeps every invariant stated below. -/
def Obligations.ResetKeepsTheInvariants : Prop :=
  LinksFit State.reset ∧ BoardFits State.reset ∧ QueueFits State.reset ∧ Settled State.reset ∧ ResetStands State.reset ∧
    DecodersShaped State.reset ∧ RaceShaped State.reset ∧ Placed State.reset

/-- Every step keeps the bounds of the queues: at most four taken requests unanswered on a link, counted rightly, at most four BUSY
refusals and 32 notices (R178, R182), at most four event items, each lane waiting once (R164, R166), at most four definitions and
no heat ID twice (R11). -/
def Obligations.StepsKeepTheBounds : Prop :=
  ∀ s t : State, LinksFit s ∧ BoardFits s ∧ QueueFits s → step s = .next t → LinksFit t ∧ BoardFits t ∧ QueueFits t

/-- Every step leaves no transmitter QUIET while it has work (R162, R180), and nothing standing in reset and start-up that a reset
clears (R174, R187). -/
def Obligations.StepsSettleAndReset : Prop :=
  ∀ s t : State, Settled s ∧ ResetStands s → step s = .next t → Settled t ∧ ResetStands t

/-- Every step keeps the decoders: the candidate is the sensed level exactly while that differs from the counted one (R135), a
stuck timer runs or has expired exactly while a pad's or button's counted level is ACTIVE (R143). -/
def Obligations.StepsKeepTheDecoders : Prop :=
  ∀ s t : State, DecodersShaped s → step s = .next t → DecodersShaped t

/-- Every step keeps the relation of race state, lane records and hold sets (R19 to R21, R42, R45, R119, R129) and the placing list
with its places (R100). -/
def Obligations.StepsKeepTheRace : Prop :=
  ∀ s t : State, RaceShaped s ∧ Placed s → step s = .next t → RaceShaped t ∧ Placed t

end
end

