-- ==== Sys2Proof/Laws/Heat.lean ====
section
/-! SUPPORT. What the shared race operations make of the current race: one lemma per operation, over the race alone, so that a
proof about lanes and desks needs neither notices nor the board. -/

namespace Sys2Proof.Machine

open Sys2Proof

theorem updAt_same {α : Type} {n : Nat} (v : Vector α n) (i : Fin n) (f : α → α) (h : f (v.get i) = v.get i) :
    updAt v i f = v := by
  apply Vector.ext
  intro j hj
  show (updAt v i f).get ⟨j, hj⟩ = v.get ⟨j, hj⟩
  rw [updAt_get]
  split
  · rename_i e
    rw [h, e]
  · rfl

theorem vector_ext_get {α : Type} {n : Nat} {v w : Vector α n} (h : ∀ i, v.get i = w.get i) : v = w := by
  apply Vector.ext
  intro j hj
  exact h ⟨j, hj⟩

/-! ## Desks -/

@[simp] theorem deskOf_some (s : State) (n : LaneNo) (h : Heat) (hh : s.heat = some h) :
    s.deskOf n = some (h.desks.get n) := by
  simp [State.deskOf, hh]

/-- A desk reported leaves the race as it was. -/
@[simp] theorem reportDesk_heat (n : LaneNo) (c : HoldCause) (l : Option Link) (b s : State) :
    (reportDesk n c l b s).heat = s.heat := by
  unfold reportDesk
  split
  · rfl
  · split
    · rfl
    · exact raise_heat _ _

theorem changeDesk_heat (n : LaneNo) (c : HoldCause) (l : Option Link) (f : Desk → Desk) (s : State) :
    (changeDesk n c l f s).heat = s.heat.map fun h => h.modDesk n f := reportDesk_heat ..

/-- A change of a desk in a race: nothing, or the new items with their HOLD_CHANGE notice. -/
theorem changeDesk_some (n : LaneNo) (c : HoldCause) (l : Option Link) (f : Desk → Desk) (s : State) (h : Heat)
    (hh : s.heat = some h) (k : Desk) (hk : f (h.desks.get n) = k) :
    changeDesk n c l f s =
      if k = h.desks.get n then s else raise (.holdChange n c l k.hold k.dq) (s.modDesk n f) := by
  have hg : (s.modDesk n f).deskOf n = some k := by
    simp [State.deskOf, State.modDesk, State.modHeat, Heat.modDesk, hh, hk]
  have hs : s.deskOf n = some (h.desks.get n) := deskOf_some s n h hh
  simp only [changeDesk, reportDesk, hg, hs, Option.some.injEq]
  by_cases e : k = h.desks.get n
  · rw [if_pos e.symm, if_pos e]
    rw [State.modDesk, State.modHeat, hh, Option.map_some, Heat.modDesk, updAt_same _ _ _ (hk.trans e)]
    rw [show ({ h with desks := h.desks } : Heat) = h from rfl, ← hh]
  · rw [if_neg fun q => e q.symm, if_neg e]

@[simp] theorem addReason_heat (n : LaneNo) (r : Reason) (s : State) :
    (addReason n r s).heat = s.heat.map fun h => h.modDesk n (Desk.addReason r) := changeDesk_heat _ _ _ _ s

@[simp] theorem raceNotice_heat (c : RaceCause) (l : Option Link) (s : State) : (raceNotice c l s).heat = s.heat := rfl

@[simp] theorem heatEvent_heat (c : EventCode) (v : Nat) (s : State) : (heatEvent c v s).heat = s.heat := by
  unfold heatEvent
  split <;> simp [*]

@[simp] theorem startAdvance_heat (s : State) :
    (startAdvance s).heat = s.heat.map fun h => { h with advance := some ⟨s.deckTime, s.params.advanceDelay⟩ } := rfl

/-- The reasons of a desk joined by some more. -/
def Desk.addReasons (rs : List Reason) (k : Desk) : Desk := rs.foldl (fun k r => k.addReason r) k

theorem modDesk_modDesk (h : Heat) (n : LaneNo) (f g : Desk → Desk) :
    (h.modDesk n f).modDesk n g = h.modDesk n fun k => g (f k) := by
  simp only [Heat.modDesk]
  congr 1
  apply vector_ext_get
  intro i
  by_cases e : i = n <;> simp [updAt_get, e]

theorem modLane_modLane (h : Heat) (n : LaneNo) (f g : Lane → Lane) :
    (h.modLane n f).modLane n g = h.modLane n fun k => g (f k) := by
  simp only [Heat.modLane]
  congr 1
  apply vector_ext_get
  intro i
  by_cases e : i = n <;> simp [updAt_get, e]

@[simp] theorem modLane_get_self (h : Heat) (n : LaneNo) (f : Lane → Lane) :
    (h.modLane n f).lanes.get n = f (h.lanes.get n) := by simp [Heat.modLane]

theorem modLane_get (h : Heat) (n m : LaneNo) (f : Lane → Lane) :
    (h.modLane n f).lanes.get m = if m = n then f (h.lanes.get n) else h.lanes.get m := by
  simp [Heat.modLane, updAt_get]

@[simp] theorem modDesk_get_self (h : Heat) (n : LaneNo) (f : Desk → Desk) :
    (h.modDesk n f).desks.get n = f (h.desks.get n) := by simp [Heat.modDesk]

theorem modDesk_get (h : Heat) (n m : LaneNo) (f : Desk → Desk) :
    (h.modDesk n f).desks.get m = if m = n then f (h.desks.get n) else h.desks.get m := by
  simp [Heat.modDesk, updAt_get]

@[simp] theorem modLane_desks (h : Heat) (n : LaneNo) (f : Lane → Lane) : (h.modLane n f).desks = h.desks := rfl
@[simp] theorem modDesk_lanes (h : Heat) (n : LaneNo) (f : Desk → Desk) : (h.modDesk n f).lanes = h.lanes := rfl
@[simp] theorem modLane_definition (h : Heat) (n : LaneNo) (f : Lane → Lane) : (h.modLane n f).definition = h.definition := rfl
@[simp] theorem modDesk_definition (h : Heat) (n : LaneNo) (f : Desk → Desk) : (h.modDesk n f).definition = h.definition := rfl
@[simp] theorem modLane_phase (h : Heat) (n : LaneNo) (f : Lane → Lane) : (h.modLane n f).phase = h.phase := rfl
@[simp] theorem modDesk_phase (h : Heat) (n : LaneNo) (f : Desk → Desk) : (h.modDesk n f).phase = h.phase := rfl
@[simp] theorem modLane_startTime (h : Heat) (n : LaneNo) (f : Lane → Lane) : (h.modLane n f).startTime = h.startTime := rfl
@[simp] theorem modDesk_startTime (h : Heat) (n : LaneNo) (f : Desk → Desk) : (h.modDesk n f).startTime = h.startTime := rfl
@[simp] theorem modLane_stopTime (h : Heat) (n : LaneNo) (f : Lane → Lane) : (h.modLane n f).stopTime = h.stopTime := rfl
@[simp] theorem modDesk_stopTime (h : Heat) (n : LaneNo) (f : Desk → Desk) : (h.modDesk n f).stopTime = h.stopTime := rfl
@[simp] theorem modLane_recalls (h : Heat) (n : LaneNo) (f : Lane → Lane) : (h.modLane n f).recalls = h.recalls := rfl
@[simp] theorem modDesk_recalls (h : Heat) (n : LaneNo) (f : Desk → Desk) : (h.modDesk n f).recalls = h.recalls := rfl
@[simp] theorem modLane_placing (h : Heat) (n : LaneNo) (f : Lane → Lane) : (h.modLane n f).placing = h.placing := rfl
@[simp] theorem modDesk_placing (h : Heat) (n : LaneNo) (f : Desk → Desk) : (h.modDesk n f).placing = h.placing := rfl

@[simp] theorem addReasons_heat (n : LaneNo) (rs : List Reason) (s : State) :
    (addReasons n rs s).heat = s.heat.map fun h => h.modDesk n (Desk.addReasons rs) := by
  unfold addReasons
  induction rs generalizing s with
  | nil =>
    cases hh : s.heat with
    | none => simp [hh]
    | some h =>
      have : h.modDesk n (Desk.addReasons []) = h := by
        simp [Heat.modDesk, updAt_same _ _ (Desk.addReasons []) (rfl : Desk.addReasons [] (h.desks.get n) = h.desks.get n)]
      simp [hh, this]
  | cons r rs ih =>
    rw [List.foldl_cons, ih, addReason_heat]
    cases s.heat with
    | none => rfl
    | some h =>
      simp only [Option.map_some, modDesk_modDesk]
      rfl

/-! ## Places -/

/-- A race whose places some lanes have been given. -/
def Heat.givePlaces (h : Heat) (ns : List LaneNo) (p : LaneNo → Option Nat) : Heat :=
  { h with desks := Vector.ofFn fun n => if n ∈ ns then { h.desks.get n with place := p n } else h.desks.get n }

theorem rankTime_congr {h g : Heat} (hl : g.lanes = h.lanes) (hd : ∀ n, (g.desks.get n).dq = (h.desks.get n).dq) :
    g.rankTime = h.rankTime := by
  funext n
  simp [Heat.rankTime, hl, hd]

theorem placeOf_congr {h g : Heat} (hl : g.lanes = h.lanes) (hd : ∀ n, (g.desks.get n).dq = (h.desks.get n).dq) :
    g.placeOf = h.placeOf := by
  funext n
  simp [Heat.placeOf, rankTime_congr hl hd]

theorem givePlaces_get (h : Heat) (ns : List LaneNo) (p : LaneNo → Option Nat) (n : LaneNo) :
    (h.givePlaces ns p).desks.get n = if n ∈ ns then { h.desks.get n with place := p n } else h.desks.get n := by
  show (Vector.ofFn _)[n.val] = _
  simp

theorem givePlaces_placeOf (h : Heat) (ns : List LaneNo) (p : LaneNo → Option Nat) :
    (h.givePlaces ns p).placeOf = h.placeOf := by
  refine placeOf_congr (h := h) (g := h.givePlaces ns p) rfl fun n => ?_
  rw [givePlaces_get]
  split <;> rfl

theorem placeLane_heat (s : State) (n : LaneNo) (h : Heat) (hh : s.heat = some h) :
    (placeLane s n).heat = some (h.givePlaces [n] h.placeOf) := by
  have e : ∀ k : Heat, k = h.modDesk n (fun k => { k with place := h.placeOf n }) → k = h.givePlaces [n] h.placeOf := by
    intro k hk
    subst hk
    simp only [Heat.modDesk, Heat.givePlaces]
    congr 1
    apply vector_ext_get
    intro i
    have := givePlaces_get h [n] h.placeOf i
    simp only [Heat.givePlaces] at this
    rw [this, updAt_get]
    by_cases e : i = n <;> simp [e]
  unfold placeLane
  simp only [hh]
  split
  · rename_i e1
    rw [hh]
    congr 1
    apply e
    simp only [Heat.modDesk]
    rw [updAt_same]
    rw [e1]
  · simp only [queueLane_heat, raise_heat, State.modDesk_heat, hh, Option.map_some]
    congr 1
    exact e _ rfl

theorem placeLanes_heat (ns : List LaneNo) (s : State) (h : Heat) (hh : s.heat = some h) :
    (ns.foldl placeLane s).heat = some (h.givePlaces ns h.placeOf) := by
  induction ns generalizing s h with
  | nil =>
    have : h.givePlaces [] h.placeOf = h := by
      simp only [Heat.givePlaces]
      congr 1
      apply vector_ext_get
      intro i
      exact givePlaces_get h [] h.placeOf i
    rw [this]
    exact hh
  | cons n ns ih =>
    rw [List.foldl_cons, ih _ _ (placeLane_heat s n h hh), givePlaces_placeOf]
    congr 1
    simp only [Heat.givePlaces]
    congr 1
    apply vector_ext_get
    intro i
    have a := givePlaces_get (h.givePlaces [n] h.placeOf) ns h.placeOf i
    have b := givePlaces_get h (n :: ns) h.placeOf i
    have c := givePlaces_get h [n] h.placeOf i
    simp only [Heat.givePlaces] at a b c
    rw [a, b, c]
    by_cases e1 : i = n <;> by_cases e2 : i ∈ ns <;> simp [e1, e2]

/-- Every place recomputed (R100). -/
def Heat.replaced (h : Heat) : Heat :=
  { h with
    placing := h.rankedLanes
    desks := Vector.ofFn fun n => { h.desks.get n with place := h.placeOf n } }

theorem replaced_get (h : Heat) (n : LaneNo) : h.replaced.desks.get n = { h.desks.get n with place := h.placeOf n } := by
  show (Vector.ofFn _)[n.val] = _
  simp

@[simp] theorem replaced_lanes (h : Heat) : h.replaced.lanes = h.lanes := rfl
@[simp] theorem replaced_definition (h : Heat) : h.replaced.definition = h.definition := rfl
@[simp] theorem replaced_phase (h : Heat) : h.replaced.phase = h.phase := rfl
@[simp] theorem replaced_startTime (h : Heat) : h.replaced.startTime = h.startTime := rfl
@[simp] theorem replaced_stopTime (h : Heat) : h.replaced.stopTime = h.stopTime := rfl
@[simp] theorem replaced_recalls (h : Heat) : h.replaced.recalls = h.recalls := rfl

@[simp] theorem recomputePlaces_heat (s : State) : (recomputePlaces s).heat = s.heat.map Heat.replaced := by
  cases hh : s.heat with
  | none =>
    have : ∀ (ns : List LaneNo) (t : State), t.heat = none → (ns.foldl placeLane t).heat = none := by
      intro ns
      induction ns with
      | nil => exact fun t h => h
      | cons n ns ih =>
        intro t h
        rw [List.foldl_cons]
        apply ih
        simp [placeLane, h]
    unfold recomputePlaces
    rw [this]
    · rfl
    · simp [hh]
  | some h =>
    unfold recomputePlaces
    rw [placeLanes_heat allLanes _ { h with placing := h.rankedLanes } (by simp [hh])]
    simp only [Option.map_some, Heat.replaced]
    congr 1

/-! ## The end of a lane's race -/

/-- A race tested by R35. -/
def Heat.reviewed (h : Heat) (now : DeckTime) : Heat :=
  if h.phase = .running ∧ h.lanesWhere Lane.unfinished = [] then
    { h with phase := .review, stopTime := some (h.raceTime now), overtimeTimer := false }
  else h

@[simp] theorem testReview_heat (s : State) : (testReview s).heat = s.heat.map fun h => h.reviewed s.deckTime := by
  unfold testReview Heat.reviewed
  cases hh : s.heat with
  | none => simp [hh]
  | some h =>
    simp only [Option.map_some]
    split
    · simp [hh]
    · exact hh

/-- A race tested by R36. -/
def Heat.finalised (h : Heat) (p : Params) (now : DeckTime) : Heat :=
  if h.phase = .review ∧ h.lanesWhere Lane.unreleased = [] then
    { h with
      phase := .final
      advance := if p.autoAdvance then some ⟨now, p.advanceDelay⟩ else h.advance }
  else h

@[simp] theorem testFinal_heat (s : State) : (testFinal s).heat = s.heat.map fun h => h.finalised s.params s.deckTime := by
  unfold testFinal Heat.finalised
  cases hh : s.heat with
  | none => simp [hh]
  | some h =>
    simp only [Option.map_some]
    split
    · by_cases e : s.params.autoAdvance = true
      · have : (raceNotice .allReleased none (heatEvent .final 0 (s.modHeat fun h => { h with phase := .final }))).params = s.params :=
          ((RaceOnly.raceNotice _ _ _).params.trans (RaceOnly.heatEvent _ _ _).params)
        have d : (raceNotice .allReleased none (heatEvent .final 0 (s.modHeat fun h => { h with phase := .final }))).deckTime = s.deckTime :=
          ((RaceOnly.raceNotice _ _ _).deckTime.trans (RaceOnly.heatEvent _ _ _).deckTime)
        simp [this, d, e, hh]
      · have : (raceNotice .allReleased none (heatEvent .final 0 (s.modHeat fun h => { h with phase := .final }))).params = s.params :=
          ((RaceOnly.raceNotice _ _ _).params.trans (RaceOnly.heatEvent _ _ _).params)
        simp [this, e, hh]
    · exact hh

/-- A lane released and R36 tested; without a result nothing is released. -/
def Heat.releasedLane (h : Heat) (n : LaneNo) (p : Params) (now : DeckTime) : Heat :=
  if (h.lanes.get n).result = none then h else (h.modLane n fun l => { l with state := .released }).finalised p now

theorem releaseLane_heat (n : LaneNo) (c : Option Link) (s : State) :
    (releaseLane n c s).heat = s.heat.map fun h => h.releasedLane n s.params s.deckTime := by
  unfold releaseLane Heat.releasedLane
  cases hh : s.heat with
  | none => simp [hh]
  | some h =>
    simp only [Option.map_some]
    cases hr : (h.lanes.get n).result with
    | none => simp [hh]
    | some core => simp [hh]

/-- The release check of a lane (R127). -/
def Heat.checked (h : Heat) (n : LaneNo) (p : Params) (now : DeckTime) : Heat :=
  if h.definition.releaseMode = .auto ∧ (h.lanes.get n).state = .finished ∧ (h.desks.get n).hold.isEmpty = true then
    h.releasedLane n p now
  else h

@[simp] theorem releaseCheck_heat (n : LaneNo) (s : State) :
    (releaseCheck n s).heat = s.heat.map fun h => h.checked n s.params s.deckTime := by
  unfold releaseCheck Heat.checked
  cases hh : s.heat with
  | none => simp [hh]
  | some h =>
    simp only [Option.map_some]
    split
    · rw [releaseLane_heat, hh]
      rfl
    · exact hh

/-- A lane finished with all its effects (R56, R94). -/
def Heat.finishedLane (h : Heat) (n : LaneNo) (core : ResultCore) (rs : List Reason) (p : Params) (now : DeckTime) : Heat :=
  let g := (h.modLane n (Lane.finish core)).modDesk n (Desk.addReasons rs)
  let g := if core.official.isSome then g.replaced else g
  ((g.checked n p now).reviewed now).finalised p now

theorem finishLane_heat (n : LaneNo) (core : ResultCore) (l : Option Link) (rs : List Reason) (s : State) :
    (finishLane n core l rs s).heat = s.heat.map fun h => h.finishedLane n core rs s.params s.deckTime := by
  have hp : (addReasons n rs (queueLane n (raise (.finish n core l) (s.modLane n (Lane.finish core))))).params = s.params :=
    (RaceOnly.addReasons _ _ _).params
  have hd : (addReasons n rs (queueLane n (raise (.finish n core l) (s.modLane n (Lane.finish core))))).deckTime = s.deckTime :=
    (RaceOnly.addReasons _ _ _).deckTime
  unfold finishLane Heat.finishedLane
  cases hh : s.heat with
  | none => by_cases e : core.official.isSome = true <;> simp [e, hh]
  | some h =>
    by_cases e : core.official.isSome = true
    · simp [e, hh, hp, hd, (RaceOnly.recomputePlaces _).params, (RaceOnly.recomputePlaces _).deckTime,
        (RaceOnly.releaseCheck _ _).params, (RaceOnly.releaseCheck _ _).deckTime, (RaceOnly.testReview _).params,
        (RaceOnly.testReview _).deckTime]
    · simp [e, hh, hp, hd, (RaceOnly.releaseCheck _ _).params, (RaceOnly.releaseCheck _ _).deckTime,
        (RaceOnly.testReview _).params, (RaceOnly.testReview _).deckTime]

/-! ## Tests over the lanes -/

theorem unreleased_iff (l : Lane) : l.unreleased = true ↔ l.state ≠ .vacant ∧ l.state ≠ .released := by
  cases hs : l.state <;> simp [Lane.unreleased, hs]

theorem unfinished_iff (l : Lane) : l.unfinished = true ↔ l.state = .ready ∨ l.state = .swimming ∨ l.state = .collect := by
  cases hs : l.state <;> simp [Lane.unfinished, hs]

theorem lanesWhere_nil (h : Heat) (p : Lane → Bool) : h.lanesWhere p = [] ↔ ∀ n, p (h.lanes.get n) = false := by
  simp [Heat.lanesWhere, List.filter_eq_nil_iff]

theorem queueEvent_laneQueue (i : EventItem) (s : State) : (queueEvent i s).board.laneQueue = s.board.laneQueue := by
  simp only [queueEvent, State.modBoard_board, Board.queueEvent]
  split <;> rfl

theorem heatEvent_laneQueue (c : EventCode) (v : Nat) (s : State) : (heatEvent c v s).board.laneQueue = s.board.laneQueue := by
  unfold heatEvent
  split
  · rfl
  · exact queueEvent_laneQueue _ s

theorem testFinal_laneQueue (s : State) : (testFinal s).board.laneQueue = s.board.laneQueue := by
  unfold testFinal
  cases s.heat with
  | none => rfl
  | some h =>
    dsimp only
    split
    · split
      · exact heatEvent_laneQueue _ _ _
      · exact heatEvent_laneQueue _ _ _
    · rfl

theorem mem_queueLane (n : LaneNo) (s : State) : n ∈ (queueLane n s).board.laneQueue := by
  simp only [queueLane, State.modBoard_board, Board.queueLane]
  split
  · rename_i c
    simpa using c
  · simp

/-! ## Lanes and desks after a release check -/

theorem finalised_lanes (h : Heat) (p : Params) (now : DeckTime) : (h.finalised p now).lanes = h.lanes := by
  unfold Heat.finalised
  split <;> rfl

theorem finalised_desks (h : Heat) (p : Params) (now : DeckTime) : (h.finalised p now).desks = h.desks := by
  unfold Heat.finalised
  split <;> rfl

theorem reviewed_lanes (h : Heat) (now : DeckTime) : (h.reviewed now).lanes = h.lanes := by
  unfold Heat.reviewed
  split <;> rfl

theorem reviewed_desks (h : Heat) (now : DeckTime) : (h.reviewed now).desks = h.desks := by
  unfold Heat.reviewed
  split <;> rfl

theorem checked_desks (h : Heat) (n : LaneNo) (p : Params) (now : DeckTime) : (h.checked n p now).desks = h.desks := by
  unfold Heat.checked Heat.releasedLane Heat.finalised
  split
  · split
    · rfl
    · split <;> rfl
  · rfl

theorem checked_definition (h : Heat) (n : LaneNo) (p : Params) (now : DeckTime) :
    (h.checked n p now).definition = h.definition := by
  unfold Heat.checked Heat.releasedLane Heat.finalised
  split
  · split
    · rfl
    · split <;> rfl
  · rfl

/-- The lane of a release check: RELEASED when it was FINISHED in release mode AUTO with an empty hold set (R127). -/
theorem checked_lane (h : Heat) (n : LaneNo) (p : Params) (now : DeckTime) :
    (h.checked n p now).lanes.get n =
      { h.lanes.get n with
        state :=
          if (h.lanes.get n).state = .finished ∧ (h.lanes.get n).result ≠ none then
            (if h.definition.releaseMode = .auto ∧ (h.desks.get n).hold.isEmpty = true then .released else .finished)
          else (h.lanes.get n).state } := by
  unfold Heat.checked Heat.releasedLane
  split
  · rename_i c
    obtain ⟨c1, c2, c3⟩ := c
    split
    · rename_i d
      rw [if_neg (by simp [d])]
    · rename_i d
      rw [finalised_lanes]
      simp [c1, c2, c3, d]
  · rename_i c
    by_cases x : (h.lanes.get n).state = .finished ∧ (h.lanes.get n).result ≠ none
    · rw [if_pos x, if_neg]
      · rw [← x.1]
      · rintro ⟨p, q⟩
        exact c ⟨p, x.1, q⟩
    · rw [if_neg x]

theorem checked_other (h : Heat) (n : LaneNo) (p : Params) (now : DeckTime) (m : LaneNo) (hm : m ≠ n) :
    (h.checked n p now).lanes.get m = h.lanes.get m := by
  unfold Heat.checked Heat.releasedLane
  split
  · split
    · rfl
    · rw [finalised_lanes, modLane_get, if_neg hm]
  · rfl

end Sys2Proof.Machine
end

