-- ==== Sys2Proof/Laws/Judged.lean ====
section
/-! SUPPORT. What exchange judging, inference and acceptance make of the current race: `Exchanged` for the operations over one
lane's exchange records, `Judged` when its reaction arming may end too, `Inferred` for the NONE entries of a chain. -/

namespace Sys2Proof.Machine

open Sys2Proof

/-! ## Exchange records -/

/-- Only the exchange records of one lane and the two exchange reasons of its hold set have changed, a reason at most joined. -/
structure Exchanged (n : LaneNo) (h g : Heat) : Prop where
  rest : g = { h with lanes := g.lanes, desks := g.desks }
  lane : ∃ xs, g.lanes.get n = { h.lanes.get n with exchanges := xs }
  desk : ∃ a b, g.desks.get n =
      { h.desks.get n with
        hold :=
          { (h.desks.get n).hold with
            reasons := { (h.desks.get n).hold.reasons with exchangeEarly := a, exchangeUnjudged := b } } } ∧
    ((h.desks.get n).hold.reasons.exchangeEarly = true → a = true) ∧
    ((h.desks.get n).hold.reasons.exchangeUnjudged = true → b = true)
  others : ∀ m, m ≠ n → g.lanes.get m = h.lanes.get m ∧ g.desks.get m = h.desks.get m

theorem Exchanged.refl (n : LaneNo) (h : Heat) : Exchanged n h h := by
  refine ⟨rfl, ⟨_, rfl⟩, ⟨_, _, rfl, ?_, ?_⟩, fun _ _ => ⟨rfl, rfl⟩⟩
  · exact id
  · exact id

theorem Exchanged.trans {n : LaneNo} {a b c : Heat} (h : Exchanged n a b) (k : Exchanged n b c) : Exchanged n a c := by
  obtain ⟨x1, l1⟩ := h.lane
  obtain ⟨x2, l2⟩ := k.lane
  obtain ⟨e1, u1, d1, m1, o1⟩ := h.desk
  obtain ⟨e2, u2, d2, m2, o2⟩ := k.desk
  refine ⟨?_, ⟨x2, by rw [l2, l1]⟩, ⟨e2, u2, by rw [d2, d1], ?_, ?_⟩, fun m hm => ?_⟩
  · have p := h.rest
    have q := k.rest
    rw [p] at q
    exact q
  · intro t
    apply m2
    rw [d1]
    exact m1 t
  · intro t
    apply o2
    rw [d1]
    exact o1 t
  · exact ⟨(k.others m hm).1.trans (h.others m hm).1, (k.others m hm).2.trans (h.others m hm).2⟩

/-- An operation whose effect on the race is `Exchanged`. -/
def ExchangedTo (n : LaneNo) (s t : State) : Prop := ∀ h, s.heat = some h → ∃ g, t.heat = some g ∧ Exchanged n h g

theorem ExchangedTo.refl (n : LaneNo) (s : State) : ExchangedTo n s s := fun h hh => ⟨h, hh, Exchanged.refl n h⟩

theorem ExchangedTo.trans {n : LaneNo} {a b c : State} (h : ExchangedTo n a b) (k : ExchangedTo n b c) : ExchangedTo n a c := by
  intro x hx
  obtain ⟨y, hy, e⟩ := h x hx
  obtain ⟨z, hz, f⟩ := k y hy
  exact ⟨z, hz, e.trans f⟩

theorem modExchange_exchanged (s : State) (n : LaneNo) (leg : Nat) (f : Exchange → Exchange) :
    ExchangedTo n s (s.modExchange n leg f) := by
  intro h hh
  refine ⟨h.modLane n fun l => { l with exchanges := l.exchanges.map fun x => if x.leg = leg then f x else x },
    by rw [State.modExchange, State.modLane_heat, hh]; rfl, rfl, ⟨_, modLane_get_self _ _ _⟩, ⟨_, _, rfl, id, id⟩, ?_⟩
  intro m hm
  exact ⟨by rw [modLane_get, if_neg hm], rfl⟩

theorem addReason_exchanged (s : State) (n : LaneNo) (r : Reason) (hr : r = .exchangeEarly ∨ r = .exchangeUnjudged) :
    ExchangedTo n s (addReason n r s) := by
  intro h hh
  refine ⟨h.modDesk n (Desk.addReason r), by rw [addReason_heat, hh]; rfl, rfl, ⟨_, rfl⟩, ?_, ?_⟩
  · rcases hr with hr | hr <;> subst hr
    · exact ⟨true, _, by rw [modDesk_get_self]; rfl, fun _ => rfl, id⟩
    · exact ⟨_, true, by rw [modDesk_get_self]; rfl, id, fun _ => rfl⟩
  · intro m hm
    exact ⟨rfl, by rw [modDesk_get, if_neg hm]⟩

theorem completeExchange_exchanged (s : State) (n : LaneNo) (x : Exchange) (r : Option Reason)
    (hr : ∀ q, r = some q → q = .exchangeEarly ∨ q = .exchangeUnjudged) :
    ExchangedTo n s (completeExchange n x r s) := by
  have a : ExchangedTo n s (raise (.exchange n x) (s.modExchange n x.leg fun _ => x)) := by
    intro h hh
    obtain ⟨g, hg, e⟩ := modExchange_exchanged s n x.leg (fun _ => x) h hh
    exact ⟨g, by rw [raise_heat, hg], e⟩
  unfold completeExchange
  cases r with
  | none => exact a
  | some q => exact a.trans (addReason_exchanged _ n q (hr q rfl))

theorem giveVerdict_exchanged (s : State) (n : LaneNo) (x : Exchange) (v : Verdict) :
    ExchangedTo n s (giveVerdict n x v s) := by
  apply completeExchange_exchanged
  intro q hq
  cases v <;> simp [Verdict.reason] at hq <;> simp [← hq]

theorem judgeMargin_exchanged (s : State) (n : LaneNo) (a : Nat) (x : Exchange) : ExchangedTo n s (judgeMargin n a x s) := by
  unfold judgeMargin
  split
  · exact giveVerdict_exchanged _ _ _ _
  · exact modExchange_exchanged _ _ _ _

theorem settleTouch_exchanged (s : State) (n : LaneNo) (e : SplitEntry) : ExchangedTo n s (settleTouch n e s) := by
  unfold settleTouch
  split
  · exact ExchangedTo.refl n s
  · split
    · exact ExchangedTo.refl n s
    · split
      · exact giveVerdict_exchanged _ _ _ _
      · exact judgeMargin_exchanged _ _ _ _

theorem settleTakeoff_exchanged (s : State) (n : LaneNo) (e : SplitEntry) : ExchangedTo n s (settleTakeoff n e s) := by
  unfold settleTakeoff
  split
  · exact ExchangedTo.refl n s
  · split
    · exact ExchangedTo.refl n s
    · split
      · exact giveVerdict_exchanged _ _ _ _
      · exact ExchangedTo.refl n s

theorem armExchange_exchanged (s : State) (n : LaneNo) (m : Nat) : ExchangedTo n s (armExchange n m s) := by
  unfold armExchange
  split
  · exact ExchangedTo.refl n s
  · split
    · exact ExchangedTo.refl n s
    · split
      · exact modExchange_exchanged _ _ _ _
      · exact giveVerdict_exchanged _ _ _ _

theorem abandonExchange_exchanged (s : State) (n : LaneNo) (x : Exchange) : ExchangedTo n s (abandonExchange n s x) := by
  unfold abandonExchange
  split
  · apply completeExchange_exchanged
    intro q hq
    split at hq
    · exact Or.inr (by simpa using hq.symm)
    · cases hq
  · exact ExchangedTo.refl n s

theorem abandonExchanges_exchanged (s : State) (n : LaneNo) : ExchangedTo n s (abandonExchanges n s) := by
  have : ∀ (xs : List Exchange) (t : State), ExchangedTo n t (xs.foldl (abandonExchange n) t) := by
    intro xs
    induction xs with
    | nil => exact fun t => ExchangedTo.refl n t
    | cons x xs ih => exact fun t => (abandonExchange_exchanged t n x).trans (ih _)
  unfold abandonExchanges
  split
  · exact ExchangedTo.refl n s
  · exact this _ _

theorem judgeTakeoff_exchanged (s : State) (n : LaneNo) (x : Exchange) : ExchangedTo n s (judgeTakeoff n s x) := by
  unfold judgeTakeoff
  split
  · exact ExchangedTo.refl n s
  · exact judgeMargin_exchanged _ _ _ _

theorem judgeTakeoffs_exchanged (j s : State) (n : LaneNo) : ExchangedTo n s (judgeTakeoffs j n s) := by
  unfold judgeTakeoffs
  generalize newTakeoffs j s n = xs
  induction xs generalizing s with
  | nil => exact ExchangedTo.refl n s
  | cons x xs ih => exact (judgeTakeoff_exchanged s n x).trans (ih _)

/-- A lane reported: its race is what the verdicts of its takeoffs make of it. -/
theorem reportLane_heat (b s : State) (n : LaneNo) : (reportLane b s n).heat = (judgeTakeoffs b n s).heat := by
  unfold reportLane
  dsimp only
  split
  · exact reportDesk_heat ..
  · rfl

theorem reportLane_exchanged (b s : State) (n : LaneNo) : ExchangedTo n s (reportLane b s n) := fun h hh => by
  rw [reportLane_heat]
  exact judgeTakeoffs_exchanged b s n h hh

/-! ## Judging with the reaction arming -/

/-- A reaction record as it was, or with its arming ended. -/
def reactionEnds (a b : Option Reaction) : Prop := b = a ∨ b = a.map fun r => { r with armed := false }

theorem reactionEnds.trans {a b c : Option Reaction} (h : reactionEnds a b) (k : reactionEnds b c) : reactionEnds a c := by
  rcases h with h | h <;> rcases k with k | k <;> subst h k
  · exact Or.inl rfl
  · exact Or.inr rfl
  · exact Or.inr rfl
  · exact Or.inr (by cases a <;> rfl)

/-- Only the exchange records of one lane, its reaction arming and the two exchange reasons of its hold set have changed. -/
structure Judged (n : LaneNo) (h g : Heat) : Prop where
  rest : g = { h with lanes := g.lanes, desks := g.desks }
  lane : ∃ xs r, g.lanes.get n = { h.lanes.get n with exchanges := xs, reaction := r } ∧
    reactionEnds (h.lanes.get n).reaction r
  desk : ∃ a b, g.desks.get n =
      { h.desks.get n with
        hold :=
          { (h.desks.get n).hold with
            reasons := { (h.desks.get n).hold.reasons with exchangeEarly := a, exchangeUnjudged := b } } } ∧
    ((h.desks.get n).hold.reasons.exchangeEarly = true → a = true) ∧
    ((h.desks.get n).hold.reasons.exchangeUnjudged = true → b = true)
  others : ∀ m, m ≠ n → g.lanes.get m = h.lanes.get m ∧ g.desks.get m = h.desks.get m

theorem Exchanged.judged {n : LaneNo} {h g : Heat} (e : Exchanged n h g) : Judged n h g := by
  obtain ⟨xs, hx⟩ := e.lane
  exact ⟨e.rest, ⟨xs, _, hx, Or.inl rfl⟩, e.desk, e.others⟩

theorem Judged.refl (n : LaneNo) (h : Heat) : Judged n h h := (Exchanged.refl n h).judged

theorem Judged.trans {n : LaneNo} {a b c : Heat} (h : Judged n a b) (k : Judged n b c) : Judged n a c := by
  obtain ⟨x1, r1, l1, q1⟩ := h.lane
  obtain ⟨x2, r2, l2, q2⟩ := k.lane
  obtain ⟨e1, u1, d1, m1, o1⟩ := h.desk
  obtain ⟨e2, u2, d2, m2, o2⟩ := k.desk
  refine ⟨?_, ⟨x2, r2, by rw [l2, l1], ?_⟩, ⟨e2, u2, by rw [d2, d1], ?_, ?_⟩, fun m hm => ?_⟩
  · have p := h.rest
    have q := k.rest
    rw [p] at q
    exact q
  · rw [l1] at q2
    exact q1.trans q2
  · intro t
    apply m2
    rw [d1]
    exact m1 t
  · intro t
    apply o2
    rw [d1]
    exact o1 t
  · exact ⟨(k.others m hm).1.trans (h.others m hm).1, (k.others m hm).2.trans (h.others m hm).2⟩

/-- An operation whose effect on the race is `Judged`. -/
def JudgedTo (n : LaneNo) (s t : State) : Prop := ∀ h, s.heat = some h → ∃ g, t.heat = some g ∧ Judged n h g

theorem ExchangedTo.judged {n : LaneNo} {s t : State} (e : ExchangedTo n s t) : JudgedTo n s t := by
  intro h hh
  obtain ⟨g, hg, x⟩ := e h hh
  exact ⟨g, hg, x.judged⟩

theorem JudgedTo.refl (n : LaneNo) (s : State) : JudgedTo n s s := (ExchangedTo.refl n s).judged

theorem JudgedTo.trans {n : LaneNo} {a b c : State} (h : JudgedTo n a b) (k : JudgedTo n b c) : JudgedTo n a c := by
  intro x hx
  obtain ⟨y, hy, e⟩ := h x hx
  obtain ⟨z, hz, f⟩ := k y hy
  exact ⟨z, hz, e.trans f⟩

theorem endReactionArming_judged (s : State) (n : LaneNo) : JudgedTo n s (endReactionArming n s) := by
  intro h hh
  refine ⟨h.modLane n fun l => { l with reaction := l.reaction.map fun r => { r with armed := false } },
    by rw [endReactionArming, State.modLane_heat, hh]; rfl, rfl, ⟨_, _, modLane_get_self _ _ _, Or.inr rfl⟩,
    ⟨_, _, rfl, id, id⟩, ?_⟩
  intro m hm
  exact ⟨by rw [modLane_get, if_neg hm], rfl⟩

theorem judgeEntry_judged (s : State) (n : LaneNo) (e : SplitEntry) : JudgedTo n s (judgeEntry n s e) := by
  have a : JudgedTo n s (if e.length = 1 then endReactionArming n s else s) := by
    split
    · exact endReactionArming_judged s n
    · exact JudgedTo.refl n s
  exact a.trans ((settleTouch_exchanged _ n e).trans
    ((settleTakeoff_exchanged _ n e).trans (armExchange_exchanged _ n _))).judged

theorem judgeFrom_judged (s : State) (n : LaneNo) (count : Nat) : JudgedTo n s (judgeFrom n count s) := by
  have : ∀ (es : List SplitEntry) (t : State), JudgedTo n t (es.foldl (judgeEntry n) t) := by
    intro es
    induction es with
    | nil => exact fun t => JudgedTo.refl n t
    | cons x xs ih => exact fun t => (judgeEntry_judged t n x).trans (ih _)
  unfold judgeFrom
  split
  · exact JudgedTo.refl n s
  · exact this _ _

/-- Nothing joined the list, nothing is judged. -/
theorem judgeFrom_none (s : State) (n : LaneNo) (count : Nat) (h : Heat) (hh : s.heat = some h)
    (hc : (h.lanes.get n).splits.length ≤ count) : judgeFrom n count s = s := by
  simp [judgeFrom, hh, List.drop_eq_nil_of_le hc]

/-! ## Split entries and inference -/

@[simp] theorem addSplit_heat (n : LaneNo) (e : SplitEntry) (p : Option Promotion) (s : State) :
    (addSplit n e p s).heat = s.heat.map fun h => h.modLane n fun l => { l with splits := l.splits ++ [e] } := by
  unfold addSplit
  cases hh : s.heat with
  | none => simp [hh]
  | some h =>
    simp only [Option.map_some]
    split <;> simp [hh]

@[simp] theorem expectLength_heat (n : LaneNo) (k r : Nat) (s : State) :
    (expectLength n k r s).heat = s.heat.map fun h => h.modLane n (Lane.expect h.definition k r) := rfl

/-- A length written down as missed (R74, R77). -/
def Heat.missed (h : Heat) (n : LaneNo) (k : Nat) : Heat :=
  (h.modLane n fun l =>
    { l with splits := l.splits ++ [⟨k, h.definition.endOf k, h.definition.legOf k, none, .none⟩] }).modDesk n
    (Desk.addReason .skippedLength)

@[simp] theorem addMissed_heat (n : LaneNo) (k : Nat) (s : State) :
    (addMissed n k s).heat = s.heat.map fun h => h.missed n k := by
  unfold addMissed
  cases hh : s.heat with
  | none => simp [hh]
  | some h => simp [hh, Heat.missed]

/-- A chain of inferences has moved one lane's expectation on: NONE entries joined its list, SKIPPED_LENGTH its hold set. -/
structure Inferred (n : LaneNo) (h g : Heat) : Prop where
  rest : g = { h with lanes := g.lanes, desks := g.desks }
  lane : ∃ more x j, g.lanes.get n =
      { h.lanes.get n with splits := (h.lanes.get n).splits ++ more, expectation := x, leg := j } ∧
    (∀ e ∈ more, e.source = .none ∧ e.time = none) ∧
    ((h.lanes.get n).expectation.isSome = true → x.isSome = true) ∧ ((h.lanes.get n).leg.isSome = true → j.isSome = true)
  desk : ∃ a, g.desks.get n =
      { h.desks.get n with
        hold :=
          { (h.desks.get n).hold with reasons := { (h.desks.get n).hold.reasons with skippedLength := a } } } ∧
    ((h.desks.get n).hold.reasons.skippedLength = true → a = true)
  others : ∀ m, m ≠ n → g.lanes.get m = h.lanes.get m ∧ g.desks.get m = h.desks.get m

theorem Inferred.refl (n : LaneNo) (h : Heat) : Inferred n h h :=
  ⟨rfl, ⟨[], _, _, by simp, by simp, id, id⟩, ⟨_, rfl, id⟩, fun _ _ => ⟨rfl, rfl⟩⟩

theorem Inferred.trans {n : LaneNo} {a b c : Heat} (h : Inferred n a b) (k : Inferred n b c) : Inferred n a c := by
  obtain ⟨m1, x1, j1, l1, s1, p1, q1⟩ := h.lane
  obtain ⟨m2, x2, j2, l2, s2, p2, q2⟩ := k.lane
  obtain ⟨u1, d1, o1⟩ := h.desk
  obtain ⟨u2, d2, o2⟩ := k.desk
  refine ⟨?_, ⟨m1 ++ m2, x2, j2, by rw [l2, l1]; simp, ?_, ?_, ?_⟩, ⟨u2, by rw [d2, d1], ?_⟩, fun m hm => ?_⟩
  · have p := h.rest
    have q := k.rest
    rw [p] at q
    exact q
  · intro e he
    rcases List.mem_append.mp he with he | he
    · exact s1 e he
    · exact s2 e he
  · intro t
    apply p2
    rw [l1]
    exact p1 t
  · intro t
    apply q2
    rw [l1]
    exact q1 t
  · intro t
    apply o2
    rw [d1]
    exact o1 t
  · exact ⟨(k.others m hm).1.trans (h.others m hm).1, (k.others m hm).2.trans (h.others m hm).2⟩

/-- One length missed and the expectation set to the next. -/
theorem missed_inferred (n : LaneNo) (k j r : Nat) (h : Heat) :
    Inferred n h ((h.missed n k).modLane n (Lane.expect h.definition j r)) := by
  refine ⟨rfl, ⟨[⟨k, h.definition.endOf k, h.definition.legOf k, none, .none⟩],
      some ⟨j, h.definition.endOf j, r,
        r + ((h.missed n k).lanes.get n).span j * ((h.missed n k).lanes.get n).offset h.definition⟩,
      some (h.definition.legOf j), ?_, ?_, ?_, ?_⟩,
    ⟨true, ?_, fun _ => rfl⟩, fun m hm => ⟨?_, ?_⟩⟩
  · rw [modLane_get_self]
    simp [Lane.expect, Heat.missed]
  · simp
  · simp
  · simp
  · simp [Heat.missed, Desk.addReason, ReasonSet.put]
  · rw [modLane_get, if_neg hm]
    simp [Heat.missed, modLane_get, hm]
  · simp [Heat.missed, modDesk_get, hm]

theorem infer_inferred (n : LaneNo) (fuel : Nat) (s : State) :
    ∀ h, s.heat = some h → ∃ g, (infer n fuel s).heat = some g ∧ Inferred n h g := by
  induction fuel generalizing s with
  | zero => exact fun h hh => ⟨h, hh, Inferred.refl n h⟩
  | succ fuel ih =>
    intro h hh
    unfold infer
    simp only [hh]
    cases hx : (h.lanes.get n).expectation with
    | none => exact ⟨h, hh, Inferred.refl n h⟩
    | some x =>
      dsimp only
      split
      · obtain ⟨g, hg, e⟩ := ih (expectLength n (x.length + 1) x.reference (addMissed n x.length s)) _ (by
          rw [expectLength_heat, addMissed_heat, hh]
          rfl)
        exact ⟨g, hg, (missed_inferred n x.length (x.length + 1) x.reference h).trans e⟩
      · exact ⟨h, hh, Inferred.refl n h⟩

theorem inferAll_inferred (n : LaneNo) (s : State) (h : Heat) (hh : s.heat = some h) :
    ∃ g, (inferAll n s).heat = some g ∧ Inferred n h g := by
  unfold inferAll
  simp only [hh]
  exact infer_inferred n _ s h hh

/-- No inference while the expected pad is in service, or at length N (R77). -/
theorem inferAll_stays (n : LaneNo) (s : State) (h : Heat) (x : Expectation) (hh : s.heat = some h)
    (hx : (h.lanes.get n).expectation = some x)
    (hs : h.definition.lengths ≤ x.length ∨ s.inService (padInput n x.finish) = true) : inferAll n s = s := by
  unfold inferAll
  simp only [hh]
  cases h.definition.lengths with
  | zero => rfl
  | succ k =>
    unfold infer
    simp only [hh, hx]
    rw [if_neg]
    rintro ⟨a, b⟩
    rcases hs with hs | hs
    · omega
    · rw [hs] at b
      cases b

end Sys2Proof.Machine
end

