-- ==== Sys2Proof/Laws/Finished.lean ====
section
/-! SUPPORT. What finishing a lane makes of the race (R56, R94), from whatever the split entry of length N and exchange judging have
left. -/

namespace Sys2Proof.Machine

open Sys2Proof

/-- A race just before one lane finishes, beside the race of the event's beginning: that lane's split list and exchange records,
its reaction arming and the exchange reasons of its hold set alone may differ. -/
structure Finishing (n : LaneNo) (h g : Heat) (sp : List SplitEntry) (xs : List Exchange) : Prop where
  rest : g = { h with lanes := g.lanes, desks := g.desks }
  lane : ∃ r, g.lanes.get n = { h.lanes.get n with splits := sp, exchanges := xs, reaction := r }
  desk : ∃ a b, g.desks.get n =
      { h.desks.get n with
        hold :=
          { (h.desks.get n).hold with
            reasons := { (h.desks.get n).hold.reasons with exchangeEarly := a, exchangeUnjudged := b } } }
  others : ∀ m, m ≠ n → g.lanes.get m = h.lanes.get m ∧ g.desks.get m = h.desks.get m

theorem finalised_stays (h : Heat) (p : Params) (now : DeckTime) (hx : h.phase ≠ .review ∨
    ∃ m, (h.lanes.get m).unreleased = true) : h.finalised p now = h := by
  unfold Heat.finalised
  rw [if_neg]
  rintro ⟨a, b⟩
  rcases hx with hx | ⟨m, hm⟩
  · exact hx a
  · rw [lanesWhere_nil] at b
    rw [b m] at hm
    cases hm

theorem checked_phase (h : Heat) (n : LaneNo) (p : Params) (now : DeckTime) (hx : h.phase ≠ .review) : (h.checked n p
    now).phase = h.phase ∧ (h.checked n p now).stopTime = h.stopTime := by
  unfold Heat.checked
  split
  · unfold Heat.releasedLane
    split
    · exact ⟨rfl, rfl⟩
    · rw [finalised_stays _ _ _ (Or.inl (by exact hx))]
      exact ⟨rfl, rfl⟩
  · exact ⟨rfl, rfl⟩

theorem checked_fields (h : Heat) (n : LaneNo) (p : Params) (now : DeckTime) : (h.checked n p now).startTime =
    h.startTime ∧ (h.checked n p now).recalls = h.recalls ∧ (h.checked n p now).placing = h.placing := by
  unfold Heat.checked Heat.releasedLane Heat.finalised
  split
  · split
    · exact ⟨rfl, rfl, rfl⟩
    · split <;> exact ⟨rfl, rfl, rfl⟩
  · exact ⟨rfl, rfl, rfl⟩

theorem reviewed_fields (h : Heat) (now : DeckTime) : (h.reviewed now).startTime = h.startTime ∧
    (h.reviewed now).recalls = h.recalls ∧ (h.reviewed now).definition = h.definition ∧
    (h.reviewed now).placing = h.placing:= by
  unfold Heat.reviewed
  split <;> exact ⟨rfl, rfl, rfl, rfl⟩

theorem finalised_fields (h : Heat) (p : Params) (now : DeckTime) : (h.finalised p now).startTime = h.startTime ∧
    (h.finalised p now).recalls = h.recalls ∧ (h.finalised p now).definition = h.definition ∧
    (h.finalised p now).stopTime = h.stopTime ∧ (h.finalised p now).placing = h.placing := by
  unfold Heat.finalised
  split <;> exact ⟨rfl, rfl, rfl, rfl, rfl⟩

theorem addReasons_desk (rs : List Reason) (k : Desk) : ∃ r,
    Desk.addReasons rs k = { k with hold := { k.hold with reasons := r } } ∧
    ∀ x, r.has x = true ↔ k.hold.reasons.has x = true ∨ x ∈ rs := by
  induction rs generalizing k with
  | nil => exact ⟨k.hold.reasons, rfl, by simp⟩
  | cons a as ih =>
    obtain ⟨r, h1, h2⟩ := ih (k.addReason a)
    refine ⟨r, ?_, fun x => ?_⟩
    · have : Desk.addReasons (a :: as) k = Desk.addReasons as (k.addReason a) := rfl
      rw [this, h1]
      rfl
    · rw [h2 x]
      have : (k.addReason a).hold.reasons.has x = true ↔ k.hold.reasons.has x = true ∨ x = a := by
        simp only [Desk.addReason]
        cases a <;> cases x <;> simp [ReasonSet.put, ReasonSet.has]
      rw [this]
      simp
      tauto

/-- A lane finished from there `Finishes`, with the reasons of R92 and R93 joined. -/
theorem finishes (n : LaneNo) (s : State) (h g0 : Heat) (sp : List SplitEntry) (xs : List Exchange) (core :
    ResultCore) (rs : List Reason) (hp : Finishing n h g0 sp xs)
   (hrs : ∀ x ∈ rs, x = .discrepant ∨ x = .padMissed) :
   ∃ g, g = g0.finishedLane n core rs s.params s.deckTime ∧ Finishes n core s h g ∧ (g.lanes.get n).splits = sp ∧
       (g.lanes.get n).exchanges = xs ∧
    (∀ x, x = .discrepant ∨ x = .padMissed →
        ((g.desks.get n).hold.reasons.has x = true ↔ (h.desks.get n).hold.reasons.has x = true ∨ x ∈ rs)) := by
  obtain ⟨r, hl⟩ := hp.lane
  obtain ⟨ea, eb, hd⟩ := hp.desk
  let g1 := (g0.modLane n (Lane.finish core)).modDesk n (Desk.addReasons rs)
  let g2 := if core.official.isSome then g1.replaced else g1
  have e2l : g2.lanes = g1.lanes := by
    simp only [g2]
    split <;> rfl
  have e2d : ∀ m, ∃ p, g2.desks.get m = { g1.desks.get m with place := p } := by
    intro m
    simp only [g2]
    split
    · exact ⟨_, replaced_get _ _⟩
    · exact ⟨_, rfl⟩
  have e2f : g2.definition = h.definition ∧ g2.startTime = h.startTime ∧ g2.recalls = h.recalls ∧
      g2.phase = h.phase ∧ g2.stopTime = h.stopTime := by
    have := hp.rest
    have : g1.definition = h.definition ∧ g1.startTime = h.startTime ∧ g1.recalls = h.recalls ∧
        g1.phase = h.phase ∧ g1.stopTime = h.stopTime := by
      simp only [g1, modDesk_definition, modLane_definition, modDesk_startTime, modLane_startTime, modDesk_recalls,
          modLane_recalls, modDesk_phase, modLane_phase, modDesk_stopTime, modLane_stopTime]
      rw [this]
      exact ⟨rfl, rfl, rfl, rfl, rfl⟩
    simp only [g2]
    split <;> exact this
  let g3 := g2.checked n s.params s.deckTime
  let g4 := g3.reviewed s.deckTime
  let g := g4.finalised s.params s.deckTime
  have gl : g.lanes = g3.lanes := (finalised_lanes _ _ _).trans (reviewed_lanes _ _)
  have gd : g.desks = g2.desks := (finalised_desks _ _ _).trans ((reviewed_desks _ _).trans (checked_desks _ _ _ _))
  have gdef : g.definition = h.definition :=
      (finalised_fields _ _ _).2.2.1.trans ((reviewed_fields _ _).2.2.1.trans ((checked_definition _ _ _ _).trans
      e2f.1))
  have l1 : g1.lanes.get n = (Lane.finish core) (g0.lanes.get n) := modLane_get_self _ _ _
  have ln : g.lanes.get n = { g1.lanes.get n with state := finishedState n g } := by
    rw [gl]
    simp only [g3]
    rw [checked_lane, e2l]
    have : (g1.lanes.get n).state = .finished ∧ (g1.lanes.get n).result ≠ none := by
      rw [l1]
      simp [Lane.finish]
    rw [if_pos this]
    simp only [finishedState]
    rw [gdef, e2f.1, gd]
  obtain ⟨rr, hr1, hr2⟩ := addReasons_desk rs (g0.desks.get n)
  have dn : ∃ p, g.desks.get n =
      { hold := { (g0.desks.get n).hold with reasons := rr }, dq := (g0.desks.get n).dq, place := p } := by
    obtain ⟨p, hp'⟩ := e2d n
    refine ⟨p, ?_⟩
    rw [gd, hp']
    simp only [g1]
    rw [modDesk_get_self, modLane_desks, hr1]
  obtain ⟨pp, dn⟩ := dn
  have om : ∀ m, m ≠ n → g.lanes.get m = h.lanes.get m ∧ (g.desks.get m).hold = (h.desks.get m).hold ∧
      (g.desks.get m).dq = (h.desks.get m).dq := by
    intro m hm
    have a1 : g.lanes.get m = h.lanes.get m := by
      rw [gl]
      simp only [g3]
      rw [checked_other _ _ _ _ _ hm, e2l]
      simp only [g1]
      rw [modDesk_lanes, modLane_get, if_neg hm]
      exact (hp.others m hm).1
    obtain ⟨p, hp'⟩ := e2d m
    have a2 : g1.desks.get m = h.desks.get m := by
      simp only [g1]
      rw [modDesk_get, if_neg hm, modLane_desks]
      exact (hp.others m hm).2
    rw [gd, hp', a2]
    exact ⟨a1, rfl, rfl⟩
  have hs0 : ∀ x, x ∉ rs → rr.has x = (g0.desks.get n).hold.reasons.has x := by
    intro x hx
    have := hr2 x
    cases p : rr.has x <;> cases q : (g0.desks.get n).hold.reasons.has x <;> simp [p, q, hx] at this ⊢
  have hn1 : Reason.falseStart ∉ rs := by
    intro c
    have := hrs _ c
    simp at this
  have hn2 : Reason.skippedLength ∉ rs := by
    intro c
    have := hrs _ c
    simp at this
  have f1 := hs0 _ hn1
  have f2 := hs0 _ hn2
  rw [hd] at dn f1 f2
  refine ⟨g, rfl, ⟨⟨gdef, ?_, ?_⟩, ?_, ?_, ?_, ?_, ?_, om, ?_, ?_⟩, ?_, ?_, ?_⟩
  · exact (finalised_fields _ _ _).1.trans ((reviewed_fields _ _).1.trans ((checked_fields _ _ _ _).1.trans e2f.2.1))
  · exact (finalised_fields _ _ _).2.1.trans ((reviewed_fields _ _).2.1.trans ((checked_fields _ _ _ _).2.1.trans
        e2f.2.2.1))
  · rw [ln]
  · rw [ln, l1]
    rfl
  · rw [ln, l1]
    exact ⟨rfl, rfl, rfl⟩
  · rw [ln, l1, hl]
    exact ⟨rfl, rfl, rfl, rfl, rfl, rfl⟩
  · rw [dn]
    exact ⟨fun k => by cases k <;> rfl, rfl, f1, f2⟩
  · rintro ⟨m, hm, hu⟩
    have um : ∀ q : Heat, q.lanes.get m = h.lanes.get m → ¬ (q.lanesWhere Lane.unfinished = []) := by
      intro q hq e
      rw [lanesWhere_nil] at e
      have := e m
      rw [hq, hu] at this
      cases this
    have ur : (h.lanes.get m).unreleased = true := by
      rw [unfinished_iff] at hu
      rw [unreleased_iff]
      rcases hu with e | e | e <;> simp [e]
    have l3 : g3.lanes.get m = h.lanes.get m := by
      rw [← gl]
      exact (om m hm).1
    have r4 : g4 = g3 := by
      simp only [g4, Heat.reviewed]
      rw [if_neg]
      rintro ⟨_, c⟩
      exact um _ l3 c
    have r5 : g = g3 := by
      simp only [g]
      rw [r4]
      exact finalised_stays _ _ _ (Or.inr ⟨m, by rw [l3]; exact ur⟩)
    rw [r5]
    have : g3.phase = g2.phase ∧ g3.stopTime = g2.stopTime := by
      simp only [g3, Heat.checked, Heat.releasedLane]
      split
      · split
        · exact ⟨rfl, rfl⟩
        · rw [finalised_stays]
          · exact ⟨rfl, rfl⟩
          · right
            refine ⟨m, ?_⟩
            rw [modLane_get, if_neg hm, e2l]
            simp only [g1]
            rw [modDesk_lanes, modLane_get, if_neg hm, (hp.others m hm).1]
            exact ur
      · exact ⟨rfl, rfl⟩
    exact ⟨this.1.trans e2f.2.2.2.1, this.2.trans e2f.2.2.2.2⟩
  · intro h1 h2
    have np : g2.phase ≠ .review := by
      rw [e2f.2.2.2.1, h1]
      simp
    have p3 : g3.phase = .running := ((checked_phase g2 n s.params s.deckTime np).1.trans e2f.2.2.2.1).trans h1
    have n3 : g3.lanesWhere Lane.unfinished = [] := by
      rw [lanesWhere_nil]
      intro m
      by_cases hm : m = n
      · subst hm
        rw [← gl, ln, Bool.eq_false_iff, Ne, unfinished_iff]
        simp only [finishedState]
        split <;> simp
      · rw [← gl, (om m hm).1]
        exact h2 m hm
    have r4 : g4 =
        { g3 with phase := .review, stopTime := some (g3.raceTime s.deckTime), overtimeTimer := false } := by
      simp only [g4, Heat.reviewed]
      rw [if_pos ⟨p3, n3⟩]
    have st3 : g3.startTime = h.startTime := (checked_fields _ _ _ _).1.trans e2f.2.1
    constructor
    · simp only [g, Heat.finalised]
      split
      · right
        rfl
      · left
        rw [r4]
    · have := (finalised_fields g4 s.params s.deckTime).2.2.2.1
      simp only [g]
      rw [this, r4]
      simp [Heat.raceTime, st3]
  · rw [ln, l1, hl]
    rfl
  · rw [ln, l1, hl]
    rfl
  · intro x hx
    rw [dn]
    simp only
    rw [hr2 x, hd]
    rcases hx with hx | hx <;> subst hx <;> rfl

end Sys2Proof.Machine
end

