-- ==== Sys2Proof/Laws/PerInstr.lean ====
section
/-! SUPPORT. A law made for every command: a well-formed request has a KIND that R189 lists, but for UNKNOWN_REQUEST. -/

namespace Sys2Proof.Laws.RequestKinds

open Sys2Proof Sys2Proof.Machine

/-- A well-formed request other than UNKNOWN_REQUEST has one of the codes of R189; UNKNOWN_REQUEST has none of them. -/
def Statement (i : Instr) : Prop :=
  ∀ l t k, requestOf i = some (l, t, k) → i.wellFormed = true →
    (requestKinds.contains k = !decide (i = .unknownRequest l t k))

theorem stageHeat (link : Link) (tag : Byte) (body : HeatBody) : Statement (.stageHeat link tag body) := by
  intro l t k h _
  cases h
  rfl

theorem withdrawHeat (link : Link) (tag : Byte) (number : Word16) (heat : Byte) :
    Statement (.withdrawHeat link tag number heat) := by
  intro l t k h _
  cases h
  rfl

theorem listQueue (link : Link) (tag : Byte) : Statement (.listQueue link tag) := by
  intro l t k h _
  cases h
  rfl

theorem advance (link : Link) (tag : Byte) : Statement (.advance link tag) := by
  intro l t k h _
  cases h
  rfl

theorem abandon (link : Link) (tag : Byte) : Statement (.abandon link tag) := by
  intro l t k h _
  cases h
  rfl

theorem startRace (link : Link) (tag : Byte) : Statement (.startRace link tag) := by
  intro l t k h _
  cases h
  rfl

theorem readRace (link : Link) (tag : Byte) (part : Byte) : Statement (.readRace link tag part) := by
  intro l t k h _
  cases h
  rfl

theorem scratchLane (link : Link) (tag : Byte) (lane : Byte) : Statement (.scratchLane link tag lane) := by
  intro l t k h _
  cases h
  rfl

theorem assignEntrant (link : Link) (tag : Byte) (lane : Byte) (items : List TagItem) : Statement (.assignEntrant link tag lane items) := by
  intro l t k h _
  cases h
  rfl

theorem setLaneTiming (link : Link) (tag : Byte) (lane : Byte) (timing : TimingBody) : Statement (.setLaneTiming link tag lane timing) := by
  intro l t k h _
  cases h
  rfl

theorem promoteTouch (link : Link) (tag : Byte) (lane : Byte) (number : Word16) : Statement (.promoteTouch link tag lane number) := by
  intro l t k h _
  cases h
  rfl

theorem declareNoFinish (link : Link) (tag : Byte) (lane : Byte) : Statement (.declareNoFinish link tag lane) := by
  intro l t k h _
  cases h
  rfl

theorem enterFinish (link : Link) (tag : Byte) (lane : Byte) (time : Word32) : Statement (.enterFinish link tag lane time) := by
  intro l t k h _
  cases h
  rfl

theorem adjustFinish (link : Link) (tag : Byte) (lane : Byte) (time : Word32) : Statement (.adjustFinish link tag lane time) := by
  intro l t k h _
  cases h
  rfl

theorem readLane (link : Link) (tag : Byte) (lane : Byte) : Statement (.readLane link tag lane) := by
  intro l t k h _
  cases h
  rfl

theorem readSplits (link : Link) (tag : Byte) (lane : Byte) (first : Byte) : Statement (.readSplits link tag lane first) := by
  intro l t k h _
  cases h
  rfl

theorem holdLane (link : Link) (tag : Byte) (lane : Byte) : Statement (.holdLane link tag lane) := by
  intro l t k h _
  cases h
  rfl

theorem unholdLane (link : Link) (tag : Byte) (lane : Byte) : Statement (.unholdLane link tag lane) := by
  intro l t k h _
  cases h
  rfl

theorem clearSystemHold (link : Link) (tag : Byte) (lane : Byte) (reasons : Byte) : Statement (.clearSystemHold link tag lane reasons) := by
  intro l t k h _
  cases h
  rfl

theorem releaseLane (link : Link) (tag : Byte) (lane : Byte) : Statement (.releaseLane link tag lane) := by
  intro l t k h _
  cases h
  rfl

theorem disqualify (link : Link) (tag : Byte) (lane : Byte) (code : Byte) : Statement (.disqualify link tag lane code) := by
  intro l t k h _
  cases h
  rfl

theorem reinstate (link : Link) (tag : Byte) (lane : Byte) : Statement (.reinstate link tag lane) := by
  intro l t k h _
  cases h
  rfl

theorem setParameter (link : Link) (tag : Byte) (param : Byte) (value : Word32) : Statement (.setParameter link tag param value) := by
  intro l t k h _
  cases h
  rfl

theorem getParameter (link : Link) (tag : Byte) (param : Byte) : Statement (.getParameter link tag param) := by
  intro l t k h _
  cases h
  rfl

theorem setNoticeMask (link : Link) (tag : Byte) (kinds : Word16) : Statement (.setNoticeMask link tag kinds) := by
  intro l t k h _
  cases h
  rfl

theorem readFaults (link : Link) (tag : Byte) (record : Byte) : Statement (.readFaults link tag record) := by
  intro l t k h _
  cases h
  rfl

theorem clearFaults (link : Link) (tag : Byte) (record : Byte) : Statement (.clearFaults link tag record) := by
  intro l t k h _
  cases h
  rfl

theorem resetDevice (link : Link) (tag : Byte) : Statement (.resetDevice link tag) := by
  intro l t k h _
  cases h
  rfl

theorem unknownRequest (link : Link) (tag : Byte) (kind : Byte) : Statement (.unknownRequest link tag kind) := by
  intro l t k h w
  cases h

  simpa [Instr.wellFormed] using w

theorem receivedByte (link : Link) (byte : Byte) : Statement (.receivedByte link byte) := by
  intro l t k h _
  cases h

theorem gapExpiry (link : Link) : Statement (.gapExpiry link) := by
  intro l t k h _
  cases h

theorem linkTransmissionCompletes (link : Link) : Statement (.linkTransmissionCompletes link) := by
  intro l t k h _
  cases h

theorem deviceResetBegins : Statement (.deviceResetBegins) := by
  intro l t k h _
  cases h

theorem sensedLevelChange (line : Line) (level : Level) : Statement (.sensedLevelChange line level) := by
  intro l t k h _
  cases h

theorem candidateCompletes (line : Line) : Statement (.candidateCompletes line) := by
  intro l t k h _
  cases h

theorem stuckTimerExpiry (line : Line) : Statement (.stuckTimerExpiry line) := by
  intro l t k h _
  cases h

theorem retryExpiry (input : Fin 71) : Statement (.retryExpiry input) := by
  intro l t k h _
  cases h

theorem collecttimeExpiry (lane : LaneNo) : Statement (.collecttimeExpiry lane) := by
  intro l t k h _
  cases h

theorem overtimeExpiry : Statement (.overtimeExpiry) := by
  intro l t k h _
  cases h

theorem advanceTimerExpiry : Statement (.advanceTimerExpiry) := by
  intro l t k h _
  cases h

theorem boardTransmissionCompletes : Statement (.boardTransmissionCompletes) := by
  intro l t k h _
  cases h

theorem clockTimerExpiry : Statement (.clockTimerExpiry) := by
  intro l t k h _
  cases h

theorem freezeTimerExpiry : Statement (.freezeTimerExpiry) := by
  intro l t k h _
  cases h

theorem idleTimerExpiry : Statement (.idleTimerExpiry) := by
  intro l t k h _
  cases h

theorem powerOnReset : Statement (.powerOnReset) := by
  intro l t k h _
  cases h

theorem resetnLow : Statement (.resetnLow) := by
  intro l t k h _
  cases h

theorem longResetnPulse : Statement (.longResetnPulse) := by
  intro l t k h _
  cases h

theorem resetnHigh (micros : Nat) : Statement (.resetnHigh micros) := by
  intro l t k h _
  cases h

theorem startUpEnd : Statement (.startUpEnd) := by
  intro l t k h _
  cases h

end Sys2Proof.Laws.RequestKinds
end

