-- ==== Sys2Proof/Laws/Supervised.lean ====
section
/-! SUPPORT. What the shared operations over fault records and decoders do: a service change moves the race alone, and moves
nothing where no input is lost; records moved by one event move each by itself; candidates counted and stuck timers expired in
one event change each its own decoder. -/

namespace Sys2Proof.Machine

open Sys2Proof

/-! ## Numbers -/

theorem allInputs_nodup : allInputs.Nodup := List.nodup_finRange 71

theorem mem_allInputs (i : Fin 71) : i ∈ allInputs := List.mem_finRange i

theorem allLines_nodup : allLines.Nodup := by decide +kernel

theorem mem_allLines (l : Line) : l ∈ allLines := by
  rcases l with ⟨e, n⟩ | ⟨e, n⟩ | ⟨n, k⟩ | _ | _ | _
  · cases e <;> revert n <;> decide +kernel
  · cases e <;> revert n <;> decide +kernel
  · cases k <;> revert n <;> decide +kernel
  all_goals decide +kernel

theorem Line.index_inj {l m : Line} (h : l.index = m.index) : l = m := by
  have hall : ∀ a ∈ allLines, ∀ b ∈ allLines, a.index = b.index → a = b := by decide +kernel
  exact hall l (mem_allLines l) m (mem_allLines m) h

theorem lineOfInput_input : ∀ i : Fin 71, (lineOfInput i).input = some i := by decide +kernel

theorem lineOfInput_of_input {l : Line} {i : Fin 71} (h : l.input = some i) : lineOfInput i = l := by
  have hall : ∀ m ∈ allLines, ∀ j, m.input = some j → lineOfInput j = m := by decide +kernel
  exact hall l (mem_allLines l) i h

/-! ## Service changes handed on -/

theorem padInput_inj {m n : LaneNo} {f e : End} (h : padInput m f = padInput n e) : m = n ∧ f = e := by
  have := congrArg Fin.val h
  cases e <;> cases f <;> simp only [padInput] at this <;> first | exact ⟨Fin.ext (by omega), rfl⟩ | omega

theorem platformInput_inj {m n : LaneNo} {f e : End} (h : platformInput m f = platformInput n e) : m = n ∧ f = e := by
  have := congrArg Fin.val h
  cases e <;> cases f <;> simp only [platformInput] at this <;> first | exact ⟨Fin.ext (by omega), rfl⟩ | omega

theorem padInput_ne_platformInput (m n : LaneNo) (f e : End) : padInput m f ≠ platformInput n e := by
  intro h
  have := congrArg Fin.val h
  cases e <;> cases f <;> simp only [padInput, platformInput] at this <;> omega

/-- A chain over the lanes in which one lane alone has work is that lane's work. -/
theorem foldl_lane (f : State → LaneNo → State) (n : LaneNo) (s : State) (hb : ∀ m, m ≠ n → f s m = s)
    (ha : ∀ m, m ≠ n → f (f s n) m = f s n) : allLanes.foldl f s = f s n := by
  have others : ∀ (ns : List LaneNo) (t : State), (∀ m, m ≠ n → f t m = t) → n ∉ ns → ns.foldl f t = t := by
    intro ns t ht
    induction ns with
    | nil => exact fun _ => rfl
    | cons m ms ih =>
      intro hn
      rw [List.foldl_cons, ht m fun e => hn (e ▸ List.mem_cons_self), ih fun h => hn (List.mem_cons_of_mem _ h)]
  have all : ∀ ns : List LaneNo, ns.Nodup → n ∈ ns → ns.foldl f s = f s n := by
    intro ns
    induction ns with
    | nil => exact fun _ h => absurd h List.not_mem_nil
    | cons m ms ih =>
      intro hd hn
      obtain ⟨hm, hd⟩ := List.nodup_cons.mp hd
      rw [List.foldl_cons]
      by_cases e : m = n
      · subst e
        exact others ms _ ha hm
      · rw [hb m e]
        exact ih hd ((List.mem_cons.mp hn).resolve_left fun h => e h.symm)
  exact all _ (List.nodup_finRange 10) (List.mem_finRange n)

/-- A chain over the lanes in which no lane has work. -/
theorem foldl_lanes_idle (f : State → LaneNo → State) (s : State) (h : ∀ m, f s m = s) : allLanes.foldl f s = s := by
  induction allLanes with
  | nil => rfl
  | cons m ms ih => rw [List.foldl_cons, h, ih]

/-- A lane record, where there is a race: all that the end of an event reads of a lane. -/
def laneView (s : State) (m : LaneNo) : Option Lane := s.heat.map fun h => h.lanes.get m

theorem splitCount_view (s : State) (m : LaneNo) :
    s.splitCount m = ((laneView s m).map fun v => v.splits.length).getD 0 := by
  unfold State.splitCount laneView
  cases s.heat <;> rfl

theorem exchangesOf_view (s : State) (m : LaneNo) : s.exchangesOf m = ((laneView s m).map fun v => v.exchanges).getD [] := by
  unfold State.exchangesOf laneView
  cases s.heat <;> rfl

/-- Judging what a list has not gained changes nothing. -/
theorem judgeFrom_same (j s : State) (n : LaneNo) (h : laneView s n = laneView j n) :
    judgeFrom n (j.splitCount n) s = s := by
  cases hh : s.heat with
  | none => simp [judgeFrom, hh]
  | some g =>
    refine judgeFrom_none s n _ g hh ?_
    rw [splitCount_view, ← h, ← splitCount_view]
    simp [State.splitCount, hh]

/-- Exchange records that are as they were bring no verdict. -/
theorem judgeTakeoffs_same (j s : State) (n : LaneNo) (h : s.exchangesOf n = j.exchangesOf n) : judgeTakeoffs j n s = s := by
  have : newTakeoffs j s n = [] := by
    refine List.filter_eq_nil_iff.mpr fun x hx => ?_
    rw [h] at hx
    simp [hx]
  rw [judgeTakeoffs, this]
  rfl

/-- Exchange judging touches one lane alone. -/
theorem JudgedTo.laneView {n : LaneNo} {s t : State} (h : JudgedTo n s t) (hn : s.heat = none → t.heat = none)
    (m : LaneNo) (hm : m ≠ n) : laneView t m = laneView s m := by
  unfold Machine.laneView
  cases hh : s.heat with
  | none => rw [hn hh]
  | some g =>
    obtain ⟨k, hk, e⟩ := h g hh
    rw [hk, Option.map_some, Option.map_some, (e.others m hm).1]

/-- A lane judged at the end of an event leaves the other lanes as they are. -/
theorem judgeLane_view (j s : State) (n m : LaneNo) (k : Nat) (hm : m ≠ n) :
    laneView (judgeFrom n k (judgeTakeoffs j n s)) m = laneView s m := by
  refine ((judgeTakeoffs_exchanged j s n).judged.trans (judgeFrom_judged _ n k)).laneView (fun h => ?_) m hm
  have hx : s.exchangesOf n = [] := by simp [State.exchangesOf, h]
  have : newTakeoffs j s n = [] := by simp [newTakeoffs, hx]
  rw [judgeTakeoffs, this]
  simp [judgeFrom, h]

/-- Inference works on one lane alone, and not on its exchange records. -/
theorem padLost_views (n : LaneNo) (e : End) (s : State) :
    (∀ m, m ≠ n → laneView (padLost n e s) m = laneView s m) ∧ (padLost n e s).exchangesOf n = s.exchangesOf n := by
  unfold padLost
  split
  · exact ⟨fun _ _ => rfl, rfl⟩
  · rename_i h hh
    split
    · split
      · obtain ⟨g, hg, i⟩ := inferAll_inferred n s h hh
        refine ⟨fun m hm => ?_, ?_⟩
        · simp only [laneView, hh, hg, Option.map_some]
          rw [(i.others m hm).1]
        · obtain ⟨_, _, _, hl, -⟩ := i.lane
          simp only [State.exchangesOf, hh, hg, Option.map_some, Option.getD_some]
          rw [hl]
      · exact ⟨fun _ _ => rfl, rfl⟩
    · exact ⟨fun _ _ => rfl, rfl⟩

theorem platformLost_view (n m : LaneNo) (e : End) (s : State) (hm : m ≠ n) :
    laneView (platformLost n e s) m = laneView s m := by
  unfold platformLost
  split
  · rfl
  · rename_i h hh
    split
    · split
      · split
        · simp [laneView, writeReaction, hh, modLane_get, hm]
        · rfl
      · exact (giveVerdict_exchanged _ _ _ _).judged.laneView (fun hn => absurd hn (by simp [hh])) m hm
      · rfl
    · rfl

/-- No pad of a lane among the inputs lost. -/
theorem losePads_none (lost : List (Fin 71)) (s : State) (n : LaneNo) (h : ∀ e, padInput n e ∉ lost) :
    losePads lost s n = s := by
  simp [losePads, h]

theorem losePlatforms_none (lost : List (Fin 71)) (s : State) (n : LaneNo) (h : ∀ e, platformInput n e ∉ lost) :
    losePlatforms lost n s = s := by
  simp [losePlatforms, h]

theorem losePads_one (n : LaneNo) (e : End) (s : State) : losePads [padInput n e] s n = padLost n e s := by
  have hb : padInput n .a ≠ padInput n .b := fun h => by cases (padInput_inj h).2
  cases e <;> simp [losePads, hb, hb.symm]

theorem losePlatforms_one (n : LaneNo) (e : End) (s : State) :
    losePlatforms [platformInput n e] n s = platformLost n e s := by
  have hb : platformInput n .a ≠ platformInput n .b := fun h => by cases (platformInput_inj h).2
  cases e <;> simp [losePlatforms, hb, hb.symm]

theorem settleLane_none (j : State) (lost : List (Fin 71)) (s : State) (n : LaneNo) (h : ∀ e, platformInput n e ∉ lost) :
    settleLane j lost s n = judgeFrom n (j.splitCount n) (judgeTakeoffs j n s) := by
  rw [settleLane, losePlatforms_none _ _ _ h]

/-- A lane as it was at the last judging has nothing to judge. -/
theorem judgeLane_same (j s : State) (n : LaneNo) (h : laneView s n = laneView j n) :
    judgeFrom n (j.splitCount n) (judgeTakeoffs j n s) = s := by
  rw [judgeTakeoffs_same j s n (by rw [exchangesOf_view, exchangesOf_view, h]), judgeFrom_same j s n h]

/-- No input left service and no lane changed: nothing is handed on. -/
theorem handServices_none (before judged s : State) (is : List (Fin 71)) (h : leftService before s is = [])
    (hj : ∀ n, laneView s n = laneView judged n) : handServices before judged is s = s := by
  rw [handServices, h]
  rw [foldl_lanes_idle (losePads []) s fun m => losePads_none _ _ _ fun _ => List.not_mem_nil]
  refine foldl_lanes_idle _ s fun m => ?_
  rw [settleLane_none _ _ _ _ fun _ => List.not_mem_nil, judgeLane_same _ _ _ (hj m)]

/-- No input left service: the takeoffs and new entries of the one lane that changed are judged (R111, R115). -/
theorem handServices_judges (before judged s : State) (is : List (Fin 71)) (n : LaneNo) (h : leftService before s is = [])
    (hj : ∀ m, m ≠ n → laneView s m = laneView judged m) :
    handServices before judged is s = judgeFrom n (judged.splitCount n) (judgeTakeoffs judged n s) := by
  have hl : ∀ m t, settleLane judged [] t m = judgeFrom m (judged.splitCount m) (judgeTakeoffs judged m t) := fun m t =>
    settleLane_none _ _ _ _ fun _ => List.not_mem_nil
  rw [handServices, h]
  rw [foldl_lanes_idle (losePads []) s fun m => losePads_none _ _ _ fun _ => List.not_mem_nil, foldl_lane _ n s, hl]
  · intro m hm
    rw [hl, judgeLane_same _ _ _ (hj m hm)]
  · intro m hm
    rw [hl, hl, judgeLane_same]
    rw [judgeLane_view _ _ _ _ _ hm]
    exact hj m hm

/-- One pad left service: its inference, then the exchange judging of the entries it added. -/
theorem handServices_pad (before s : State) (is : List (Fin 71)) (e : End) (n : LaneNo)
    (h : leftService before s is = [padInput n e]) :
    handServices before s is s = judgeFrom n (s.splitCount n) (padLost n e s) := by
  have hp : ∀ m t, m ≠ n → losePads [padInput n e] t m = t := fun m t hm =>
    losePads_none _ _ _ fun f hf => hm (padInput_inj (List.mem_singleton.mp hf)).1
  have hl : ∀ m t, settleLane s [padInput n e] t m = judgeFrom m (s.splitCount m) (judgeTakeoffs s m t) := fun m t =>
    settleLane_none _ _ _ _ fun f hf => padInput_ne_platformInput _ _ _ _ (List.mem_singleton.mp hf).symm
  have hv := (padLost_views n e s).1
  rw [handServices, h]
  rw [foldl_lane (losePads _) n s (fun m hm => hp m _ hm) (fun m hm => hp m _ hm), losePads_one, foldl_lane _ n, hl,
    judgeTakeoffs_same _ _ _ (padLost_views n e s).2]
  · intro m hm
    rw [hl, judgeLane_same _ _ _ (hv m hm)]
  · intro m hm
    rw [hl, hl, judgeLane_same]
    rw [judgeLane_view _ _ _ _ _ hm, hv m hm]

/-- One platform left service: its records are settled. -/
theorem handServices_platform (before s : State) (is : List (Fin 71)) (e : End) (n : LaneNo)
    (h : leftService before s is = [platformInput n e]) : handServices before s is s = platformLost n e s := by
  have hl : ∀ m t, m ≠ n → settleLane s [platformInput n e] t m = judgeFrom m (s.splitCount m) (judgeTakeoffs s m t) :=
    fun m t hm => settleLane_none _ _ _ _ fun f hf => hm (platformInput_inj (List.mem_singleton.mp hf)).1
  rw [handServices, h]
  rw [foldl_lanes_idle (losePads _) s fun m =>
    losePads_none _ _ _ fun f hf => padInput_ne_platformInput _ _ _ _ (List.mem_singleton.mp hf), foldl_lane _ n s]
  · rw [settleLane, judgeLane_same _ _ _ rfl, losePlatforms_one]
  · intro m hm
    rw [hl m _ hm, judgeLane_same _ _ _ rfl]
  · intro m hm
    rw [hl m _ hm, settleLane, judgeLane_same _ _ _ rfl, losePlatforms_one, judgeLane_same]
    exact platformLost_view n m e s hm

/-! ## Records moved by one event -/

@[simp] theorem writeFault_faults (i : Fin 71) (c : FaultClass) (k : FaultCause) (l : Option Link) (q : FaultRecord)
    (s : State) : (writeFault i c k l q s).faults = s.faults.set i.val q i.isLt := by
  unfold writeFault
  dsimp only
  split <;> rfl

@[simp] theorem writeFault_decoders (i : Fin 71) (c : FaultClass) (k : FaultCause) (l : Option Link) (q : FaultRecord)
    (s : State) : (writeFault i c k l q s).decoders = s.decoders := by
  unfold writeFault
  dsimp only
  split <;> rfl

@[simp] theorem writeFault_heat (i : Fin 71) (c : FaultClass) (k : FaultCause) (l : Option Link) (q : FaultRecord)
    (s : State) : (writeFault i c k l q s).heat = s.heat := by
  unfold writeFault
  dsimp only
  split <;> rfl

theorem writeFault_get (i j : Fin 71) (c : FaultClass) (k : FaultCause) (l : Option Link) (q : FaultRecord) (s : State) :
    (writeFault i c k l q s).faults.get j = if j = i then q else s.faults.get j := by
  rw [writeFault_faults]
  simp only [Vector.get_eq_getElem, Vector.getElem_set]
  by_cases h : j = i
  · subst h
    simp
  · rw [if_neg h, if_neg fun e => h (Fin.ext e.symm)]

/-- Each record of a list moves by itself. -/
theorem writeFaults_get (is : List (Fin 71)) (hd : is.Nodup) (f : Fin 71 → FaultRecord → FaultRecord)
    (cls : Fin 71 → FaultRecord → FaultClass) (k : FaultCause) (l : Option Link) (s : State) (j : Fin 71) :
    (is.foldl (fun s i => writeFault i (cls i (s.faults.get i)) k l (f i (s.faults.get i)) s) s).faults.get j =
      if j ∈ is then f j (s.faults.get j) else s.faults.get j := by
  induction is generalizing s with
  | nil => rfl
  | cons i is ih =>
    obtain ⟨hi, hs⟩ := List.nodup_cons.mp hd
    rw [List.foldl_cons, ih hs, writeFault_get]
    by_cases h : j = i
    · subst h
      simp [hi]
    · simp [h]

theorem handServices_faults (b j : State) (is : List (Fin 71)) (s : State) : (handServices b j is s).faults = s.faults :=
  (RaceOnly.handServices b j is s).faults

theorem handServices_decoders (b j : State) (is : List (Fin 71)) (s : State) :
    (handServices b j is s).decoders = s.decoders := (RaceOnly.handServices b j is s).decoders

/-- What an event that moves fault records makes of them (R155, R159). -/
theorem moveFaults_get (is : List (Fin 71)) (hd : is.Nodup) (f : Fin 71 → FaultRecord → FaultRecord)
    (cls : Fin 71 → FaultRecord → FaultClass) (k : FaultCause) (l : Option Link) (s : State) (j : Fin 71) :
    (moveFaults is f cls k l s).faults.get j = if j ∈ is then f j (s.faults.get j) else s.faults.get j := by
  rw [moveFaults, handServices_faults, writeFaults_get is hd]

theorem moveFaults_decoders (is : List (Fin 71)) (f : Fin 71 → FaultRecord → FaultRecord)
    (cls : Fin 71 → FaultRecord → FaultClass) (k : FaultCause) (l : Option Link) (s : State) :
    (moveFaults is f cls k l s).decoders = s.decoders := by
  rw [moveFaults, handServices_decoders]
  induction is generalizing s with
  | nil => rfl
  | cons i is ih => rw [List.foldl_cons, ih, writeFault_decoders]

theorem writeFaults_heat (is : List (Fin 71)) (f : Fin 71 → FaultRecord → FaultRecord)
    (cls : Fin 71 → FaultRecord → FaultClass) (k : FaultCause) (l : Option Link) (s : State) :
    (is.foldl (fun s i => writeFault i (cls i (s.faults.get i)) k l (f i (s.faults.get i)) s) s).heat = s.heat := by
  induction is generalizing s with
  | nil => rfl
  | cons i is ih => rw [List.foldl_cons, ih, writeFault_heat]

/-- Records that stay in service, or were out of it before, hand nothing to the race. -/
theorem moveFaults_heat (is : List (Fin 71)) (hd : is.Nodup) (f : Fin 71 → FaultRecord → FaultRecord)
    (cls : Fin 71 → FaultRecord → FaultClass) (k : FaultCause) (l : Option Link) (s : State)
    (hs : ∀ i ∈ is, s.inService i = true → (f i (s.faults.get i)).state.inService = true) :
    (moveFaults is f cls k l s).heat = s.heat := by
  rw [moveFaults, handServices_none, writeFaults_heat]
  · refine List.filter_eq_nil_iff.mpr fun i hi => ?_
    rw [State.inService, State.inService, writeFaults_get is hd, if_pos hi]
    have := hs i hi
    rw [State.inService] at this
    cases hb : (s.faults.get i).state.inService
    · simp
    · simp [this hb]
  · exact fun n => by simp only [laneView, writeFaults_heat]

/-! ## Decoders in one event -/

theorem FaultRecord.judge_state (p : Params) (c : FaultClass) (k : Condition) (r : FaultRecord) (h : r.state = .clear) :
    (r.judge p c k).state ≠ .retryTiming := by
  unfold FaultRecord.judge
  split <;> simp [FaultRecord.caught, h]

/-- A retry expiry ends the retry timing whatever condition it judges (R150, R153). -/
theorem FaultRecord.expires_state (p : Params) (i : Fin 71) (r : FaultRecord) : (r.expires p i).state ≠ .retryTiming := by
  unfold FaultRecord.expires FaultRecord.judgeOther
  split
  · exact FaultRecord.judge_state p _ _ _ rfl
  · exact nofun

/-- A record in retry timing is out of service. -/
theorem FaultRecord.retryDue_state {p : Params} {now : DeckTime} {r : FaultRecord} (h : r.retryDue p now = true) :
    r.state = .retryTiming := by
  simp only [FaultRecord.retryDue, Bool.and_eq_true, beq_iff_eq] at h
  exact h.1

/-- What retry expiries make of the records (R153, R159). -/
theorem expireRetries_get (is : List (Fin 71)) (hd : is.Nodup) (s : State) (j : Fin 71) :
    (expireRetries is s).faults.get j =
      if j ∈ is ∧ (s.faults.get j).retryDue s.params s.deckTime = true then (s.faults.get j).expires s.params j
      else s.faults.get j := by
  rw [expireRetries, moveFaults_get _ (hd.filter _)]
  simp only [List.mem_filter]

/-- A retry expiry returns an input to service or leaves it out, so the race stays (R79, R160). -/
theorem expireRetries_heat (is : List (Fin 71)) (hd : is.Nodup) (s : State) : (expireRetries is s).heat = s.heat := by
  refine moveFaults_heat _ (hd.filter _) _ _ _ _ s fun i hi hs => ?_
  have hr := FaultRecord.retryDue_state (List.mem_filter.mp hi).2
  simp [State.inService, hr, FaultState.inService] at hs

theorem reportFault_decoders (i : Fin 71) (c : Condition) (k : FaultCause) (f : FaultRecord → FaultRecord) (s : State) :
    (reportFault i c k f s).decoders = s.decoders := writeFault_decoders ..

theorem reportLine_decoders (i : Fin 71) (o v : Condition) (s : State) : (reportLine i o v s).decoders = s.decoders := by
  unfold reportLine
  split
  · rfl
  · split
    · exact reportFault_decoders ..
    · split <;> exact reportFault_decoders ..

theorem superviseChange_decoders (i : Fin 71) (o v : Decoder) (s : State) :
    (superviseChange i o v s).decoders = s.decoders := by
  unfold superviseChange
  rw [reportLine_decoders]
  split
  · exact reportFault_decoders ..
  · rfl

theorem State.modDecoder_decoder (s : State) (l m : Line) (f : Decoder → Decoder) :
    (s.modDecoder l f).decoder m = if m = l then f (s.decoder l) else s.decoder m := by
  by_cases h : m = l
  · subst h
    simp [State.decoder]
  · rw [if_neg h]
    exact updAt_get_ne _ _ _ _ fun e => h (Line.index_inj e)

/-- A line's decoder after its candidate, if it holds one, is counted. -/
def Decoder.counts (l : Line) (d : Decoder) : Decoder :=
  match d.candidate with
  | none => d
  | some c => d.count l c

theorem countLine_decoders (s : State) (l : Line) :
    (countLine s l).decoders = (s.modDecoder l (Decoder.counts l)).decoders := by
  unfold countLine
  dsimp only
  split
  · rename_i h
    rw [State.modDecoder_decoders]
    refine (updAt_same _ _ _ ?_).symm
    simp only [Decoder.counts]
    exact (by rw [show (s.decoders.get l.index).candidate = none from h])
  · rename_i c h
    have hc : (s.modDecoder l (Decoder.count l c)).decoders = (s.modDecoder l (Decoder.counts l)).decoders := by
      rw [State.modDecoder_decoders, State.modDecoder_decoders]
      refine updAt_congr _ _ _ _ ?_
      simp only [Decoder.counts]
      rw [show (s.decoders.get l.index).candidate = some c from h]
    split
    · exact hc
    · rw [superviseChange_decoders, hc]

theorem countLines_decoder (ls : List Line) (hd : ls.Nodup) (s : State) (m : Line) :
    (ls.foldl countLine s).decoder m = if m ∈ ls then (s.decoder m).counts m else s.decoder m := by
  induction ls generalizing s with
  | nil => rfl
  | cons l ls ih =>
    obtain ⟨hl, hs⟩ := List.nodup_cons.mp hd
    have h1 : ∀ k, (countLine s l).decoder k = if k = l then (s.decoder l).counts l else s.decoder k := fun k => by
      rw [← State.modDecoder_decoder, State.decoder, State.decoder, countLine_decoders]
    rw [List.foldl_cons, ih hs, h1]
    by_cases h : m = l
    · subst h
      simp [hl]
    · simp [h]

theorem insertFormed_perm (s : State) (l : Line) (ls : List Line) : (insertFormed s l ls).Perm (l :: ls) := by
  induction ls with
  | nil => exact List.Perm.refl _
  | cons m ms ih =>
    unfold insertFormed
    split
    · exact List.Perm.refl _
    · exact (ih.cons m).trans (List.Perm.swap l m ms)

/-- Lines in forming order are the same lines (R140). -/
theorem formedOrder_perm (s : State) (ls : List Line) : (formedOrder s ls).Perm ls := by
  induction ls with
  | nil => exact List.Perm.refl _
  | cons l ls ih => exact (insertFormed_perm s l _).trans (ih.cons l)

theorem insertFormed_ordered (s : State) (l : Line) (ls : List Line)
    (h : ls.Pairwise fun a b => lateness s b ≤ lateness s a) :
    (insertFormed s l ls).Pairwise fun a b => lateness s b ≤ lateness s a := by
  induction ls with
  | nil => exact List.pairwise_singleton _ _
  | cons m ms ih =>
    obtain ⟨hm, hs⟩ := List.pairwise_cons.mp h
    unfold insertFormed
    split
    · rename_i hl
      refine List.pairwise_cons.mpr ⟨fun b hb => ?_, h⟩
      rcases List.mem_cons.mp hb with rfl | hb
      · exact hl
      · exact (hm b hb).trans hl
    · rename_i hl
      refine List.pairwise_cons.mpr ⟨fun b hb => ?_, ih hs⟩
      rcases List.mem_cons.mp ((insertFormed_perm s l ms).mem_iff.mp hb) with rfl | hb
      · omega
      · exact hm b hb

/-- The change that completed earlier comes first (R140). -/
theorem formedOrder_ordered (s : State) (ls : List Line) :
    (formedOrder s ls).Pairwise fun a b => lateness s b ≤ lateness s a := by
  induction ls with
  | nil => exact List.Pairwise.nil
  | cons l ls ih => exact insertFormed_ordered s l _ ih

/-- One line completes alone. -/
theorem formedOrder_single (s : State) (l : Line) : formedOrder s [l] = [l] := rfl

/-- One line that is due: counted and reported, its event handed on, then what its service and its lane's lists bring. -/
theorem completeLines_one (s : State) (l : Line) (h : (s.decoder l).candidateDue s.params l s.deckTime = true) :
    completeLines [l] s =
      handServices s (if Line.isLane l = true then s else deliverCounted s (countLine s l) l) l.input.toList
        (deliverCounted s (countLine s l) l) := by
  have hi : [l].filterMap Line.input = l.input.toList := by cases hl : l.input <;> simp [hl]
  have hc : ¬1 < [l].countP Line.isLane := by cases hl : Line.isLane l <;> simp [hl]
  have hf : [l].filter (fun l => (s.decoder l).candidateDue s.params l s.deckTime) = [l] := by simp [h]
  simp only [completeLines, hf, hc, hi, if_false]
  simp [handEvents, formedOrder_single]

/-- The decoders after the candidates of some lines that are due complete: each of these counts its candidate, and no other
decoder changes (R136, R138). -/
theorem completeLines_decoder (ls : List Line) (hd : ls.Nodup) (s : State) (m : Line) :
    (completeLines ls s).decoder m =
      if m ∈ ls ∧ (s.decoder m).candidateDue s.params m s.deckTime = true then (s.decoder m).counts m
      else s.decoder m := by
  have hdel : ∀ (c : Prop) [Decidable c] (ks : List Line) (t : State),
      (if c then handTogether s ks t else handEvents s ks t).decoders = t.decoders := fun c _ ks t => by
    split
    · exact (RaceOnly.handTogether s ks t).decoders
    · exact (RaceOnly.handEvents s ks t).decoders
  rw [completeLines, State.decoder, handServices_decoders, hdel]
  exact (countLines_decoder _ (hd.filter _) s m).trans (by simp [List.mem_filter])

theorem reportStuck_decoder (s : State) (l m : Line) :
    (reportStuck s l).decoder m =
      if m = l ∧ l.input.isSome = true then { s.decoder m with stuck := .expired } else s.decoder m := by
  unfold reportStuck
  split
  · rename_i h
    simp [h]
  · rename_i i h
    rw [State.decoder, reportFault_decoders]
    refine (State.modDecoder_decoder s l m _).trans ?_
    by_cases hm : m = l
    · subst hm
      simp [h]
    · simp [hm]

theorem reportStuck_params (s : State) (l : Line) : (reportStuck s l).params = s.params := by
  unfold reportStuck reportFault writeFault
  dsimp only
  split
  · rfl
  · split <;> rfl

theorem reportStuck_get (s : State) (l : Line) (j : Fin 71) :
    (reportStuck s l).faults.get j =
      if l = lineOfInput j then (s.faults.get j).begins s.params (conditionClass j .stuck) .stuck else s.faults.get j := by
  unfold reportStuck
  split
  · rename_i h
    rw [if_neg]
    intro e
    rw [e, lineOfInput_input] at h
    exact Option.some_ne_none _ h
  · rename_i i h
    refine (writeFault_get ..).trans ?_
    have hi := lineOfInput_of_input h
    by_cases e : j = i
    · subst e
      rw [if_pos rfl, if_pos hi.symm]
      rfl
    · rw [if_neg e, if_neg]
      · rfl
      · intro hl
        rw [hl, lineOfInput_input] at h
        exact e (Option.some.inj h)

theorem reportStucks_get (ls : List Line) (hd : ls.Nodup) (s : State) (j : Fin 71) :
    (ls.foldl reportStuck s).faults.get j =
      if lineOfInput j ∈ ls then (s.faults.get j).begins s.params (conditionClass j .stuck) .stuck else s.faults.get j := by
  induction ls generalizing s with
  | nil => rfl
  | cons l ls ih =>
    obtain ⟨hl, hs⟩ := List.nodup_cons.mp hd
    rw [List.foldl_cons, ih hs, reportStuck_get, reportStuck_params]
    by_cases h : l = lineOfInput j
    · subst h
      simp [hl]
    · simp [h, Ne.symm h]

theorem reportStucks_decoder (ls : List Line) (hd : ls.Nodup) (s : State) (m : Line) :
    (ls.foldl reportStuck s).decoder m =
      if m ∈ ls ∧ m.input.isSome = true then { s.decoder m with stuck := .expired } else s.decoder m := by
  induction ls generalizing s with
  | nil => simp
  | cons l ls ih =>
    obtain ⟨hl, hs⟩ := List.nodup_cons.mp hd
    rw [List.foldl_cons, ih hs, reportStuck_decoder]
    by_cases h : m = l
    · subst h
      simp [hl]
    · simp [h]

/-- The decoders after the stuck timers of some lines that are due expire (R143). -/
theorem expireLines_decoder (ls : List Line) (hd : ls.Nodup) (s : State) (m : Line) :
    (expireLines ls s).decoder m =
      if (m ∈ ls ∧ (s.decoder m).stuckDue s.params s.deckTime = true) ∧ m.input.isSome = true then
        { s.decoder m with stuck := .expired }
      else s.decoder m := by
  rw [expireLines, State.decoder, handServices_decoders]
  exact (reportStucks_decoder _ (hd.filter _) s m).trans (by simp only [List.mem_filter])

/-- The fault records after the stuck timers of some lines that are due expire (R143, R150). -/
theorem expireLines_get (ls : List Line) (hd : ls.Nodup) (s : State) (j : Fin 71) :
    (expireLines ls s).faults.get j =
      if lineOfInput j ∈ ls ∧ (s.decoder (lineOfInput j)).stuckDue s.params s.deckTime = true then
        (s.faults.get j).begins s.params (conditionClass j .stuck) .stuck
      else s.faults.get j := by
  rw [expireLines, handServices_faults]
  exact (reportStucks_get _ (hd.filter _) s j).trans (by simp only [List.mem_filter])

end Sys2Proof.Machine
end

