-- ==== Sys2Proof/Tests/Slice0.lean ====
section
/-! SUPPORT. The model's own tests: ill-formed terms refused, one step of each kind on small states, and for each
statement about the hub a state that meets its hypotheses, clause by clause. -/

namespace Sys2Proof.Tests

set_option Elab.async false

open Sys2Proof Sys2Proof.Machine

/-! ## Small states -/

/-- A relay of two legs over four lengths from END A, a BLOCK start, lanes 3 and 4 OPEN. -/
def course : Definition where
  id := ⟨1, 1⟩
  lengths := 4
  poolLength := 50
  startEnd := .a
  startKind := .block
  segments := [⟨2, 1, 0⟩, ⟨2, 2, 0⟩]
  lanes := Vector.ofFn fun n => if n = 3 ∨ n = 4 then ⟨.used, [7, 8]⟩ else ⟨.vacant, []⟩
  firstGuard := 70000
  minLength := 70000
  turnLockout := 15000
  weight := 20
  basis := .last
  laneMode := .auto
  collectTime := 30000
  backupTolerance := 3000
  exchangeAllowance := 300
  releaseMode := .auto
  splitInterval := 1

/-- The hub right after start-up, every line IDLE and nothing sent. -/
def hub : State := { State.reset with phase := .running }

/-- The hub with a race. -/
def racing (h : Heat) : State := { hub with heat := some h }

/-- The race just loaded. -/
def loaded : Heat := Heat.build course

/-- The same race in another phase, started at deck time 0. -/
def started (p : RacePhase) : Heat := { loaded with phase := p, startTime := some 0, overtimeTimer := true }

/-- Lane 3 replaced. -/
def withLane (h : Heat) (l : Lane) : Heat := h.modLane 3 fun _ => l

/-- Lane 3's hold set, DQ mark and place replaced. -/
def withDesk (h : Heat) (k : Desk) : Heat := h.modDesk 3 fun _ => k

/-- A SWIMMING lane that expects length k at END `e` from 80000, its window at 150000. -/
def swimmer (k : Nat) (e : End) : Lane :=
  { Lane.build course 3 with state := .swimming, expectation := some ⟨k, e, 80000, 150000⟩ }

/-- A COLLECT lane opened at 300000 with its pad slot as given. -/
def collecting (pad one two three : Option Nat) : Lane :=
  { Lane.build course 3 with state := .collect, collection := some ⟨300000, pad, one, two, three⟩ }

/-- A FINISHED lane. -/
def ended (c : ResultCore) : Lane := { Lane.build course 3 with state := .finished, result := some c }

/-- A lane that is VACANT. -/
def emptyLane : Lane := Lane.build course 0

/-- The hub with a line's candidate of a level since a deck time. -/
def lined (l : Line) (old new : Level) (since now : DeckTime) (s : State) : State :=
  { s.modDecoder l (fun d => { d with sensed := new, counted := old, candidate := some ⟨new, since⟩ }) with
    deckTime := now }

/-- The hub with four taken requests unanswered on link 0. -/
def full : State := hub.modLink .cl0 fun c => { c with unanswered := 4 }

/-- The hub with a frame's bytes in link 0's framer. -/
def framing (bytes : List Byte) : State := setFramer .cl0 (.frame bytes 0) hub

/-- The hub with a frame in flight on link 0. -/
def sending (f : LinkFrame) : State := hub.modLink .cl0 fun c => { c with unanswered := 1, flight := some ⟨f, 0⟩ }

/-- The hub with a fault record of pad 3 at END A. -/
def faulted (r : FaultRecord) : State := { hub with faults := updAt hub.faults 3 fun _ => r }

/-- The state a step answers, or the one before. -/
def after (s : State) : Host.Outcome State Fault Refusal → State
  | .next t => t
  | _ => s

theorem takes_hub : Takes .cl0 hub := ⟨rfl, rfl, by decide⟩

theorem takes_racing (h : Heat) : Takes .cl0 (racing h) := ⟨rfl, rfl, Nat.zero_lt_succ _⟩

/-- A STAGE HEAT body of one length, every optional item absent. -/
def shortBody : HeatBody where
  event := 1
  heat := 1
  lengths := 1
  poolLength := none
  startEnd := none
  startKind := none
  firstGuard := none
  minLength := none
  turnLockout := none
  weight := none
  basis := none
  laneMode := none
  collectTime := none
  backupTolerance := none
  exchangeAllowance := none
  releaseMode := none
  splitInterval := none
  segments := [⟨1, 1, 0xFF⟩]
  lanes := ⟨0, [7]⟩ :: List.replicate 9 ⟨1, []⟩

/-! ## WellFormed refuses an ill-formed term of each command that has a check -/

theorem test_refused_lanes :
    (Instr.scratchLane .cl0 0 10).wellFormed = false ∧ (Instr.assignEntrant .cl0 0 10 []).wellFormed = false ∧
    (Instr.setLaneTiming .cl0 0 10 ⟨some 0, none, none⟩).wellFormed = false ∧
    (Instr.promoteTouch .cl0 0 10 1).wellFormed = false ∧ (Instr.declareNoFinish .cl0 0 10).wellFormed = false ∧
    (Instr.enterFinish .cl0 0 10 1).wellFormed = false ∧ (Instr.adjustFinish .cl0 0 10 1).wellFormed = false ∧
    (Instr.readLane .cl0 0 10).wellFormed = false ∧ (Instr.readSplits .cl0 0 10 1).wellFormed = false ∧
    (Instr.holdLane .cl0 0 10).wellFormed = false ∧ (Instr.unholdLane .cl0 0 10).wellFormed = false ∧
    (Instr.clearSystemHold .cl0 0 10 1).wellFormed = false ∧ (Instr.releaseLane .cl0 0 10).wellFormed = false ∧
    (Instr.disqualify .cl0 0 10 1).wellFormed = false ∧ (Instr.reinstate .cl0 0 10).wellFormed = false := by
  decide +kernel

theorem test_refused_numbers :
    (Instr.readRace .cl0 0 2).wellFormed = false ∧ (Instr.promoteTouch .cl0 0 3 0).wellFormed = false ∧
    (Instr.setLaneTiming .cl0 0 3 ⟨none, none, none⟩).wellFormed = false ∧
    (Instr.setLaneTiming .cl0 0 3 ⟨some 2, none, none⟩).wellFormed = false ∧
    (Instr.readSplits .cl0 0 3 0).wellFormed = false ∧ (Instr.readSplits .cl0 0 3 65).wellFormed = false ∧
    (Instr.clearSystemHold .cl0 0 3 0).wellFormed = false ∧ (Instr.clearSystemHold .cl0 0 3 64).wellFormed = false ∧
    (Instr.setParameter .cl0 0 39 0).wellFormed = false ∧ (Instr.setParameter .cl0 0 10 5).wellFormed = false ∧
    (Instr.getParameter .cl0 0 39).wellFormed = false ∧ (Instr.setNoticeMask .cl0 0 0x4000).wellFormed = false ∧
    (Instr.readFaults .cl0 0 74).wellFormed = false ∧ (Instr.clearFaults .cl0 0 74).wellFormed = false := by
  decide +kernel

theorem test_refused_stage_heat :
    (Instr.stageHeat .cl0 0 { shortBody with startEnd := some 2 }).wellFormed = false ∧
    (Instr.stageHeat .cl0 0 { shortBody with lanes := [] }).wellFormed = false ∧
    (Instr.stageHeat .cl0 0 shortBody).wellFormed = true := by
  decide +kernel

theorem test_refused_others :
    (Instr.unknownRequest .cl0 0 0x1C).wellFormed = false ∧ (Instr.unknownRequest .cl0 0 0x1D).wellFormed = true ∧
    (Instr.sensedLevelChange (.button 0 .one) .opened).wellFormed = false ∧
    (Instr.sensedLevelChange (.pad .a 0) .opened).wellFormed = true ∧
    (Instr.stuckTimerExpiry (.platform .a 0)).wellFormed = false ∧
    (Instr.stuckTimerExpiry (.button 0 .one)).wellFormed = true := by
  decide +kernel

/-! ## Layouts -/

/-- The check value of the CRC of R189, over the nine digits 1 to 9. -/
theorem test_crc : crc16 [0x31, 0x32, 0x33, 0x34, 0x35, 0x36, 0x37, 0x38, 0x39] = 0x29B1 := by decide +kernel

/-- A LIST QUEUE frame: SYNC, LEN, TAG, KIND, two bytes of CRC. -/
theorem test_envelope_length : (envelope 5 0x03 []).length = 6 ∧ (envelope 5 0x03 []).take 4 = [0xC3, 2, 5, 3] := by
  decide +kernel

theorem test_input_numbers :
    (Line.pad .a 9).input = some 9 ∧ (Line.pad .b 0).input = some 10 ∧ (Line.platform .a 0).input = some 20 ∧
    (Line.platform .b 0).input = some 30 ∧ Line.start.input = some 70 ∧ Line.marks.input = none := by
  decide +kernel

theorem test_body_is_read_back :
    readAll readHeatBody (heatBodyBytes shortBody) = some shortBody := by decide +kernel

/-! ## Definitions -/

theorem test_course_valid : course.invalid = none ∧ course.legs = 2 ∧ course.finishEnd = .a ∧ course.boundary 2 = some 2 := by
  decide +kernel

theorem test_checks_in_order :
    ({ course with segments := [] } : Definition).invalid = some ⟨.segmentCount, none, 0, 0⟩ ∧
    ({ course with lengths := 5 } : Definition).invalid = some ⟨.planMismatch, none, 0, 4⟩ ∧
    ({ course with segments := [⟨2, 1, 0⟩, ⟨2, 3, 0⟩] } : Definition).invalid = some ⟨.legOrder, none, 2, 0⟩ ∧
    ({ course with weight := 0 } : Definition).invalid = some ⟨.range, some 7, 0, 0⟩ ∧
    ({ course with minLength := 30000, turnLockout := 30000 } : Definition).invalid = some (.plain .lockout) := by
  decide +kernel

/-! ## One step -/

theorem test_reset_pending_is_empty : State.reset.pending = [] ∧ State.reset.phase = .startUp 2000 .powerOn := ⟨rfl, rfl⟩

/-- Start-up ends with STARTED on every link. -/
theorem test_start_up_end :
    ((endStartUp .powerOn State.reset).links.get .cl2).flight.map LinkFlight.frame =
      some (.notice ⟨false, .started .powerOn⟩) := by decide +kernel

/-- A staged heat joins an empty queue. -/
theorem test_stage : (performStageHeat .cl0 shortBody hub).result = .done ∧
    (performStageHeat .cl0 shortBody hub).state.queue.length = 1 := by decide +kernel

/-- The same heat twice is refused. -/
theorem test_stage_twice :
    (performStageHeat .cl1 shortBody (performStageHeat .cl0 shortBody hub).state).result = .duplicate := by decide +kernel

/-- ADVANCE from EMPTY loads the head. -/
theorem test_advance :
    (performAdvance .cl0 (performStageHeat .cl0 shortBody hub).state).state.raceState = .loaded := by decide +kernel

/-- A touch before the window is rejected EARLY with number 1. -/
theorem test_early_touch :
    ((takeTouch 3 .b 100000 (racing (withLane (started .running) (swimmer 1 .b)))).heat.map fun h =>
      (h.lanes.get 3).rejected) = some [⟨1, 100000, .b, .early, 1⟩] := by decide +kernel

/-- A touch in the window is length 1's split. -/
theorem test_accepted_touch :
    ((takeTouch 3 .b 150000 (racing (withLane (started .running) (swimmer 1 .b)))).heat.map fun h =>
      ((h.lanes.get 3).splits, (h.lanes.get 3).expectation)) =
    some ([⟨1, .b, 1, some 150000, .pad⟩], some ⟨2, .a, 150000, 220000⟩) := by decide +kernel

/-- Three buttons resolve to their median. -/
theorem test_median : (Collection.mk 0 none (some 5) (some 9) (some 7)).backup = some 7 ∧
    (Collection.mk 0 none (some 5) none (some 8)).backup = some 6 := by decide +kernel

/-- An empty queue with nothing due lets a unit pass. -/
theorem test_tick : (tick hub).deckTime = 1 ∧ dueCommands hub = [] := by decide +kernel

/-! ## States that meet the hypotheses of the statements -/

/-- `Completes`, as a test. -/
def completesNow (l : Line) (old new : Level) (since : DeckTime) (s : State) : Bool :=
  decide (s.phase = .running) && decide ((s.decoder l).stuck ≠ .expired) && decide ((s.decoder l).counted = old) &&
    decide ((s.decoder l).candidate = some ⟨new, since⟩) &&
    decide (s.params.deglitch l old new ≤ elapsed since s.deckTime) && s.lineInService l

theorem completes_of {l : Line} {old new : Level} {since : DeckTime} {s : State}
    (h : completesNow l old new since s = true) : Completes l old new since s := by
  simp only [completesNow, Bool.and_eq_true, decide_eq_true_eq] at h
  exact ⟨h.1.1.1.1.1, h.1.1.1.1.2, h.1.1.1.2, h.1.1.2, h.1.2, h.2⟩

theorem test_witness_StepRunsTheFrontCommand :
    ({ hub with pending := [.listQueue .cl0 5, .resetnLow] } : State).pending = .listQueue .cl0 5 :: [.resetnLow] := rfl

/-- The hub with its clock timer run out. -/
def clockOut : State := { hub with board := { hub.board with clockTimer := some ⟨0, 0⟩ } }

theorem test_witness_EmptyQueueTakesWhatIsDueOrAUnitPasses :
    hub.pending = [] ∧ dueCommands hub = [] ∧ clockOut.pending = [] ∧ dueCommands clockOut = [.clockTimerExpiry] ∧
    2 ≤ (dueCommands { clockOut with board := { clockOut.board with idleTimer := some ⟨0, 0⟩ } }).length ∧
    State.reset.phase = .startUp 2000 .powerOn ∧ ({ hub with phase := .held } : State).phase = .held := by
  decide +kernel

theorem test_witness_WhatFallsDue :
    hub.phase = .running ∧
    .candidateCompletes (.pad .a 3) ∈ dueCommands (lined (.pad .a 3) .idle .active 0 20 hub) ∧
    .candidateCompletes (.pad .a 3) ∉ dueCommands (lined (.pad .a 3) .idle .active 0 19 hub) ∧
    .collecttimeExpiry 3 ∈
      dueCommands { racing (withLane (started .running) (collecting (some 300000) none none none)) with deckTime := 330000 } ∧
    .overtimeExpiry ∈ dueCommands { racing (started .running) with deckTime := 36000000 } := by
  decide +kernel

/-- The hub with a freeze of ten units begun at deck time 0. -/
def frozen (now : DeckTime) : State :=
  { hub with deckTime := now, board := { hub.board with freeze := some ⟨⟨0, 10⟩, 2500⟩ } }

theorem test_witness_WhatFallsDue_lines :
    .freezeTimerExpiry ∈ dueCommands (frozen 10) ∧ .freezeTimerExpiry ∉ dueCommands (frozen 9) ∧
    .boardTransmissionCompletes ∈ dueCommands { hub with board := { hub.board with flight := some ⟨.idle 85, 0⟩ } } ∧
    .boardTransmissionCompletes ∉ dueCommands { hub with board := { hub.board with flight := some ⟨.idle 85, 1⟩ } } ∧
    .linkTransmissionCompletes .cl0 ∈
      dueCommands (hub.modLink .cl0 fun c => { c with flight := some ⟨.answer ⟨5, 3, .done, []⟩, 0⟩ }) ∧
    .longResetnPulse ∈ dueCommands { hub with resetn := some 50 } ∧
    .longResetnPulse ∉ dueCommands { hub with resetn := some 49 } := by
  decide +kernel

theorem reset_stands : ResetTo Params.default (fun _ => NoticeKind.maskable) State.reset State.reset where
  params := rfl
  links := fun l => by cases l <;> rfl
  board := rfl
  heat := rfl
  queue := rfl
  resetPending := rfl
  faults := by decide +kernel
  linkFaults := fun l => by cases l <;> rfl
  decoders := by decide +kernel

theorem test_witness_StartUpEnds : State.reset.phase = .startUp 2000 .powerOn ∧
    ResetTo State.reset.params (fun _ => NoticeKind.maskable) State.reset State.reset := ⟨rfl, reset_stands⟩

/-- The hub with RESETn low for so many units. -/
def low (n : Nat) : State := { hub with resetn := some n }

theorem test_witness_PowerOnReset : hub.resetn = none ∧ (low 0).resetn = some 0 := ⟨rfl, rfl⟩

theorem test_witness_ResetnPulses :
    hub.resetn = none ∧ (low 0).resetn = some 0 ∧ ((low 50).resetn = some 50 ∧ (low 50).phase ≠ .held) ∧
    (low 49).resetn = some 49 ∧ ({ low 50 with phase := .held } : State).phase = .held ∧
    ((low 0).phase = .running ∧ 100 * 0 + 19 < 20) ∧ 20 ≤ 100 * 0 + 20 ∧ 100 * 49 + 99 < 5000 ∧ 5000 ≤ 100 * 50 + 0 ∧
    ({ State.reset with resetn := some 0 } : State).phase = .startUp 2000 .powerOn ∧
    ((low 50).resetn = some 50 ∧ (after hub (exec .longResetnPulse (low 50))).phase = .held) := by
  decide +kernel

theorem test_witness_ResetDeviceAndItsReset :
    Takes .cl0 hub ∧ hub.raceState = .empty ∧ (racing loaded).raceState = .loaded ∧
    (racing (started .final)).raceState = .final ∧ (racing (started .marks)).raceState = .marks ∧
    (racing (started .running)).raceState = .running ∧ (racing (started .review)).raceState = .review ∧
    ∃ s : State, s.phase = .running ∧ s.resetPending = some .cl0 ∧
      (s.links.get .cl0).flight = some ⟨.answer ⟨5, 0x1C, .done, []⟩, 0⟩ :=
  ⟨takes_hub, rfl, rfl, rfl, rfl, rfl, rfl,
    { sending (.answer ⟨5, 0x1C, .done, []⟩) with resetPending := some .cl0 }, rfl, rfl, rfl⟩

theorem test_witness_NothingIsTakenInReset :
    State.reset.phase ≠ .running ∧ (Instr.listQueue .cl0 5).wellFormed = true ∧
    (∀ l v, Instr.listQueue .cl0 5 ≠ .sensedLevelChange l v) ∧ (∀ n, Instr.listQueue .cl0 5 ≠ .resetnHigh n) ∧
    Instr.listQueue .cl0 5 ≠ .powerOnReset ∧ Instr.listQueue .cl0 5 ≠ .resetnLow ∧
    Instr.listQueue .cl0 5 ≠ .longResetnPulse ∧ Instr.listQueue .cl0 5 ≠ .startUpEnd :=
  ⟨by decide, rfl, fun _ _ => nofun, fun _ => nofun, nofun, nofun, nofun, nofun⟩

theorem test_witness_ArrivalsRefusedBusy :
    requestOf (.listQueue .cl0 5) = some (.cl0, 5, 3) ∧
    (∀ k t m, Instr.listQueue .cl0 5 = .unknownRequest k t m → requestKinds.contains m = false) ∧
    full.phase = .running ∧ 4 ≤ (full.links.get .cl0).unanswered ∧ busyCount (full.links.get .cl0).answers < 4 ∧
    ({ hub with resetPending := some .cl1 } : State).resetPending ≠ none ∧
    4 ≤ busyCount
      ((full.modLink .cl0 fun c => { c with answers := List.replicate 4 ⟨5, 3, .busy, []⟩ }).links.get .cl0).answers :=
  ⟨rfl, fun _ _ _ => nofun, rfl, by decide +kernel, by decide +kernel, nofun, by decide +kernel⟩

theorem test_witness_MalformedAndUnknownRequests :
    Takes .cl0 hub ∧ requestOf (.scratchLane .cl0 5 10) = some (.cl0, 5, 8) ∧
    (∀ k t m, Instr.scratchLane .cl0 5 10 ≠ .unknownRequest k t m) ∧ (Instr.scratchLane .cl0 5 10).wellFormed = false ∧
    (0x1D : Byte) ∉ requestKinds ∧ (0 : Byte) ∉ requestKinds ∧ (0x1C : Byte) ∈ requestKinds :=
  ⟨takes_hub, rfl, fun _ _ _ => nofun, by decide +kernel, by decide +kernel, by decide +kernel, by decide +kernel⟩

theorem test_witness_LaneRequestsFollowTheirTables :
    Takes .cl0 hub ∧ requestOf (.holdLane .cl0 5 10) = some (.cl0, 5, 17) ∧ laneOf (.holdLane .cl0 5 10) = some 10 ∧
    10 ≤ (10 : Byte).toNat ∧ (Instr.holdLane .cl0 5 9).wellFormed = true ∧ hub.heat = none ∧
    Takes .cl0 (racing (withLane loaded emptyLane)) ∧
    refusalByTable (.holdLane .cl0 5 3) ((withLane loaded emptyLane).lanes.get 3).state = some .wrongState ∧
    refusalByTable (.adjustFinish .cl0 5 3 1)
      ((withLane (started .running) (collecting none none none none)).lanes.get 3).state = some .laneBusy ∧
    refusalByTable (.holdLane .cl0 5 3)
      ((withLane loaded { ended .noFinish with state := .released }).lanes.get 3).state = some .final :=
  ⟨takes_hub, rfl, rfl, by decide +kernel, by decide +kernel, rfl, takes_racing _, by decide +kernel, by decide +kernel,
    by decide +kernel⟩

theorem test_witness_ReceiveFramer :
    hub.phase = .running ∧ (hub.links.get .cl0).framer = .hunt ∧ (0xC2 : Byte) ≠ 0xC3 ∧
    ((framing []).links.get .cl0).framer = .frame [] 0 ∧ 2 ≤ (2 : Byte).toNat ∧ (250 : Byte).toNat ≤ 250 ∧
    (((framing [2, 5, 3]).links.get .cl0).framer = .frame (2 :: [5, 3]) 0 ∧ [(5 : Byte), 3].length + 2 < (2 : Byte).toNat + 3) ∧
    (1 : Byte).toNat < 2 ∧ 250 < (251 : Byte).toNat ∧
    (((framing [2, 5, 3, 0]).links.get .cl0).framer = .frame (2 :: [5, 3] ++ [0]) 0 ∧
      [(5 : Byte), 3].length = (2 : Byte).toNat ∧ (0 : Byte) ≠ crcHigh (crc16 (2 :: [5, 3]))) ∧
    50 ≤ elapsed 0 ({ framing [2] with deckTime := 50 } : State).deckTime ∧
    elapsed 0 ({ framing [2] with deckTime := 49 } : State).deckTime < 50 := by
  decide +kernel

theorem test_witness_FramedRequestIsItsRow :
    requestOf (.listQueue .cl0 5) = some (.cl0, 5, 3) ∧ (Instr.listQueue .cl0 5).wellFormed = true ∧
    (requestBody (.listQueue .cl0 5)).length ≤ 248 ∧ (framing (frameBuffer 5 3 [])).phase = .running ∧
    ((framing (frameBuffer 5 3 [])).links.get .cl0).framer = .frame (frameBuffer 5 3 (requestBody (.listQueue .cl0 5))) 0 := by
  decide +kernel

theorem test_witness_LinkTransmissionCompletes :
    hub.phase = .running ∧ hub.resetPending = none ∧
    ((sending (.answer ⟨5, 3, .done, []⟩)).links.get .cl0).flight = some ⟨.answer ⟨5, 3, .done, []⟩, 0⟩ ∧
    ((sending (.answer ⟨5, 3, .busy, []⟩)).links.get .cl0).flight = some ⟨.answer ⟨5, 3, .busy, []⟩, 0⟩ ∧
    ((sending (.notice ⟨false, .started .powerOn⟩)).links.get .cl0).flight =
      some ⟨.notice ⟨false, .started .powerOn⟩, 0⟩ ∧ (hub.links.get .cl0).flight = none := by
  decide +kernel

/-- The hub with queued answers and notices on link 0. -/
def queued (as : List Answer) (qs : List QueuedNotice) : State :=
  hub.modLink .cl0 fun c => { c with answers := as, notices := qs }

theorem test_witness_LinkArbiter :
    ((sending (.answer ⟨5, 3, .done, []⟩)).links.get .cl0).flight.isSome = true ∧
    ((queued [⟨5, 3, .done, []⟩] []).links.get .cl0).answers = [⟨5, 3, .done, []⟩] ∧
    ((queued [⟨5, 3, .done, []⟩] []).links.get .cl0).flight = none ∧
    ((queued [] [⟨false, .started .powerOn⟩]).links.get .cl0).notices = [⟨false, .started .powerOn⟩] ∧
    ((queued [] [⟨false, .started .powerOn⟩]).links.get .cl0).answers = [] := by
  decide +kernel

theorem test_witness_NoticesAndMasks :
    (Notice.recallIgnored .empty 0 none).kind ≠ .started ∧
    (Notice.recallIgnored .empty 0 none).kind ∉ ((hub.modLink .cl0 fun c => { c with mask := [] }).links.get .cl0).mask ∧
    (Notice.recallIgnored .empty 0 none).kind ∈ (hub.links.get .cl0).mask ∧ (hub.links.get .cl0).notices.length < 32 ∧
    32 ≤ ((queued [] (List.replicate 32 ⟨false, .started .powerOn⟩)).links.get .cl0).notices.length ∧
    (0x3FFF : Word16).toNat < 0x4000 := by
  decide +kernel

theorem test_witness_Reads :
    Takes .cl0 hub ∧ (racing loaded).heat = some loaded ∧ (3 : Byte).toNat = (3 : LaneNo).val ∧
    (70 : Byte).toNat = (70 : Fin 71).val ∧ (73 : Byte).toNat = 71 + Link.cl2.code ∧ (0 : Byte).toNat < 1 ∧
    64 < (65 : Byte).toNat ∧ (1 ≤ (64 : Byte).toNat ∧ (64 : Byte).toNat ≤ 64 ∧ hub.heat = none) ∧
    (38 : Byte).toNat = ParamId.defaultSplitInterval.code ∧ 39 ≤ (39 : Byte).toNat ∧ (39 : Byte) ≠ 0xFF :=
  ⟨takes_hub, rfl, rfl, rfl, rfl, by decide, by decide, by decide +kernel, by decide +kernel, by decide, by decide⟩

theorem test_witness_SetParameterWrites :
    Takes .cl0 hub ∧ decodeParamValue .defaultSplitInterval 9 = some 9 ∧ ParamId.defaultSplitInterval.admits 9 = false ∧
    decodeParamValue .defaultSplitInterval 8 = some 8 ∧ ParamId.defaultSplitInterval.admits 8 = true ∧
    ParamId.defaultSplitInterval.quiet = true ∧ decodeParamValue .stuckTime 50000 = some (hub.params.value .stuckTime) ∧
    ParamId.stuckTime.admits 50000 = true ∧ decodeParamValue .padOffsetA 0xFFFFFFFF = some (-1) :=
  ⟨takes_hub, by decide +kernel⟩

/-- The hub with a button's stuck timer as given, its line ACTIVE since deck time 0. -/
def pressing (t : StuckTimer) (now : DeckTime) : State :=
  { hub.modDecoder (.button 3 .one) (fun d => { d with sensed := .active, counted := .active, stuck := t }) with
    deckTime := now }

/-- A record that times its retry from deck time 0. -/
def retrying : FaultRecord := ⟨.retryTiming, .none, some .stuck, true, some .padStuck, some 0⟩

/-- A record of pad 3 at END A held for a condition of its line. -/
def heldOut : FaultRecord := ⟨.retryWait, .short, some .short, true, some .padLine, none⟩

/-- A record that times its retry after a line fault while its pad is held past StuckTime. -/
def retryingHeld : FaultRecord := ⟨.retryTiming, .stuck, some .stuck, true, some .padLine, some 0⟩

/-- A retry expiry that leaves a STUCK condition standing judges it by PadStuckMode in its one event (R150, R159; log 27). -/
theorem test_retry_expiry_judges_other_class :
    let t := after hub (exec (.retryExpiry 3) { faulted retryingHeld with deckTime := 50000 })
    t.faults.get 3 = ⟨.retryWait, .stuck, some .stuck, true, some .padStuck, none⟩ ∧ t.inService 3 = false ∧
    (t.links.get .cl0).notices.length + (if (t.links.get .cl0).flight.isSome then 1 else 0) = 1 := by
  decide +kernel

/-- A mode write after which a latched record times its retry while a condition of another class stands (R159). -/
theorem test_latched_holding_other_class_times_its_retry :
    ((faulted ⟨.latched, .stuck, some .stuck, true, some .padLine, none⟩).faults.get 3).changesMode
      (hub.params.write .padLineMode 3) 3 .padLine 7 =
        ⟨.retryTiming, .stuck, some .stuck, true, some .padLine, some 7⟩ := by
  decide +kernel

/-- New values with owners: a class mode, a retry time that a running timer has reached, StuckTime, a deglitch time. -/
theorem test_witness_SetParameterWrites_owners :
    (decodeParamValue .padLineMode 1 = some 1 ∧ ParamId.padLineMode.admits 1 = true ∧
      (1 : Int) ≠ (faulted heldOut).params.value .padLineMode ∧ ParamId.padLineMode.faultClass = some .padLine ∧
      modeWrittenRecord ((faulted heldOut).params.write .padLineMode 1) .padLine 3 0 heldOut =
        { heldOut with state := .reporting }) ∧
    (decodeParamValue .fastRetry 10000 = some 10000 ∧ ParamId.fastRetry.admits 10000 = true ∧
      (10000 : Int) ≠ hub.params.value .fastRetry ∧ retrying.serviceClass.map hub.params.mode = some .retryFast ∧
      retryRunOut (hub.params.write .fastRetry 10000) 10000 retrying = true ∧
      retryRunOut (hub.params.write .fastRetry 10000) 9999 retrying = false) ∧
    (decodeParamValue .stuckTime 10000 = some 10000 ∧ ParamId.stuckTime.admits 10000 = true ∧
      (10000 : Int) ≠ hub.params.value .stuckTime ∧ ((pressing .running 10000).decoder (.button 3 .one)).stuck = .running ∧
      (10000 : Int) ≤ elapsed 0 10000) ∧
    (decodeParamValue .touchDeglitch 5 = some 5 ∧ ParamId.touchDeglitch.admits 5 = true ∧
      (5 : Int) ≠ hub.params.value .touchDeglitch ∧ deglitchParam (.pad .a 3) .idle .active = .touchDeglitch ∧
      ((lined (.pad .a 3) .idle .active 100 105 hub).decoder (.pad .a 3)).candidate = some ⟨.active, 100⟩ ∧
      (5 : Int) ≤ elapsed 100 105) := by
  decide +kernel

/-- A new deglitch time counts the SHORT of a line whose STUCK condition is reported: END, then BEGIN (R138, R143; log 13). -/
theorem test_witness_SetParameterWrites_notices :
    let s := (lined (.pad .a 3) .active .short 100 400 (faulted ⟨.latched, .stuck, some .stuck, true, some .padStuck, none⟩)).modDecoder
      (.pad .a 3) fun d => { d with stuck := .expired }
    decodeParamValue .lineDeglitch 300 = some 300 ∧ ParamId.lineDeglitch.admits 300 = true ∧
    (300 : Int) ≠ s.params.value .lineDeglitch ∧ countsAtWrite .lineDeglitch 300 s (.pad .a 3) = some .short ∧
    countsAtWrite .lineDeglitch 301 s (.pad .a 3) = none ∧
    changeRaised s.params 3 400 true .none .short (s.faults.get 3)
        ⟨.latched, .short, some .short, true, some .padStuck, none⟩ =
      [faultNotice 3 .padStuck .ends 400 ⟨.latched, .none, some .stuck, true, some .padStuck, none⟩,
        faultNotice 3 .padLine .begins 400 ⟨.latched, .short, some .short, true, some .padStuck, none⟩] := by
  decide +kernel

theorem test_witness_WritesTheRaceFollows :
    Takes .cl0 (racing (started .final)) ∧ (racing (started .final)).params.autoAdvance = false ∧
    (started .final).phase = .final ∧ (started .final).advance = none ∧ (started .running).phase ≠ .final ∧
    ({ hub with params := { Params.default with autoAdvance := true } } : State).params.autoAdvance = true ∧
    (started .running).overtimeTimer = true ∧ 600000 ≤ (600000 : Word32).toNat ∧
    (600000 : Word32).toNat ≤ (started .running).raceTime 600000 ∧ (600000 : Word32).toNat ≠ Params.default.raceTimeLimit ∧
    (started .running).raceTime 599999 < (600000 : Word32).toNat :=
  ⟨takes_racing _, by decide +kernel⟩

theorem test_witness_LegOrderCheck :
    badLegAt course.segments = none ∧ course.segments.getLast? = some ⟨2, 2, 0⟩ ∧ (1 ≤ 1 ∧ 2 ≤ 2) ∧
    (∀ g ∈ course.segments, 1 ≤ g.lengths) ∧ 2 ≤ course.legs ∧ badLegAt [⟨1, 2, 0⟩] = some 1 ∧
    badLegAt [⟨1, 1, 0⟩, ⟨1, 3, 0⟩] = some 2 := by
  decide +kernel

/-- The hub with definitions queued. -/
def queueing (ids : List HeatId) : State := { hub with queue := ids.map fun i => ⟨{ course with id := i }, .cl1⟩ }

theorem test_witness_StageHeatDecides :
    Takes .cl0 hub ∧
    (decodeHeatCodes shortBody).any (fun c =>
      decide ((fillDefinition hub.params shortBody c).invalid = none) &&
      decide ((fillDefinition hub.params shortBody c).id ∉ hub.heatIds) &&
      decide ((fillDefinition hub.params shortBody c).id ∈ (queueing [⟨1, 1⟩]).heatIds) &&
      decide ((fillDefinition hub.params shortBody c).id ∉ (queueing [⟨2, 1⟩, ⟨2, 2⟩, ⟨2, 3⟩, ⟨2, 4⟩]).heatIds)) = true ∧
    (decodeHeatCodes { shortBody with lengths := 2 }).any (fun c =>
      (fillDefinition hub.params { shortBody with lengths := 2 } c).invalid.isSome) = true ∧
    4 ≤ (queueing [⟨2, 1⟩, ⟨2, 2⟩, ⟨2, 3⟩, ⟨2, 4⟩]).queue.length ∧ hub.queue.length < 4 ∧
    hub.params.autoAdvance = false ∧ hub.heat = none :=
  ⟨takes_hub, by decide +kernel⟩

/-- The same with AutoAdvance on and the race EMPTY. -/
theorem test_witness_StageHeatDecides_loading :
    Takes .cl0 { hub with params := { Params.default with autoAdvance := true } } ∧
    ({ hub with params := { Params.default with autoAdvance := true } } : State).params.autoAdvance = true ∧
    ({ hub with params := { Params.default with autoAdvance := true } } : State).heat = none :=
  ⟨⟨rfl, rfl, by decide⟩, rfl, rfl⟩

theorem test_witness_WithdrawHeat :
    Takes .cl0 (queueing [⟨2, 1⟩, ⟨2, 2⟩]) ∧
    (∃ before q after, (queueing [⟨2, 1⟩, ⟨2, 2⟩]).queue = before ++ q :: after ∧ q.definition.id = ⟨2, 2⟩ ∧
      ∀ r ∈ before ++ after, r.definition.id ≠ ⟨2, 2⟩) ∧
    (∀ q ∈ (racing loaded).queue, q.definition.id ≠ ⟨1, 1⟩) ∧ loaded.definition.id = ⟨1, 1⟩ ∧
    loaded.definition.id ≠ ⟨1, 2⟩ :=
  ⟨⟨rfl, rfl, by decide⟩,
    ⟨[⟨{ course with id := ⟨2, 1⟩ }, .cl1⟩], ⟨{ course with id := ⟨2, 2⟩ }, .cl1⟩, [], rfl, rfl, by decide +kernel⟩,
    by decide +kernel, by decide +kernel, by decide +kernel⟩

/-- A race whose advance timer of ten units was started at deck time 0. -/
def advancing : Heat := { started .final with advance := some ⟨0, 10⟩ }

theorem test_witness_AdvanceAndItsTimer :
    Takes .cl0 hub ∧ hub.raceState = .empty ∧ hub.queue = [] ∧ (queueing [⟨2, 1⟩]).queue ≠ [] ∧
    (racing (started .final)).raceState = .final ∧ (started .review).phase = .review ∧
    (racing loaded).raceState = .loaded ∧ advancing.advance = some ⟨0, 10⟩ ∧ 10 ≤ elapsed 0 10 ∧ elapsed 0 9 < 10 :=
  ⟨takes_hub, by decide +kernel⟩

theorem test_witness_AbandonEmptiesTheRace :
    Takes .cl0 (racing loaded) ∧ hub.heat = none ∧ (racing loaded).heat = some loaded ∧
    (racing loaded).board.events.length < 4 ∧
    4 ≤ ({ hub.board with events := List.replicate 4 ⟨.final, ⟨1, 1⟩, 0⟩ } : Board).events.length :=
  ⟨takes_racing _, rfl, rfl, by decide +kernel, by decide +kernel⟩

/-- The race with the START line's record LATCHED. -/
def startOut (h : Heat) : State :=
  { racing h with faults := updAt hub.faults 70 fun r => { r with state := .latched, present := .opened } }

theorem test_witness_StartRequestAndStartLine :
    Takes .cl0 (startOut loaded) ∧ (racing loaded).inService 70 = true ∧ (startOut loaded).inService 70 = false ∧
    (startOut (started .running)).raceState = .running ∧ loaded.phase = .loaded ∧
    Completes .start .idle .active 100 (lined .start .idle .active 100 110 (racing loaded)) ∧
    Completes .start .idle .active 100 (lined .start .idle .active 100 110 (racing (started .final))) :=
  ⟨⟨rfl, rfl, by decide⟩, by decide +kernel, by decide +kernel, rfl, rfl, completes_of (by decide +kernel),
    completes_of (by decide +kernel)⟩

theorem test_witness_MarksAndTheirCancellation :
    Completes .marks .idle .active 100 (lined .marks .idle .active 100 110 (racing loaded)) ∧ loaded.phase = .loaded ∧
    Completes .marks .idle .active 100 (lined .marks .idle .active 100 110 (racing (started .running))) ∧
    Completes .marks .active .idle 100 (lined .marks .active .idle 100 110 (racing { loaded with phase := .marks })) ∧
    Completes .marks .active .idle 100 (lined .marks .active .idle 100 110 (racing loaded)) ∧
    Completes .marks .idle .active 100 (lined .marks .idle .active 100 110 hub) ∧
    Completes .marks .active .idle 100 (lined .marks .active .idle 100 110 hub) ∧ hub.raceState = .empty :=
  ⟨completes_of (by decide +kernel), rfl, completes_of (by decide +kernel), completes_of (by decide +kernel),
    completes_of (by decide +kernel), completes_of (by decide +kernel), completes_of (by decide +kernel), rfl⟩

/-- A RECALL press of a race in a phase. -/
def recalled (h : Heat) (since now : DeckTime) : State := lined .recall .idle .active since now (racing h)

theorem test_witness_RecallJudged :
    Completes .recall .idle .active 299999 (recalled (started .running) 299999 300009) ∧
    ((299999 : DeckTime) - (started .running).startTime.getD 0).toNat < hub.params.recallWindow ∧
    (∀ n : LaneNo, ((started .running).lanes.get n).state ≠ .collect ∧ ((started .running).lanes.get n).state ≠ .finished ∧
      ((started .running).lanes.get n).state ≠ .released) ∧
    Completes .recall .idle .active 300000 (recalled (started .running) 300000 300010) ∧
    hub.params.recallWindow ≤ ((300000 : DeckTime) - (started .running).startTime.getD 0).toNat ∧
    Completes .recall .idle .active 10 (recalled loaded 10 20) ∧
    Completes .recall .idle .active 10 (recalled { loaded with phase := .marks } 10 20) ∧
    Completes .recall .idle .active 10 (lined .recall .idle .active 10 20 hub) ∧ hub.heat = none :=
  ⟨completes_of (by decide +kernel), by decide +kernel, by decide +kernel, completes_of (by decide +kernel),
    by decide +kernel, completes_of (by decide +kernel), completes_of (by decide +kernel),
    completes_of (by decide +kernel), rfl⟩

/-- The running race with lane 3 SWIMMING and lane 4 no longer in it. -/
def lastSwimmer : Heat := (withLane (started .running) (swimmer 4 .a)).modLane 4 fun _ => emptyLane

theorem test_witness_OvertimeFinishesTheSwimmers :
    lastSwimmer.phase = .running ∧ lastSwimmer.overtimeTimer = true ∧ hub.params.raceTimeLimit ≤ lastSwimmer.raceTime 36000000 ∧
    (lastSwimmer.lanes.get 3).state = .swimming ∧
    (∀ n : LaneNo, (lastSwimmer.lanes.get n).state ≠ .collect ∧ (lastSwimmer.lanes.get n).state ≠ .ready) ∧
    ((withLane lastSwimmer (collecting (some 300000) none none none)).lanes.get 3).state = .collect ∧
    lastSwimmer.raceTime 35999999 < hub.params.raceTimeLimit ∧ hub.heat = none := by
  decide +kernel

theorem test_witness_ScratchLane :
    Takes .cl0 (racing loaded) ∧ (3 : Byte).toNat = (3 : LaneNo).val ∧ (loaded.lanes.get 3).state = .ready ∧
    (4 ≠ (3 : LaneNo) ∧ (loaded.lanes.get 4).state = .ready) ∧
    ∀ m : LaneNo, ((loaded.modLane 4 fun _ => emptyLane).lanes.get m).state = .ready → m = 3 :=
  ⟨takes_racing _, rfl, by decide +kernel, by decide +kernel, by decide +kernel⟩

theorem test_witness_AssignEntrant_refused :
    Takes .cl0 (racing loaded) ∧ (loaded.lanes.get 0).state = .vacant ∧ 4 < (List.replicate 5 (TagItem.mk 1 9)).length ∧
    ((0 : Byte).toNat < 1 ∧ course.legs < (3 : Byte).toNat) ∧
    ¬ ([⟨1, 9⟩, ⟨1, 9⟩].map TagItem.leg).Nodup ∧
    (1 ≤ 2 ∧ 2 ≤ course.legs ∧ ∀ j ∈ [TagItem.mk 1 9], j.leg.toNat ≠ 2) ∧
    (∀ g : Fin 2, ∃ j ∈ [TagItem.mk 1 9, ⟨2, 9⟩], j.leg.toNat = g.val + 1) ∧ (started .running).phase ≠ .loaded ∧
    ((swimmer 2 .a).state = .swimming ∧ (swimmer 2 .a).leg = some 1 ∧ (1 : Byte).toNat ≤ 1) :=
  ⟨takes_racing _, by decide +kernel⟩

theorem test_witness_AssignEntrant_done :
    Takes .cl0 (racing loaded) ∧ ([⟨1, 9⟩, ⟨2, 9⟩].map TagItem.leg).Nodup ∧
    (loaded.phase = .loaded ∧ ∀ g, 1 ≤ g → g ≤ loaded.definition.legs → ∃ j ∈ [TagItem.mk 1 9, ⟨2, 9⟩], j.leg.toNat = g) ∧
    ((loaded.lanes.get 3).state = .ready ∧ (loaded.lanes.get 3).tags.length = loaded.definition.legs) ∧
    ((swimmer 2 .a).tags.length = loaded.definition.legs ∧ (swimmer 2 .a).leg = some 1 ∧
      ∀ j ∈ [TagItem.mk 2 9], 1 < j.leg.toNat) := by
  refine ⟨takes_racing _, by decide +kernel, ⟨rfl, ?_⟩, by decide +kernel, by decide +kernel⟩
  intro g h k
  have hk : g ≤ 2 := k
  obtain rfl | rfl : g = 1 ∨ g = 2 := by omega
  · decide +kernel
  · decide +kernel

theorem test_witness_SetLaneTiming :
    Takes .cl0 (racing loaded) ∧ (loaded.lanes.get 3).state = .ready ∧
    ((withLane (started .running) (swimmer 1 .b)).lanes.get 3).state = .swimming ∧ some Mode.auto ≠ none ∧
    ((0 : Byte).toNat < 1 ∧ 31 < (32 : Byte).toNat) ∧ (1 ≤ (1 : Byte).toNat ∧ (31 : Byte).toNat ≤ 31) :=
  ⟨takes_racing _, by decide +kernel⟩

/-- A swimmer for length k at END A with one rejected entry, number 5. -/
def rejecting (k : Nat) (t : Nat) (e : End) : Lane := { swimmer k .a with rejected := [⟨5, t, e, .early, k⟩], rejections := 5 }

theorem test_witness_PromoteTouch :
    Takes .cl0 (racing (withLane (started .running) (rejecting 2 80001 .a))) ∧
    ((withLane (started .running) (rejecting 2 80001 .a)).lanes.get 3).state = .swimming ∧
    (rejecting 2 80001 .a).expectation = some ⟨2, .a, 80000, 150000⟩ ∧
    (∀ r ∈ (rejecting 2 80001 .a).rejected, r.number ≠ (6 : Word16).toNat) ∧
    ((rejecting 2 80001 .a).rejected = [] ++ ⟨5, 80001, .a, .early, 2⟩ :: [] ∧ (5 : Word16) ≠ 0 ∧ 80000 < 80001) ∧
    (rejecting 2 80000 .a).rejected = [⟨5, 80000, .a, .early, 2⟩] ∧ End.b ≠ .a ∧ 2 < course.lengths ∧
    (rejecting 4 80001 .a).expectation = some ⟨course.lengths, .a, 80000, 150000⟩ :=
  ⟨takes_racing _, by decide +kernel⟩

theorem test_witness_DeclareAndEnterFinish :
    Takes .cl0 (racing lastSwimmer) ∧ (lastSwimmer.lanes.get 3).state = .swimming ∧
    (swimmer 3 .b).expectation.map Expectation.length ≠ some course.lengths ∧
    (lastSwimmer.lanes.get 3).expectation.map Expectation.length = some course.lengths ∧
    (0 : Word32).toNat ≤ lastTimedTime (lastSwimmer.lanes.get 3).splits ∧ lastSwimmer.raceTime 9 < (10 : Word32).toNat ∧
    (lastTimedTime (lastSwimmer.lanes.get 3).splits < (10 : Word32).toNat ∧ (10 : Word32).toNat ≤ lastSwimmer.raceTime 10) :=
  ⟨takes_racing _, by decide +kernel⟩

/-- A race with lane 3 FINISHED. -/
def closed (p : RacePhase) (c : ResultCore) : Heat := { withLane (started p) (ended c) with stopTime := some 300000 }

theorem test_witness_AdjustFinish :
    Takes .cl0 (racing (closed .running .noFinish)) ∧ ((closed .running .noFinish).lanes.get 3).state = .finished ∧
    ((closed .running .noFinish).lanes.get 3).result = some .noFinish ∧ (closed .running .noFinish).startTime ≠ none ∧
    ((closed .review (.time 299999 .pad none none)).lanes.get 3).result = some (.time 299999 .pad none none) ∧
    (closed .review (.time 299999 .pad none none)).stopTime = some 300000 ∧ 300000 < (300001 : Word32).toNat ∧
    (0 : Word32).toNat ≤ lastTimedTime ((ended .noFinish).splits.filter fun e => e.length != course.lengths) ∧
    (lastTimedTime ((ended .noFinish).splits.filter fun e => e.length != course.lengths) < (300000 : Word32).toNat ∧
      (300000 : Word32).toNat ≤ 300000) :=
  ⟨takes_racing _, by decide +kernel⟩

theorem test_witness_CollecttimeExpiryResolves :
    ((withLane (started .running) (collecting (some 300000) none none none)).lanes.get 3).state = .collect ∧
    300000 + course.collectTime ≤ (started .running).raceTime 330000 ∧
    (started .running).raceTime 329999 < 300000 + course.collectTime ∧
    backupIs [] none ∧ backupIs [5] (some 5) ∧ backupIs [5, 8] (some 6) ∧ backupIs [9, 5, 7] (some 7) := by
  refine ⟨by decide +kernel, by decide +kernel, by decide +kernel, ?_, ?_, ?_, ?_⟩ <;>
    refine ⟨by simp, by simp, by simp, ?_⟩
  · exact fun h => absurd h (by decide)
  · exact fun h => absurd h (by decide)
  · exact fun h => absurd h (by decide)
  · exact fun _ => ⟨7, rfl, 5, 9, by decide, by decide, by decide⟩

/-- A touch of lane 3's pad. -/
def touched (e : End) (since : DeckTime) (l : Lane) : State :=
  lined (.pad e 3) .idle .active since (since + 20) (racing (withLane (started .running) l))

theorem test_witness_TouchesTurnedAway :
    Completes (.pad .a 3) .idle .active 300000 (touched .a 300000 (ended .noFinish)) ∧
    (ended .noFinish).state ≠ .swimming ∧
    Completes (.pad .b 3) .idle .active 300000 (touched .b 300000 (collecting none (some 1) none none)) ∧
    End.b ≠ course.finishEnd ∧ (0 : Nat) ≤ lastTimedTime (collecting none none none none).splits ∧
    Completes (.pad .b 3) .idle .active 94999 (touched .b 94999 (swimmer 2 .a)) ∧ 94999 < 80000 + course.turnLockout ∧
    Completes (.pad .a 3) .idle .active 149999 (touched .a 149999 (swimmer 2 .a)) ∧ 149999 < 150000 ∧
    Completes (.pad .b 3) .idle .active 95000 (touched .b 95000 (swimmer 2 .a)) ∧ 80000 + course.turnLockout ≤ 95000 ∧
    95000 < skipBound course (swimmer 2 .a) ⟨2, .a, 80000, 150000⟩ ∧
    ((0 : DeckTime) + BitVec.ofInt 32 (hub.params.padOffset .a) - 1).toNat ≥ 2147483648 :=
  ⟨completes_of (by decide +kernel), by decide +kernel, completes_of (by decide +kernel), by decide +kernel,
    by decide +kernel, completes_of (by decide +kernel), by decide +kernel, completes_of (by decide +kernel), by decide,
    completes_of (by decide +kernel), by decide +kernel, by decide +kernel, by decide +kernel⟩

/-- Touches and presses without a start deck time: in EMPTY, LOADED and MARKS. -/
theorem test_witness_ContactsBeforeAStart :
    Completes (.pad .a 3) .idle .active 100 (lined (.pad .a 3) .idle .active 100 120 hub) ∧ hub.heat = none ∧
    Completes (.pad .a 3) .idle .active 100 (lined (.pad .a 3) .idle .active 100 120 (racing loaded)) ∧
    (loaded.lanes.get 3).state = .ready ∧
    Completes (.button 3 .two) .idle .active 100
      (lined (.button 3 .two) .idle .active 100 150 (racing { loaded with phase := .marks })) :=
  ⟨completes_of (by decide +kernel), rfl, completes_of (by decide +kernel), by decide +kernel,
    completes_of (by decide +kernel)⟩

theorem test_witness_TouchesAccepted :
    Completes (.pad .a 3) .idle .active 150000 (touched .a 150000 (swimmer 2 .a)) ∧ 2 < course.lengths ∧
    Completes (.pad .b 3) .idle .active 290000 (touched .b 290000 (swimmer 2 .a)) ∧
    skipBound course (swimmer 2 .a) ⟨2, .a, 80000, 150000⟩ = 290000 ∧ 2 + 1 < course.lengths ∧
    ((150000 : DeckTime) + BitVec.ofInt 32 (hub.params.padOffset .a) - 0).toNat = 150000 :=
  ⟨completes_of (by decide +kernel), by decide +kernel, completes_of (by decide +kernel), by decide +kernel,
    by decide +kernel, by decide +kernel⟩

/-- A press of a button of lane 3. -/
def pressed (slot : Slot) (since : DeckTime) (l : Lane) : State :=
  lined (.button 3 slot) .idle .active since (since + 50) (racing (withLane (started .running) l))

theorem test_witness_CollectOpensAndFills :
    Completes (.pad .a 3) .idle .active 150000 (touched .a 150000 (swimmer 4 .a)) ∧
    (Completes (.pad .a 3) .idle .active 360000 (touched .a 360000 (swimmer 3 .b)) ∧
      skipBound course (swimmer 3 .b) ⟨3, .b, 80000, 150000⟩ = 360000 ∧ 3 + 1 = course.lengths) ∧
    (Completes (.pad .a 3) .idle .active 1 (touched .a 1 (collecting none (some 1) none none)) ∧
      lastTimedTime (collecting none (some 1) none none).splits < 1) ∧
    Completes (.button 3 .one) .idle .active 150000 (pressed .one 150000 (swimmer 4 .a)) ∧
    Completes (.button 3 .one) .idle .active 149999 (pressed .one 149999 (swimmer 4 .a)) ∧
    Completes (.button 3 .two) .idle .active 1 (pressed .two 1 (collecting none (some 1) none none)) ∧
    Completes (.button 3 .one) .idle .active 0 (pressed .one 0 (collecting none (some 1) none none)) ∧
    Completes (.button 3 .three) .idle .active 9 (pressed .three 9 (ended .noFinish)) :=
  ⟨completes_of (by decide +kernel), ⟨completes_of (by decide +kernel), by decide +kernel, by decide +kernel⟩,
    ⟨completes_of (by decide +kernel), by decide +kernel⟩, completes_of (by decide +kernel),
    completes_of (by decide +kernel), completes_of (by decide +kernel), completes_of (by decide +kernel),
    completes_of (by decide +kernel)⟩

/-- A release of lane 3's platform at END A. -/
def released (since : DeckTime) (h : Heat) : State :=
  lined (.platform .a 3) .active .idle since (since + 100) (racing h)

/-- A swimmer with a reaction record armed from 50, or with an exchange record for leg 2 armed from 100000. -/
def reacting : Lane := { swimmer 1 .b with reaction := some ⟨50, none, none, false, false, true⟩ }

def exchanging (touch : Option Nat) : Lane :=
  { swimmer 2 .a with exchanges := [⟨2, .a, some 100000, touch, none, none, .pending⟩] }

theorem test_witness_PlatformReleases :
    Completes (.platform .a 3) .active .idle 49 (released 49 (withLane (started .running) reacting)) ∧
    2147483648 ≤ ((49 : DeckTime) - 50).toNat ∧ ((50 : DeckTime) - 50).toNat < 2147483648 ∧
    Completes (.platform .a 3) .active .idle 50
      (released 50 (withLane { loaded with phase := .marks } { reacting with state := .ready, expectation := none })) ∧
    Completes (.platform .a 3) .active .idle 50 (released 50 (withLane (started .running) reacting)) ∧
    (started .running).raceTime 50 < 2147483648 ∧
    Completes (.platform .a 3) .active .idle 99999 (released 99999 (withLane (started .running) (exchanging none))) ∧
    2147483648 ≤ ((99999 : DeckTime) - (0 + BitVec.ofNat 32 100000)).toNat ∧
    Completes (.platform .a 3) .active .idle 100000 (released 100000 (withLane (started .running) (exchanging none))) ∧
    (exchanging none).exchanges = [] ++ ⟨2, .a, some 100000, none, none, none, .pending⟩ :: [] ∧
    Completes (.platform .a 3) .active .idle 119700
      (released 119700 (withLane (started .running) (exchanging (some 120000)))) ∧
    ((started .running).raceTime 119700 : Int) - 120000 = -(course.exchangeAllowance : Int) ∧
    ((started .running).raceTime 119699 : Int) - 120000 < -(course.exchangeAllowance : Int) ∧
    Completes (.platform .a 3) .active .idle 50 (released 50 (withLane (started .running) (swimmer 1 .b))) :=
  ⟨completes_of (by decide +kernel), by decide +kernel, by decide +kernel, completes_of (by decide +kernel),
    completes_of (by decide +kernel), by decide +kernel, completes_of (by decide +kernel), by decide +kernel,
    completes_of (by decide +kernel), rfl, completes_of (by decide +kernel), by decide +kernel, by decide +kernel,
    completes_of (by decide +kernel)⟩

/-- A hold set with link 0 and one reason. -/
def held : Desk := ⟨⟨true, false, false, ReasonSet.empty.put .padMissed true⟩, some 9, none⟩

theorem test_witness_LinkHolds :
    Takes .cl0 (racing (withDesk loaded held)) ∧ (loaded.lanes.get 3).state ≠ .vacant ∧
    (loaded.lanes.get 3).state ≠ .released ∧ ((withDesk loaded held).desks.get 3).hold.holds .cl0 = true ∧
    (loaded.desks.get 3).hold.holds .cl0 = false :=
  ⟨takes_racing _, by decide +kernel⟩

theorem test_witness_ClearAndRelease :
    Takes .cl0 (racing (withDesk loaded held)) ∧ (1 ≤ (1 : Byte).toNat ∧ (63 : Byte).toNat ≤ 63) ∧
    (ReasonSet.empty.has .padMissed = false ∧ ReasonSet.empty.has .falseStart = false) ∧
    (((withDesk loaded held).desks.get 3).hold.reasons.has .padMissed = true ∧
      (16 : Byte).getLsbD Reason.padMissed.code = true) ∧
    ((closed .review .noFinish).lanes.get 3).state = .finished ∧ (closed .review .noFinish).definition.releaseMode = .auto ∧
    held.hold.isEmpty = false ∧ ((closed .review .noFinish).desks.get 3).hold.isEmpty = true ∧
    ({ closed .review .noFinish with definition := { course with releaseMode := .manual } } : Heat).definition.releaseMode =
      .manual :=
  ⟨takes_racing _, by decide +kernel⟩

theorem test_witness_DisqualifyAndReinstate :
    Takes .cl0 (racing (withDesk lastSwimmer held)) ∧ ((withDesk lastSwimmer held).lanes.get 3).state = .swimming ∧
    ((closed .review .noFinish).lanes.get 3).state = .finished ∧ ((withDesk lastSwimmer held).desks.get 3).dq = some 9 ∧
    (lastSwimmer.desks.get 3).dq = none :=
  ⟨takes_racing _, by decide +kernel⟩

theorem test_witness_SensedLevels :
    (Line.fourLevel .recall = false ∧ Level.short.isFault = true) ∧ Level.idle.isFault = false ∧
    Line.fourLevel .start = true ∧ (hub.decoder .start).sensed = .idle ∧ hub.phase = .running ∧
    State.reset.phase ≠ .running := by
  decide +kernel

theorem test_witness_CandidateCounts :
    Completes (.pad .a 3) .idle .active 100 (lined (.pad .a 3) .idle .active 100 120 hub) ∧
    elapsed 100 119 < hub.params.deglitch (.pad .a 3) .idle .active ∧ (hub.decoder (.pad .a 3)).candidate = none ∧
    (startOut loaded).inService 70 = false :=
  ⟨completes_of (by decide +kernel), by decide +kernel⟩

theorem test_witness_LineConditions :
    Completes (.pad .a 3) .idle .short 100 (lined (.pad .a 3) .idle .short 100 600 hub) ∧
    Completes (.pad .a 3) .short .opened 100 (lined (.pad .a 3) .short .opened 100 600 hub) ∧
    Completes (.pad .a 3) .opened .idle 100 (lined (.pad .a 3) .opened .idle 100 600 hub) ∧
    Completes (.pad .a 3) .idle .active 100 (lined (.pad .a 3) .idle .active 100 600 hub) ∧
    Line.fourLevel (.pad .a 3) = true ∧ Line.input (.pad .a 3) = some 3 ∧ (hub.faults.get 3).state = .clear :=
  ⟨completes_of (by decide +kernel), completes_of (by decide +kernel), completes_of (by decide +kernel),
    completes_of (by decide +kernel), by decide +kernel⟩

/-- Lines that begin a condition and take their input out of service: the expected pad of a swimmer, with the other pad in
service, and a platform with a reaction record or an exchange record armed. -/
theorem test_witness_ServiceHanded :
    (touched .a 100000 (swimmer 2 .a)).inService 3 = true ∧
    (after hub (exec (.candidateCompletes (.pad .a 3))
      (lined (.pad .a 3) .idle .short 100000 100500 (racing (withLane (started .running) (swimmer 2 .a)))))).inService 3 = false ∧
    ((swimmer 2 .a).expectation = some ⟨2, .a, 80000, 150000⟩ ∧ 2 < course.lengths ∧
      (racing (withLane (started .running) (swimmer 2 .a))).inService (padInput 3 (course.endOf 3)) = true) ∧
    (after hub (exec (.candidateCompletes (.platform .a 3))
      (lined (.platform .a 3) .idle .short 100000 100500 (racing (withLane (started .running) reacting))))).inService 23 = false ∧
    (reacting.state = .swimming ∧ End.a = course.startEnd ∧ reacting.reaction = some ⟨50, none, none, false, false, true⟩) ∧
    ((exchanging none).exchanges = [] ++ ⟨2, .a, some 100000, none, none, none, .pending⟩ :: [] ∧
      (exchanging none).reaction.isNone = true) := by
  decide +kernel

theorem test_witness_StuckAndRetryTimers :
    ((pressing .running 50000).decoder (.button 3 .one)).stuck = .running ∧ hub.params.stuckTime ≤ elapsed 0 50000 ∧
    elapsed 0 49999 < hub.params.stuckTime ∧ Line.hasStuckTimer (.button 3 .one) = true ∧
    Line.input (.button 3 .one) = some 49 ∧ ((pressing .expired 0).decoder (.button 3 .one)).counted = .active ∧
    ((faulted retrying).faults.get 3).state = .retryTiming ∧
    hub.params.retryTime (hub.params.mode .padStuck) = some 5000 ∧ 5000 ≤ elapsed 0 5000 ∧ elapsed 0 4999 < 5000 ∧
    (hub.faults.get 3).state ≠ .retryTiming ∧
    (((faulted retryingHeld).faults.get 3).state = .retryTiming ∧
      hub.params.retryTime (hub.params.mode .padLine) = some 50000 ∧
      judgedOnClear hub.params 3 .padLine (clearRecord retryingHeld) =
        ⟨.retryWait, .stuck, some .stuck, true, some .padStuck, none⟩ ∧
      judgedOnClear hub.params 3 .padStuck (clearRecord retrying) = clearRecord retrying) := by
  decide +kernel

theorem test_witness_StuckEnd :
    ∃ s : State, s.phase = .running ∧ (s.decoder (.button 3 .one)).stuck = .expired ∧
      (s.decoder (.button 3 .one)).counted = .active ∧ (s.decoder (.button 3 .one)).candidate = some ⟨.idle, 100⟩ ∧
      s.params.deglitch (.button 3 .one) .active .idle ≤ elapsed 100 s.deckTime :=
  ⟨{ (pressing .expired 0).modDecoder (.button 3 .one)
      (fun d => { d with sensed := .idle, candidate := some ⟨.idle, 100⟩ }) with deckTime := 150 }, by decide +kernel⟩

/-- A pad held past StuckTime whose wiring shorts (R143). -/
theorem test_witness_StuckShort :
    let s := (lined (.pad .a 3) .active .short 100 600 hub).modDecoder (.pad .a 3) fun d => { d with stuck := .expired }
    s.phase = .running ∧ Line.fourLevel (.pad .a 3) = true ∧ Line.hasStuckTimer (.pad .a 3) = true ∧
    Line.input (.pad .a 3) = some 3 ∧ (s.decoder (.pad .a 3)).stuck = .expired ∧ (s.decoder (.pad .a 3)).counted = .active ∧
    (s.decoder (.pad .a 3)).candidate = some ⟨.short, 100⟩ ∧
    s.params.deglitch (.pad .a 3) .active .short ≤ elapsed 100 s.deckTime := by
  decide +kernel

theorem test_witness_ClearFaults :
    Takes .cl0 hub ∧ (73 : Byte).toNat ≤ 73 ∧ (0xFF : Byte) = 0xFF ∧ namesInput 3 3 = true ∧ namesLink 71 .cl0 = true ∧
    namesInput 73 3 = false := ⟨takes_hub, by decide +kernel⟩

/-- Two presses that a new ButtonDeglitch completes are formed in the order of their moments, not of their slots (R140). -/
theorem test_formed_order :
    formedOrder
      { (hub.modDecoder (.button 3 .one) fun d => { d with candidate := some ⟨.active, 200⟩ }).modDecoder (.button 3 .two)
          (fun d => { d with candidate := some ⟨.active, 100⟩ }) with deckTime := 400 }
      [.button 3 .one, .button 3 .two] = [.button 3 .two, .button 3 .one] := by
  decide +kernel

/-- The lanes of the HOLD_CHANGE notices that wait on a link, in order. -/
def holdLanes (l : Link) (s : State) : List Nat :=
  (s.links.get l).notices.filterMap fun q =>
    match q.notice with
    | .holdChange n _ _ _ _ => some n.val
    | _ => none

/-- One write of TouchDeglitch completes the skip of lane 9 before that of lane 0: the hold changes come in lane order
(R122). -/
theorem test_holds_in_lane_order :
    holdLanes .cl1
      (after hub (exec (.setParameter .cl0 5 0 5)
        (lined (.pad .a 9) .idle .active 220000 220010 (lined (.pad .b 0) .idle .active 220001 220010
          (racing (((started .running).modLane 9 fun _ => swimmer 1 .b).modLane 0 fun _ => swimmer 1 .a)))))) = [0, 9] := by
  decide +kernel

/-- One write of PlatformDeglitch completes lane 9's early release and lane 0's EARLY takeoff: the hold changes come in lane
order here too (R122). -/
theorem test_holds_of_releases_in_lane_order :
    holdLanes .cl1
      (after hub (exec (.setParameter .cl0 5 1 10)
        (lined (.platform .a 9) .active .idle 40 120 (lined (.platform .a 0) .active .idle 105 120
          (racing { ((started .running).modLane 9 fun _ =>
              { swimmer 1 .b with reaction := some ⟨30, none, none, false, false, true⟩ }).modLane 0 fun _ =>
              { swimmer 1 .b with exchanges := [⟨2, .a, some 0, some 900, none, none, .pending⟩] } with
            startTime := some 100 }))))) = [0, 9] := by
  decide +kernel

/-- A power-on reset with RESETn low begins its start-up, the low time counted afresh (R187; log 10). -/
theorem test_power_on_resetn_low :
    (after hub (exec .powerOnReset { hub with resetn := some 49 })).phase = .startUp 2000 .powerOn ∧
    (after hub (exec .powerOnReset { hub with resetn := some 49 })).resetn = some 0 ∧
    dueCommands { State.reset with resetn := some 50 } = [.longResetnPulse] ∧
    dueCommands { State.reset with phase := .startUp 0 .powerOn } = [.startUpEnd] ∧
    dueCommands { State.reset with phase := .held, resetn := some 50 } = [] := by
  decide +kernel

/-- The hub with pending board work and a race. -/
def showing (b : Board) : State := { racing loaded with board := b }

theorem test_witness_BoardTransmitter :
    hub.phase = .running ∧ hub.board.flight = none ∧
    (showing { Board.reset with flight := some ⟨.idle 85, 0⟩ }).board.flight = some ⟨.idle 85, 0⟩ ∧
    (showing { Board.reset with events := [⟨.final, ⟨1, 1⟩, 0⟩] }).board.events = [⟨.final, ⟨1, 1⟩, 0⟩] ∧
    (showing { Board.reset with headerPending := true }).board.headerPending = true ∧
    (showing { Board.reset with clockDue := true, lastKind := some .clock }).board.laneQueue = [] ∧
    (showing { Board.reset with clockDue := true, lastKind := some .clock, laneQueue := [3] }).board.laneQueue = [3] ∧
    { hub with board := { Board.reset with idleDue := true } }.heat = none := by
  decide +kernel

theorem test_witness_BoardTimers :
    hub.phase = .running ∧ 10 ≤ elapsed 0 10 ∧ elapsed 0 9 < 10 ∧ hub.board.clockTimer = none ∧ hub.board.freeze = none ∧
    hub.board.idleTimer = none ∧ clockOut.board.clockTimer = some ⟨0, 0⟩ := by
  decide +kernel

theorem test_witness_LaneRequestFrame :
    requestOf (.holdLane .cl0 5 3) = some (.cl0, 5, 17) ∧ laneOf (.holdLane .cl0 5 3) = some 3 ∧
    (3 : Byte).toNat = (3 : LaneNo).val ∧ ∃ t, exec (.holdLane .cl0 5 3) (racing loaded) = .next t :=
  ⟨rfl, rfl, rfl, _, rfl⟩

theorem test_witness_OwnCommandsFrame :
    ownCommand .overtimeExpiry = true ∧ ∃ t, exec .overtimeExpiry (racing loaded) = .next t := ⟨rfl, _, rfl⟩

theorem test_witness_StepsKeepTheBounds : LinksFit hub ∧ BoardFits hub ∧ QueueFits hub ∧ ∃ t, step hub = .next t := by
  refine ⟨fun l => ?_, by unfold BoardFits; decide, by unfold QueueFits; decide, _, rfl⟩
  unfold Clu.fits
  cases l <;> decide

theorem test_witness_StepsSettleAndReset : Settled hub ∧ ResetStands hub ∧ ∃ t, step hub = .next t :=
  ⟨fun _ => ⟨fun l _ => by cases l <;> exact ⟨rfl, rfl⟩, fun _ => ⟨rfl, rfl, nofun⟩⟩, fun h => absurd rfl h, _, rfl⟩

theorem test_witness_StepsKeepTheDecoders : DecodersShaped hub := by
  have idle : ∀ i : Fin 73, hub.decoders.get i = Decoder.reset .idle := by decide +kernel
  intro l
  rw [State.decoder, idle]
  exact ⟨fun _ => rfl, fun _ => ⟨rfl, by simp [Decoder.reset], fun _ => rfl⟩⟩

theorem test_witness_StepsKeepTheRace : RaceShaped (racing loaded) ∧ Placed (racing loaded) ∧
    ∃ t, step (racing loaded) = .next t := by
  refine ⟨fun h e => ?_, fun h e => ?_, _, rfl⟩
  · obtain rfl := Option.some.inj e
    refine ⟨fun n => ⟨?_, ?_, ?_, ?_, ?_, ?_⟩, ?_, ?_, ?_, ?_, ?_⟩
    · revert n; decide +kernel
    · revert n; decide +kernel
    · revert n; decide +kernel
    · revert n; decide +kernel
    · revert n; decide +kernel
    · revert n; decide +kernel
    all_goals decide +kernel
  · obtain rfl := Option.some.inj e
    refine ⟨?_, ?_, ?_, ?_⟩ <;> decide +kernel

end Sys2Proof.Tests
end

section
/-! The answer of a taken request from the reply of its owner. -/

namespace Sys2Proof.Machine

open Sys2Proof

/-- A taken arrival once its owner's reply is known (R178, R179). -/
theorem arrive_of_reply {l : Link} {s t : State} {tag kind : Byte} {perform : State → Reply} {r : Result}
    {data : List Byte} (h : Takes l s) (hr : perform (counted l s) = ⟨t, r, data⟩) :
    arrive l tag kind perform s = answered l tag kind r data t := by
  rw [arrive_taken h, hr]

end Sys2Proof.Machine
end

section
/-! The leg check (R8): where it fails, and what a list that passes it guarantees of legs and boundaries. -/

namespace Sys2Proof.Machine

open Sys2Proof

/-! ## The first place that fails a test -/

/-- `o` names the first place at which `b` holds, places counted from `k`; none when `b` holds nowhere. -/
def ReportsFirst (b : Nat → Bool) (k : Nat) : Option Nat → Prop
  | none => ∀ i, b i = false
  | some p => ∃ i, p = i + k ∧ b i = true ∧ ∀ j, j < i → b j = false

theorem ReportsFirst.head {b : Nat → Bool} {k : Nat} (h : b 0 = true) : ReportsFirst b k (some k) :=
  ⟨0, by simp, h, by simp⟩

theorem ReportsFirst.tail {b : Nat → Bool} {k : Nat} {o : Option Nat} (h : b 0 = false)
    (ht : ReportsFirst (fun i => b (i + 1)) (k + 1) o) : ReportsFirst b k o := by
  cases o with
  | none =>
    intro i
    cases i with
    | zero => exact h
    | succ i => exact ht i
  | some p =>
    obtain ⟨i, hp, hi, hbefore⟩ := ht
    refine ⟨i + 1, by omega, hi, fun j hj => ?_⟩
    cases j with
    | zero => exact h
    | succ j => exact hbefore j (by omega)

theorem ReportsFirst.eq_none_iff {b : Nat → Bool} {k : Nat} {o : Option Nat} (h : ReportsFirst b k o) :
    o = none ↔ ∀ i, b i = false := by
  cases o with
  | none => exact iff_of_true rfl h
  | some p =>
    obtain ⟨i, -, hi, -⟩ := h
    simp only [reduceCtorEq, false_iff]
    intro hall
    simp [hall i] at hi

theorem ReportsFirst.eq_some_iff {b : Nat → Bool} {k p : Nat} {o : Option Nat} (h : ReportsFirst b k o) :
    o = some p ↔ ∃ i, p = i + k ∧ b i = true ∧ ∀ j, j < i → b j = false := by
  constructor
  · rintro rfl
    exact h
  · rintro ⟨i, rfl, hi, hbefore⟩
    cases o with
    | none => simp [h i] at hi
    | some q =>
      obtain ⟨j, rfl, hj, hfirst⟩ := h
      have hle : ¬ i < j := fun hlt => by simp [hfirst i hlt] at hi
      have hge : ¬ j < i := fun hlt => by simp [hbefore j hlt] at hj
      simp only [Option.some.injEq]
      omega

/-! ## The scan of the leg check -/

@[simp] theorem breaksLegOrder_nil (i : Nat) : breaksLegOrder [] i = false := rfl

theorem breaksLegOrder_zero (s : Segment) (ss : List Segment) : breaksLegOrder (s :: ss) 0 = decide (s.leg ≠ 1) := by
  by_cases h : s.leg = 1 <;> simp [breaksLegOrder, h]

@[simp] theorem breaksLegOrder_past_end (r : Segment) (i : Nat) : breaksLegOrder [r] (i + 1) = false := rfl

theorem breaksLegOrder_one_iff (r s : Segment) (ss : List Segment) :
    breaksLegOrder (r :: s :: ss) 1 = true ↔ 4 < s.leg ∨ s.leg ≠ r.leg ∧ s.leg ≠ r.leg + 1 := by
  simp [breaksLegOrder]

/-- The scan stops where the segment behind the one passed last breaks R8, else it passes on to that one. -/
theorem badLegAfter_cons (r s : Segment) (k : Nat) (ss : List Segment) :
    badLegAfter r.leg k (s :: ss) =
      if breaksLegOrder (r :: s :: ss) 1 = true then some k else badLegAfter s.leg (k + 1) ss := by
  rw [badLegAfter]
  simp only [breaksLegOrder_one_iff, Bool.and_eq_true, Bool.or_eq_true, decide_eq_true_eq]
  split
  next hfits => rw [if_neg (by omega)]
  next hbreaks => rw [if_pos (by omega)]

/-- The scan behind a segment reports the first segment after it that breaks R8. -/
theorem badLegAfter_reportsFirst (r : Segment) (k : Nat) (ss : List Segment) :
    ReportsFirst (fun i => breaksLegOrder (r :: ss) (i + 1)) k (badLegAfter r.leg k ss) := by
  induction ss generalizing r k with
  | nil => exact breaksLegOrder_past_end r
  | cons s ss ih =>
    rw [badLegAfter_cons]
    split
    next hbreaks => exact .head hbreaks
    -- Past the second segment the head of the list no longer counts, so the tail's report is the induction's.
    next hfits => exact .tail (Bool.eq_false_of_not_eq_true hfits) (ih s (k + 1))

/-- The leg check reports the first segment that breaks R8, counted from 1. -/
theorem badLegAt_reportsFirst (ss : List Segment) : ReportsFirst (breaksLegOrder ss) 1 (badLegAt ss) := by
  cases ss with
  | nil => exact breaksLegOrder_nil
  | cons s ss =>
    rw [badLegAt]
    split
    next hfirst =>
      refine .tail (by simp [breaksLegOrder_zero, hfirst]) ?_
      simpa only [hfirst] using badLegAfter_reportsFirst s 2 ss
    next hfirst => exact .head (by simp [breaksLegOrder_zero, hfirst])

/-! ## Legs and boundaries of a list that passes -/

/-- A segment passed is at most one leg above the one before it. -/
theorem badLegAfter_cons_eq_none {r s : Segment} {k : Nat} {ss : List Segment}
    (h : badLegAfter r.leg k (s :: ss) = none) : s.leg ≤ r.leg + 1 ∧ badLegAfter s.leg (k + 1) ss = none := by
  rw [badLegAfter_cons] at h
  split at h
  next => cases h
  next hfits =>
    rw [breaksLegOrder_one_iff] at hfits
    exact ⟨by omega, h⟩

/-- No leg is passed over behind a segment: each from its own to the last has a segment. -/
theorem exists_leg_of_badLegAfter {r last : Segment} {k leg : Nat} {ss : List Segment}
    (h : badLegAfter r.leg k ss = none) (hlast : (r :: ss).getLast? = some last) (hlo : r.leg ≤ leg)
    (hhi : leg ≤ last.leg) : ∃ s ∈ r :: ss, s.leg = leg := by
  by_cases hr : r.leg = leg
  · exact ⟨r, List.mem_cons_self, hr⟩
  induction ss generalizing r k with
  | nil =>
    obtain rfl : r = last := by simpa using hlast
    omega
  | cons s ss ih =>
    obtain ⟨hstep, hrest⟩ := badLegAfter_cons_eq_none h
    by_cases hs : s.leg = leg
    · exact ⟨s, by simp, hs⟩
    · obtain ⟨g, hg, hleg⟩ := ih hrest (by simpa using hlast) (by omega) hs
      exact ⟨g, List.mem_cons_of_mem r hg, hleg⟩

/-- Every leg from 1 to the last has a segment (R8). -/
theorem exists_leg_of_badLegAt {ss : List Segment} {last : Segment} {leg : Nat} (h : badLegAt ss = none)
    (hlast : ss.getLast? = some last) (hlo : 1 ≤ leg) (hhi : leg ≤ last.leg) : ∃ s ∈ ss, s.leg = leg := by
  cases ss with
  | nil => simp at hlast
  | cons s ss =>
    rw [badLegAt] at h
    split at h
    next hfirst => exact exists_leg_of_badLegAfter (hfirst.symm ▸ h) hlast (by omega) hhi
    next => cases h

/-- A leg that has a segment has a last length. -/
theorem exists_lastLengthOf {j done : Nat} {ss : List Segment} (h : ∃ s ∈ ss, s.leg = j) :
    ∃ m, lastLengthOf j done ss = some m := by
  induction ss generalizing done with
  | nil => simp at h
  | cons s ss ih =>
    rw [lastLengthOf]
    split
    next m _ => exact ⟨m, rfl⟩
    next hnone =>
      obtain ⟨g, hg, hleg⟩ := h
      rcases List.mem_cons.mp hg with rfl | htail
      · exact ⟨_, if_pos hleg⟩
      · obtain ⟨m, hm⟩ := ih (done := done + s.lengths) ⟨g, htail, hleg⟩
        simp [hm] at hnone

@[simp] theorem planSum_cons (s : Segment) (ss : List Segment) : planSum (s :: ss) = s.lengths + planSum ss := rfl

/-- The last length of a leg that is not the last one lies before the end of the race, whose last segment has a length. -/
theorem lastLengthOf_lt {j done m : Nat} {ss : List Segment} {last : Segment} (h : lastLengthOf j done ss = some m)
    (hlast : ss.getLast? = some last) (hleg : last.leg ≠ j) (hpos : ∀ g ∈ ss, 1 ≤ g.lengths) :
    m < done + planSum ss := by
  induction ss generalizing done with
  | nil => simp at hlast
  | cons s ss ih =>
    cases ss with
    | nil =>
      obtain rfl : s = last := by simpa using hlast
      simp [lastLengthOf, hleg] at h
    | cons r ss =>
      rw [lastLengthOf] at h
      split at h
      next n hn =>
        obtain rfl : n = m := Option.some.inj h
        have hlt := ih hn (by simpa using hlast) fun g hg => hpos g (List.mem_cons_of_mem s hg)
        rw [planSum_cons]
        omega
      next =>
        split at h
        next =>
          have hr : 1 ≤ r.lengths := hpos r (by simp)
          obtain rfl : done + s.lengths = m := Option.some.inj h
          simp only [planSum_cons]
          omega
        next => cases h

/-- The boundary before each leg but the first exists and lies before the end of the race (R3, R8). -/
theorem boundary_lt_planSum {d : Definition} {leg : Nat} (h : badLegAt d.segments = none)
    (hpos : ∀ g ∈ d.segments, 1 ≤ g.lengths) (hlo : 2 ≤ leg) (hhi : leg ≤ d.legs) :
    ∃ m, d.boundary leg = some m ∧ m < planSum d.segments := by
  rw [Definition.legs] at hhi
  cases hlast : d.segments.getLast? with
  | none =>
    simp only [hlast, Option.map_none, Option.getD_none] at hhi
    omega
  | some last =>
    simp only [hlast, Option.map_some, Option.getD_some] at hhi
    obtain ⟨m, hm⟩ := exists_lastLengthOf (done := 0)
      (exists_leg_of_badLegAt (leg := leg - 1) h hlast (by omega) (by omega))
    have hlt := lastLengthOf_lt hm hlast (by omega) hpos
    exact ⟨m, hm, by omega⟩

/-- Settles O24: the scan reports the first breaking segment, and a list that passes it skips no leg. -/
theorem legOrderCheck : Obligations.LegOrderCheck :=
  ⟨fun ss => (badLegAt_reportsFirst ss).eq_none_iff, fun ss _ => (badLegAt_reportsFirst ss).eq_some_iff,
    fun _ _ _ h hlast hlo hhi => exists_leg_of_badLegAt h hlast hlo hhi,
    fun _ _ h hpos hlo hhi => boundary_lt_planSum h hpos hlo hhi⟩

end Sys2Proof.Machine
end

section
/-! Loading a race from the queue (R15, R22, R43). -/

namespace Sys2Proof.Machine

open Sys2Proof

theorem Lane.build_eq_builtLane (d : Definition) (n : LaneNo) : Lane.build d n = builtLane d n := by
  cases hu : (d.lanes.get n).use <;> simp [Lane.build, builtLane, hu]

@[simp] theorem Heat.build_lanes_get (d : Definition) (n : LaneNo) : (Heat.build d).lanes.get n = builtLane d n := by
  rw [← Lane.build_eq_builtLane]
  exact Vector.getElem_ofFn n.isLt

@[simp] theorem Heat.build_desks_get (d : Definition) (n : LaneNo) :
    (Heat.build d).desks.get n = ⟨HoldSet.empty, none, none⟩ := by
  simp [Heat.build, Vector.get, Desk.empty]

/-- A load takes the head of the queue, whatever race stood before (R15, R22). -/
theorem load_loaded {s : State} {e : QueueEntry} {rest : List QueueEntry} (link : Option Link)
    (hq : s.queue = e :: rest) : Loaded link e rest s (load link s) := by
  unfold load
  rw [hq]
  exact {
    queue := rfl
    race := ⟨Heat.build e.definition, rfl, rfl, rfl, rfl, rfl, rfl, rfl, rfl, rfl, rfl, fun n => by simp⟩
    board := rfl
    notices := rfl
    others := ⟨rfl, rfl, rfl, rfl, rfl, rfl, rfl, rfl, rfl, rfl⟩ }

end Sys2Proof.Machine
end

section
/-! The requests of the heat queue (R12 to R14): STAGE HEAT, WITHDRAW HEAT and LIST QUEUE. -/

namespace Sys2Proof.Machine

open Sys2Proof

/-! ## Queued and current IDs (R11) -/

theorem queued_iff (s : State) (i : HeatId) : s.queued i = true ↔ ∃ q ∈ s.queue, q.definition.id = i := by
  simp [State.queued]

theorem currentId_eq_some_iff (s : State) (i : HeatId) :
    s.currentId = some i ↔ ∃ h, s.heat = some h ∧ h.definition.id = i := by
  simp [State.currentId]

theorem mem_heatIds_iff (s : State) (i : HeatId) : i ∈ s.heatIds ↔ s.queued i = true ∨ s.currentId = some i := by
  simp [State.heatIds, queued_iff, or_comm]

/-! ## STAGE HEAT (R12) -/

/-- The state after a definition has joined the tail, with its STAGED notice (R12, step 4). -/
def joined (l : Link) (d : Definition) (s : State) : State :=
  raise (.queueChange .staged d.id (some l) (s.queue.length + 1)) { s with queue := s.queue ++ [⟨d, l⟩] }

theorem joined_queue_length (l : Link) (d : Definition) (s : State) :
    (joined l d s).queue.length = s.queue.length + 1 := by simp [joined]

theorem stage_eq (l : Link) (d : Definition) (s : State) :
    stage l d s =
      if s.params.autoAdvance = true ∧ s.heat = none then load (some l) (joined l d s) else joined l d s := by
  simp [stage, joined]

theorem performStageHeat_decoded (l : Link) {b : HeatBody} {c : HeatCodes} (s : State) (h : decodeHeatCodes b = some c) :
    performStageHeat l b s = stageDefinition l (fillDefinition s.params b c) s := by
  simp only [performStageHeat, h]

theorem stageDefinition_invalid (l : Link) {d : Definition} (s : State) {v : Invalid} (h : d.invalid = some v) :
    stageDefinition l d s = invalid v s := by
  simp only [stageDefinition, h]

theorem stageDefinition_duplicate (l : Link) {d : Definition} {s : State} (h : d.invalid = none)
    (hid : d.id ∈ s.heatIds) : stageDefinition l d s = refuse .duplicate s := by
  rw [mem_heatIds_iff] at hid
  simp only [stageDefinition, h, if_pos hid]

theorem stageDefinition_full (l : Link) {d : Definition} {s : State} (h : d.invalid = none) (hid : d.id ∉ s.heatIds)
    (hfull : 4 ≤ s.queue.length) : stageDefinition l d s = refuse .queueFull s := by
  rw [mem_heatIds_iff] at hid
  simp only [stageDefinition, h, if_neg hid, if_pos hfull]

theorem stageDefinition_staged (l : Link) {d : Definition} {s : State} (h : d.invalid = none) (hid : d.id ∉ s.heatIds)
    (hroom : s.queue.length < 4) :
    stageDefinition l d s = done (d.id.bytes ++ [byteOf (stage l d s).queue.length]) (stage l d s) := by
  rw [mem_heatIds_iff] at hid
  simp only [stageDefinition, h, if_neg hid, if_neg (Nat.not_le.mpr hroom)]

/-- The definition waits in the queue: AutoAdvance is off or a race is current (R12). -/
theorem stageDefinition_waits (l : Link) {d : Definition} {s : State} (h : d.invalid = none) (hid : d.id ∉ s.heatIds)
    (hroom : s.queue.length < 4) (hstay : s.params.autoAdvance = false ∨ s.heat ≠ none) :
    stageDefinition l d s = done (d.id.bytes ++ [byteOf (s.queue.length + 1)]) (joined l d s) := by
  have hno : ¬ (s.params.autoAdvance = true ∧ s.heat = none) := by
    rintro ⟨hauto, hempty⟩
    rcases hstay with hoff | hrace
    · simp [hoff] at hauto
    · exact hrace hempty
  rw [stageDefinition_staged l h hid hroom, stage_eq, if_neg hno, joined_queue_length]

/-- The head of the queue is loaded behind the staging: AutoAdvance is on in EMPTY (R12). -/
theorem stageDefinition_loads (l : Link) {d : Definition} {s : State} (h : d.invalid = none) (hid : d.id ∉ s.heatIds)
    (hroom : s.queue.length < 4) (hauto : s.params.autoAdvance = true) (hempty : s.heat = none) :
    ∃ e rest t, s.queue ++ [⟨d, l⟩] = e :: rest ∧ Loaded (some l) e rest (joined l d s) t ∧
      stageDefinition l d s = done (d.id.bytes ++ [byteOf s.queue.length]) t := by
  obtain ⟨e, rest, hq⟩ := List.exists_cons_of_ne_nil
    (List.append_ne_nil_of_right_ne_nil s.queue (List.cons_ne_nil (⟨d, l⟩ : QueueEntry) []))
  have hload : Loaded (some l) e rest (joined l d s) (load (some l) (joined l d s)) := load_loaded (some l) hq
  have hlength : s.queue.length = rest.length := by simpa using congrArg List.length hq
  refine ⟨e, rest, _, hq, hload, ?_⟩
  rw [stageDefinition_staged l h hid hroom, stage_eq, if_pos ⟨hauto, hempty⟩, hload.queue, hlength]

/-- A STAGE HEAT taken whose codes decode is answered by R12's decisions on the filled definition. -/
theorem exec_stageHeat_of_reply {l : Link} {b : HeatBody} {c : HeatCodes} {d : Definition} {s t : State} {r : Result}
    {data : List Byte} (tag : Byte) (h : Takes l s) (hc : decodeHeatCodes b = some c) (hd : d = fillDefinition s.params b c)
    (hr : stageDefinition l d (counted l s) = ⟨t, r, data⟩) :
    exec (.stageHeat l tag b) s = .next (answered l tag 0x01 r data t) := by
  subst hd
  exact congrArg _ (arrive_of_reply h ((performStageHeat_decoded l (counted l s) hc).trans hr))

/-- Settles O25: the decisions of R12 in their order, then the load of the head where AutoAdvance asks for it. -/
theorem stageHeatDecides : Obligations.StageHeatDecides := by
  intro l tag b c d s htakes hc hd
  refine ⟨fun v hv => ?_, fun hv hid => ?_, fun hv hid hfull => ?_, fun hv hid hroom hstay => ?_,
    fun hv hid hroom hauto hempty => ?_⟩
  · exact exec_stageHeat_of_reply tag htakes hc hd (stageDefinition_invalid l (counted l s) hv)
  · exact exec_stageHeat_of_reply tag htakes hc hd (stageDefinition_duplicate (s := counted l s) l hv hid)
  · exact exec_stageHeat_of_reply tag htakes hc hd (stageDefinition_full (s := counted l s) l hv hid hfull)
  · exact exec_stageHeat_of_reply tag htakes hc hd (stageDefinition_waits (s := counted l s) l hv hid hroom hstay)
  · obtain ⟨e, rest, t, hq, hload, hreply⟩ :=
      stageDefinition_loads (s := counted l s) l hv hid hroom hauto hempty
    exact ⟨e, rest, t, hq, hload, exec_stageHeat_of_reply tag htakes hc hd hreply⟩

/-! ## WITHDRAW HEAT (R13) -/

/-- Dropping the one entry with an ID keeps the others in their order. -/
theorem filter_ne_id {before after : List QueueEntry} {q : QueueEntry} {i : HeatId} (hq : q.definition.id = i)
    (hothers : ∀ r ∈ before ++ after, r.definition.id ≠ i) :
    (before ++ q :: after).filter (fun e => e.definition.id != i) = before ++ after := by
  have hkept : (before ++ after).filter (fun e => e.definition.id != i) = before ++ after :=
    List.filter_eq_self.mpr fun r hr => by simpa using hothers r hr
  rw [List.filter_append, List.filter_cons_of_neg (by simp [hq]), ← List.filter_append, hkept]

theorem performWithdrawHeat_queued (l : Link) {s : State} {before after : List QueueEntry} {q : QueueEntry} {i : HeatId}
    (hs : s.queue = before ++ q :: after) (hq : q.definition.id = i)
    (hothers : ∀ r ∈ before ++ after, r.definition.id ≠ i) :
    performWithdrawHeat l i s =
      done [byteOf (before ++ after).length]
        (raise (.queueChange .withdrawn i (some l) (before ++ after).length) { s with queue := before ++ after }) := by
  have hqueued : s.queued i = true := (queued_iff s i).mpr ⟨q, by simp [hs], hq⟩
  simp only [performWithdrawHeat, if_pos hqueued, hs, filter_ne_id hq hothers]

theorem performWithdrawHeat_current (l : Link) {s : State} {i : HeatId} (hq : ¬ s.queued i = true)
    (hc : s.currentId = some i) : performWithdrawHeat l i s = wrongRace s := by
  simp only [performWithdrawHeat, if_neg hq, if_pos hc]

theorem performWithdrawHeat_unknown (l : Link) {s : State} {i : HeatId} (hq : ¬ s.queued i = true)
    (hc : s.currentId ≠ some i) : performWithdrawHeat l i s = refuse .notFound s := by
  simp only [performWithdrawHeat, if_neg hq, if_neg hc]

theorem not_queued_of_forall {s : State} {i : HeatId} (h : ∀ q ∈ s.queue, q.definition.id ≠ i) :
    ¬ s.queued i = true := by
  rw [queued_iff]
  rintro ⟨q, hq, hid⟩
  exact h q hq hid

/-- Settles O26: by where the ID stands, in the queue, in the race or in neither. -/
theorem withdrawHeat : Obligations.WithdrawHeat := by
  intro l tag e k s htakes
  refine ⟨fun before q after hs hq hothers => ?_, fun hnot hcurrent => ?_, fun hnot hother => ?_⟩
  · exact congrArg _ (arrive_of_reply htakes (performWithdrawHeat_queued l hs hq hothers))
  · have hc : s.currentId = some ⟨e, k⟩ := (currentId_eq_some_iff s _).mpr hcurrent
    exact congrArg _ (arrive_of_reply htakes (performWithdrawHeat_current l (not_queued_of_forall hnot) hc))
  · have hc : s.currentId ≠ some ⟨e, k⟩ := fun h => by
      obtain ⟨g, hg, hid⟩ := (currentId_eq_some_iff s _).mp h
      exact hother g hg hid
    exact congrArg _ (arrive_of_reply htakes (performWithdrawHeat_unknown l (not_queued_of_forall hnot) hc))

/-! ## LIST QUEUE (R14) -/

/-- Settles O19: the owner's reply is the counted list of the summaries, on the state it was given. -/
theorem listQueueSummarises : Obligations.ListQueueSummarises := by
  intro l tag s htakes
  have hreply : performListQueue (counted l s) =
      done (countedList QueueEntry.bytes s.queue) (counted l s) := rfl
  exact congrArg _ (arrive_of_reply htakes hreply)

end Sys2Proof.Machine
end

section
/-! The fifteen lane requests as one family: the owner's reply, the row of R47's or R123's table, and the checks 1 to 3. -/

namespace Sys2Proof.Machine

open Sys2Proof

/-! ## Lane numbers -/

theorem laneOfByte_of_toNat {b : Byte} {n : LaneNo} (h : b.toNat = n.val) : laneOfByte b = some n := by
  simp [laneOfByte, h]

theorem laneOfByte_of_ge {b : Byte} (h : 10 ≤ b.toNat) : laneOfByte b = none := by
  simp [laneOfByte, h]

/-! ## The checks 1 to 3 -/

/-- The refusal that an entry of the tables stands for. -/
def LaneGate.refusal : LaneGate → Option Result
  | .taken => none
  | .wrong => some .wrongState
  | .busy => some .laneBusy
  | .final => some .final

section
variable {b : Byte} {row : LaneState → LaneGate} {own : LaneNo → Heat → Lane → State → Reply} {s : State} {n : LaneNo}
  {h : Heat}

theorem laneRequest_outside (hb : laneOfByte b = none) : laneRequest b row own s = malformed s := by
  simp only [laneRequest, hb]

theorem laneRequest_empty (hb : laneOfByte b = some n) (hs : s.heat = none) : laneRequest b row own s = wrongRace s := by
  simp only [laneRequest, hb, hs]

theorem laneRequest_taken (hb : laneOfByte b = some n) (hs : s.heat = some h)
    (hrow : row (h.lanes.get n).state = .taken) : laneRequest b row own s = own n h (h.lanes.get n) s := by
  simp only [laneRequest, hb, hs, hrow]

theorem laneRequest_refused {r : Result} (hb : laneOfByte b = some n) (hs : s.heat = some h)
    (hrow : (row (h.lanes.get n).state).refusal = some r) :
    laneRequest b row own s = ⟨s, r, refusalData r (h.lanes.get n).state⟩ := by
  simp only [laneRequest, hb, hs]
  cases hg : row (h.lanes.get n).state <;> rw [hg] at hrow <;> cases hrow <;> rfl

end

/-- The race state of a hub without a race. -/
theorem wrongRace_empty {s : State} (h : s.heat = none) : wrongRace s = ⟨s, .wrongState, [0, 0]⟩ := by
  simp [wrongRace, State.raceState, h, RaceState.code, byteOf]

/-! ## The family -/

/-- The reply of a lane request's owner; the other commands are none. -/
def lanePerform : Instr → State → Reply
  | .scratchLane l _ b => performScratchLane l b
  | .assignEntrant _ _ b items => performAssignEntrant b items
  | .setLaneTiming _ _ b timing => performSetLaneTiming b timing
  | .promoteTouch l _ b number => performPromote l b number
  | .declareNoFinish l _ b => performDeclareNoFinish l b
  | .enterFinish l _ b time => performEnterFinish l b time
  | .adjustFinish l _ b time => performAdjustFinish l b time
  | .readLane _ _ b => performReadLane b
  | .readSplits _ _ b first => performReadSplits b first
  | .holdLane l _ b => performHoldLane l b
  | .unholdLane l _ b => performUnholdLane l b
  | .clearSystemHold l _ b reasons => performClearSystemHold l b reasons
  | .releaseLane l _ b => performReleaseLane l b
  | .disqualify l _ b code => performDisqualify l b code
  | .reinstate l _ b => performReinstate l b
  | _ => malformed

/-- A lane request is the arrival of its owner's reply. -/
theorem exec_laneRequest {c : Instr} {l : Link} {tag kind b : Byte} (hc : requestOf c = some (l, tag, kind))
    (hb : laneOf c = some b) (s : State) : exec c s = .next (arrive l tag kind (lanePerform c) s) := by
  cases c <;> cases hb <;> cases hc <;> rfl

/-- A lane request taken, once its owner's reply is known. -/
theorem exec_laneRequest_of_reply {c : Instr} {l : Link} {tag kind b : Byte} {s t : State} {r : Result}
    {data : List Byte} (hc : requestOf c = some (l, tag, kind)) (hb : laneOf c = some b) (h : Takes l s)
    (hr : lanePerform c (counted l s) = ⟨t, r, data⟩) : exec c s = .next (answered l tag kind r data t) := by
  rw [exec_laneRequest hc hb, arrive_of_reply h hr]

/-- The row of a lane request in the model's tables. -/
def laneRow : Instr → LaneState → LaneGate
  | .scratchLane _ _ _ => laneGate .wrong .taken .wrong .busy .wrong .wrong
  | .assignEntrant _ _ _ _ => laneGate .taken .taken .taken .busy .wrong .wrong
  | .setLaneTiming _ _ _ _ => laneGate .wrong .taken .taken .busy .wrong .wrong
  | .promoteTouch _ _ _ _ => laneGate .wrong .wrong .taken .busy .wrong .wrong
  | .declareNoFinish _ _ _ => laneGate .wrong .wrong .taken .busy .wrong .wrong
  | .enterFinish _ _ _ _ => laneGate .wrong .wrong .taken .busy .wrong .wrong
  | .adjustFinish _ _ _ _ => laneGate .wrong .wrong .wrong .busy .taken .final
  | .holdLane _ _ _ => holdRow
  | .unholdLane _ _ _ => holdRow
  | .clearSystemHold _ _ _ _ => holdRow
  | .releaseLane _ _ _ => laneGate .wrong .wrong .wrong .busy .taken .final
  | .disqualify _ _ _ _ => markRow
  | .reinstate _ _ _ => markRow
  | _ => anyLane

/-- The rows refuse as the tables of R47 and R123 say. -/
theorem laneRow_refusal {c : Instr} {b : Byte} (hb : laneOf c = some b) (st : LaneState) :
    (laneRow c st).refusal = refusalByTable c st := by
  cases c <;> cases hb <;> cases st <;> rfl

/-- A lane request whose body decodes runs the checks 1 to 3 by its row; else it is MALFORMED. -/
def RunsChecks (c : Instr) (b : Byte) : Prop :=
  (c.wellFormed = false ∧ ∀ s, lanePerform c s = malformed s) ∨
    ∃ own, ∀ s, lanePerform c s = laneRequest b (laneRow c) own s

theorem setLaneTiming_runsChecks (l : Link) (tag b : Byte) (timing : TimingBody) :
    RunsChecks (.setLaneTiming l tag b timing) b := by
  cases hd : decodeTiming timing with
  | none => exact .inl ⟨by simp [Instr.wellFormed, hd], fun s => by simp only [lanePerform, performSetLaneTiming, hd]⟩
  | some p => exact .inr ⟨setTiming p, fun s => by simp only [lanePerform, performSetLaneTiming, hd, laneRow]⟩

theorem promoteTouch_runsChecks (l : Link) (tag b : Byte) (number : Word16) :
    RunsChecks (.promoteTouch l tag b number) b := by
  by_cases hd : number = 0
  · exact .inl ⟨by simp [Instr.wellFormed, hd], fun s => by simp only [lanePerform, performPromote, if_pos hd]⟩
  · exact .inr ⟨promote l number.toNat, fun s => by simp only [lanePerform, performPromote, if_neg hd, laneRow]⟩

theorem readSplits_runsChecks (l : Link) (tag b first : Byte) : RunsChecks (.readSplits l tag b first) b := by
  by_cases hd : outside 1 64 first.toNat = true
  · refine .inl ⟨?_, fun s => by simp only [lanePerform, performReadSplits, if_pos hd]⟩
    simp only [outside, Bool.or_eq_true, decide_eq_true_eq] at hd
    simp only [Instr.wellFormed, Bool.and_eq_false_iff, decide_eq_false_iff_not]
    omega
  · exact .inr ⟨_, fun s => by simp only [lanePerform, performReadSplits, if_neg hd, laneRow]; rfl⟩

theorem clearSystemHold_runsChecks (l : Link) (tag b reasons : Byte) :
    RunsChecks (.clearSystemHold l tag b reasons) b := by
  cases hd : decodeReasons reasons with
  | none => exact .inl ⟨by simp [Instr.wellFormed, hd], fun s => by simp only [lanePerform, performClearSystemHold, hd]⟩
  | some p => exact .inr ⟨_, fun s => by simp only [lanePerform, performClearSystemHold, hd, laneRow]; rfl⟩

theorem laneRequest_runsChecks {c : Instr} {b : Byte} (hb : laneOf c = some b) : RunsChecks c b := by
  cases c <;> cases hb
  case setLaneTiming l tag timing => exact setLaneTiming_runsChecks l tag b timing
  case promoteTouch l tag number => exact promoteTouch_runsChecks l tag b number
  case readSplits l tag first => exact readSplits_runsChecks l tag b first
  case clearSystemHold l tag reasons => exact clearSystemHold_runsChecks l tag b reasons
  case assignEntrant l tag items => exact .inr ⟨assign items, fun _ => rfl⟩
  case enterFinish l tag time => exact .inr ⟨enterFinish l time.toNat, fun _ => rfl⟩
  case adjustFinish l tag time => exact .inr ⟨adjustFinish l time.toNat, fun _ => rfl⟩
  all_goals
    exact .inr ⟨_, fun s => by
      simp only [lanePerform, laneRow, performScratchLane, performDeclareNoFinish, performReadLane, performHoldLane,
        performUnholdLane, performReleaseLane, performDisqualify, performReinstate]
      rfl⟩

/-- A well-formed lane request names a lane. -/
theorem lane_of_wellFormed {c : Instr} {b : Byte} (hb : laneOf c = some b) (hw : c.wellFormed = true) :
    ∃ n, laneOfByte b = some n := by
  cases c <;> cases hb <;> simp only [Instr.wellFormed, Bool.and_eq_true, Option.isSome_iff_exists] at hw <;> grind

/-- Settles O12: each request's row refuses as the tables say, behind the checks of the lane number and of the race state. -/
theorem laneRequestsFollowTheirTables : Obligations.LaneRequestsFollowTheirTables := by
  intro c l tag kind b s hc hb htakes
  have hreply : ∀ {r data}, lanePerform c (counted l s) = ⟨counted l s, r, data⟩ →
      exec c s = .next (answered l tag kind r data (counted l s)) := exec_laneRequest_of_reply hc hb htakes
  rcases laneRequest_runsChecks hb with ⟨hbad, hmal⟩ | ⟨own, hperform⟩
  · simp only [hbad, Bool.false_eq_true, false_implies, implies_true, and_true]
    exact fun _ => hreply (hmal _)
  refine ⟨fun hout => hreply ?_, fun hw hempty => hreply ?_, fun h n r _ hrace hn href => hreply ?_⟩
  · rw [hperform, laneRequest_outside (laneOfByte_of_ge hout)]
    rfl
  · obtain ⟨n, hn⟩ := lane_of_wellFormed hb hw
    rw [hperform, laneRequest_empty (s := counted l s) hn hempty, wrongRace_empty (s := counted l s) hempty]
  · rw [hperform]
    exact laneRequest_refused (laneOfByte_of_toNat hn) hrace ((laneRow_refusal hb _).trans href)

/-! ## READ SPLITS (R61) -/

theorem byteOf_toNat (b : Byte) : byteOf b.toNat = b := BitVec.ofNat_toNat ..

/-- Settles O20: the page is what the split list holds from the first length on, cut at 24. -/
theorem readSplitsPages : Obligations.ReadSplitsPages := by
  intro l tag b f s htakes
  have hreply : ∀ {r data}, performReadSplits b f (counted l s) = ⟨counted l s, r, data⟩ →
      exec (.readSplits l tag b f) s = .next (answered l tag 0x10 r data (counted l s)) :=
    exec_laneRequest_of_reply (c := .readSplits l tag b f) rfl rfl htakes
  have hinside : 1 ≤ f.toNat → f.toNat ≤ 64 →
      performReadSplits b f (counted l s) =
        laneRequest b anyLane (fun n _ x u => done (splitsAnswer n f.toNat x) u) (counted l s) := by
    intro hlo hhi
    rw [performReadSplits, if_neg]
    simp only [outside, Bool.or_eq_true, decide_eq_true_eq]
    omega
  refine ⟨fun hout => hreply ?_, fun n hn hlo hhi hempty => hreply ?_, fun n h hn hlo hhi hrace => ?_⟩
  · rw [performReadSplits, if_pos]
    · rfl
    · simpa [outside] using hout
  · rw [hinside hlo hhi, laneRequest_empty (s := counted l s) (laneOfByte_of_toNat hn) hempty,
      wrongRace_empty (s := counted l s) hempty]
  · refine ⟨_, rfl, by simp, fun hpast => ?_, hreply ?_⟩
    · rw [List.drop_eq_nil_of_le (by omega), List.take_nil]
    · rw [hinside hlo hhi, laneRequest_taken (s := counted l s) (laneOfByte_of_toNat hn) hrace
        (by cases (h.lanes.get n).state <;> rfl)]
      simp only [done, splitsAnswer, countedList, splitPage, ← hn, byteOf_toNat]

end Sys2Proof.Machine
end

section
/-! SCRATCH LANE and SET LANE TIMING (R48, R52, R53), with what a change of one lane leaves of the race. -/

namespace Sys2Proof.Machine

open Sys2Proof

/-! ## One lane or one desk changed -/

theorem modLane_othersAsBefore (n : LaneNo) (h : Heat) (f : Lane → Lane) : othersAsBefore n h (h.modLane n f) :=
  fun m hm => ⟨by rw [modLane_get, if_neg hm], rfl⟩

theorem modDesk_othersAsBefore (n : LaneNo) (h : Heat) (f : Desk → Desk) : othersAsBefore n h (h.modDesk n f) :=
  fun m hm => ⟨rfl, by rw [modDesk_get, if_neg hm]⟩

theorem othersAsBefore_trans {n : LaneNo} {h g k : Heat} (hg : othersAsBefore n h g) (gk : othersAsBefore n g k) :
    othersAsBefore n h k :=
  fun m hm => ⟨(gk m hm).1.trans (hg m hm).1, (gk m hm).2.trans (hg m hm).2⟩

@[simp] theorem owesHeader_board (s : State) : (owesHeader s).board = { s.board with headerPending := true } := rfl

@[simp] theorem reportDesk_board (n : LaneNo) (c : HoldCause) (l : Option Link) (b s : State) :
    (reportDesk n c l b s).board = s.board := by
  unfold reportDesk
  split
  · rfl
  · split <;> rfl

@[simp] theorem changeDesk_board (n : LaneNo) (c : HoldCause) (l : Option Link) (f : Desk → Desk) (s : State) :
    (changeDesk n c l f s).board = s.board := reportDesk_board ..

/-! ## SCRATCH LANE (R48) -/

theorem performScratchLane_ready (l : Link) {b : Byte} {s : State} {n : LaneNo} {h : Heat} (hb : b.toNat = n.val)
    (hs : s.heat = some h) (hready : (h.lanes.get n).state = .ready) :
    performScratchLane l b s =
      if h.readyLanes = [n] then refuse .lastLane s
      else done [byteOf (readyCount (scratch l n s))] (scratch l n s) :=
  laneRequest_taken (laneOfByte_of_toNat hb) hs (by rw [hready]; rfl)

theorem mem_readyLanes (h : Heat) (m : LaneNo) : m ∈ h.readyLanes ↔ (h.lanes.get m).state = .ready := by
  simp [Heat.readyLanes, Heat.lanesWhere]

theorem readyLanes_eq_singleton_iff {h : Heat} {n : LaneNo} (hready : (h.lanes.get n).state = .ready) :
    h.readyLanes = [n] ↔ ∀ m, (h.lanes.get m).state = .ready → m = n := by
  have hnodup : h.readyLanes.Nodup := by
    unfold Heat.readyLanes Heat.lanesWhere
    exact (List.nodup_finRange 10).filter _
  rw [← List.perm_singleton, List.perm_ext_iff_of_nodup hnodup (List.nodup_singleton n)]
  simp only [mem_readyLanes, List.mem_singleton]
  exact ⟨fun hiff m hm => (hiff m).mp hm, fun honly m => ⟨honly m, fun hm => hm ▸ hready⟩⟩

theorem readyCount_of_heat {s : State} {h : Heat} (hs : s.heat = some h) :
    readyCount s = allLanes.countP fun m => (h.lanes.get m).state == .ready := by
  simp only [readyCount, hs, Heat.readyLanes, Heat.lanesWhere, allLanes, List.countP_eq_length_filter]

/-- The race a scratch leaves (R48). -/
def Heat.scratched (h : Heat) (n : LaneNo) : Heat := (h.modLane n Lane.scratch).modDesk n Desk.scratch

theorem scratch_heat (l : Link) (n : LaneNo) (s : State) : (scratch l n s).heat = s.heat.map fun h => h.scratched n := by
  rw [scratch, changeDesk_heat]
  simp [Heat.scratched, Function.comp_def]

theorem scratch_board (l : Link) (n : LaneNo) (s : State) :
    (scratch l n s).board = { s.board.queueLane n with headerPending := true } := by
  rw [scratch, changeDesk_board]
  rfl

/-- A scratch raises HOLD_CHANGE when it takes a hold set or a DQ mark away (R48, R122). -/
theorem scratch_links (l : Link) (n : LaneNo) {s : State} {h : Heat} (hs : s.heat = some h) :
    (scratch l n s).links =
      (if (h.desks.get n).hold = HoldSet.empty ∧ (h.desks.get n).dq = none then s
        else raise (.holdChange n .scratch (some l) HoldSet.empty none) s).links := by
  have hclear : (h.desks.get n).scratch = h.desks.get n ↔
      (h.desks.get n).hold = HoldSet.empty ∧ (h.desks.get n).dq = none := by
    cases h.desks.get n
    simp [Desk.scratch, eq_comm]
  rw [scratch, changeDesk_some n .scratch (some l) Desk.scratch _ (h.modLane n Lane.scratch) (by simp [hs]) _ rfl,
    modLane_desks]
  simp only [hclear]
  split <;> simp [Desk.scratch]

theorem queueLane_laneQueue (n : LaneNo) (b : Board) :
    b.queueLane n = { b with laneQueue := if n ∈ b.laneQueue then b.laneQueue else b.laneQueue ++ [n] } := by
  by_cases hn : n ∈ b.laneQueue <;> simp [Board.queueLane, hn]

/-- Settles O33: the READY lanes decide; a lane that is not the last takes the effect of R48. -/
theorem scratchLane : Obligations.ScratchLane := by
  intro l tag b n s h htakes hb hs hready
  have hreply : ∀ {t r data}, performScratchLane l b (counted l s) = ⟨t, r, data⟩ →
      exec (.scratchLane l tag b) s = .next (answered l tag 0x08 r data t) :=
    exec_laneRequest_of_reply (c := .scratchLane l tag b) rfl rfl htakes
  have hperform := performScratchLane_ready l (s := counted l s) hb hs hready
  refine ⟨fun honly => hreply ?_, fun ⟨m, hm, hother⟩ => ?_⟩
  · rw [hperform, if_pos ((readyLanes_eq_singleton_iff hready).mpr honly)]
    rfl
  · have hheat : (scratch l n (counted l s)).heat = some (h.scratched n) := by simp [scratch_heat, hs]
    have hnot : h.readyLanes ≠ [n] := fun he => hm ((readyLanes_eq_singleton_iff hready).mp he m hother)
    refine ⟨scratch l n (counted l s), h.scratched n, hheat, hreply ?_, rfl, rfl, ?_, ?_, ?_, ?_, ?_⟩
    · rw [hperform, if_neg hnot, readyCount_of_heat hheat]
      rfl
    · simp [Heat.scratched, Lane.scratch]
    · simp [Heat.scratched, Desk.scratch]
    · exact othersAsBefore_trans (modLane_othersAsBefore n h _) (modDesk_othersAsBefore n _ _)
    · rw [scratch_board, queueLane_laneQueue, counted_board]
    · exact scratch_links l n hs

/-! ## SET LANE TIMING (R52, R53) -/

theorem modeOfCode_code (m : Mode) : modeOfCode (byteOf m.code) = some m := by cases m <;> rfl

theorem basisOfCode_code (k : Basis) : basisOfCode (byteOf k.code) = some k := by cases k <;> rfl

/-- Optional items sent by their codes decode to themselves (R190). -/
theorem decodeOpt_map {α β : Type} {f : β → Option α} {g : α → β} (hfg : ∀ a, f (g a) = some a) (o : Option α) :
    decodeOpt f (o.map g) = some o := by
  cases o with
  | none => rfl
  | some a => simp [decodeOpt, hfg]

/-- A body with at least one field decodes to its fields (R52). -/
theorem decodeTiming_codes {m : Option Mode} {w : Option Byte} {k : Option Basis} (hsome : m ≠ none ∨ w ≠ none ∨ k ≠ none) :
    decodeTiming ⟨m.map fun a => byteOf a.code, w, k.map fun a => byteOf a.code⟩ = some ⟨m, w.map BitVec.toNat, k⟩ := by
  simp only [decodeTiming, decodeOpt_map modeOfCode_code, decodeOpt_map basisOfCode_code]
  rw [if_neg]
  cases m <;> cases w <;> cases k <;> simp at hsome ⊢

theorem performSetLaneTiming_taken {b : Byte} {timing : TimingBody} {p : PendingTiming} {s : State} {n : LaneNo} {h : Heat}
    (hd : decodeTiming timing = some p) (hb : b.toNat = n.val) (hs : s.heat = some h)
    (hstate : (h.lanes.get n).state = .ready ∨ (h.lanes.get n).state = .swimming) :
    performSetLaneTiming b timing s = setTiming p n h (h.lanes.get n) s := by
  simp only [performSetLaneTiming, hd]
  exact laneRequest_taken (laneOfByte_of_toNat hb) hs (by rcases hstate with e | e <;> rw [e] <;> rfl)

theorem timingAnswer_of_heat (n : LaneNo) {s : State} {h : Heat} (hs : s.heat = some h) :
    timingAnswer n s = (h.lanes.get n).timing.bytes ++ pendingBytes (h.lanes.get n).pendingTiming := by
  simp only [timingAnswer, hs]

/-- Fields given over a pending record: a given field wins, another stays as it was (R53). -/
theorem mergePending_eq (old : Option PendingTiming) (p : PendingTiming) :
    mergePending old p =
      ⟨p.mode.or (old.bind PendingTiming.mode), p.weight.or (old.bind PendingTiming.weight),
        p.basis.or (old.bind PendingTiming.basis)⟩ := by
  cases old <;> simp [mergePending]

theorem setTiming_ready {l : Lane} (p : PendingTiming) (h : l.state = .ready) :
    l.setTiming p = { l with timing := l.timing.apply p } := by
  simp [Lane.setTiming, h]

theorem setTiming_swimming {l : Lane} (p : PendingTiming) (h : l.state = .swimming) :
    l.setTiming p = { l with pendingTiming := some (mergePending l.pendingTiming p) } := by
  simp [Lane.setTiming, h]

theorem modLane_heat_of {s : State} {h : Heat} (hs : s.heat = some h) (n : LaneNo) (f : Lane → Lane) :
    (s.modLane n f).heat = some (h.modLane n f) := by simp [hs]

theorem setTiming_weightOutside {p : PendingTiming} {v : Nat} (n : LaneNo) (h : Heat) (x : Lane) (s : State)
    (hw : p.weight = some v) (hout : v < 1 ∨ 31 < v) :
    setTiming p n h x s = ⟨s, .invalid, [6, 7, 0, 0, 0, 0, 0]⟩ := by
  rw [setTiming, if_pos (by simpa [hw, outside] using hout)]
  rfl

theorem setTiming_accepted {p : PendingTiming} {s : State} {h : Heat} (n : LaneNo) (x : Lane) (hs : s.heat = some h)
    (hw : ∀ v, p.weight = some v → 1 ≤ v ∧ v ≤ 31) :
    setTiming p n h x s =
      done (((h.modLane n (Lane.setTiming p)).lanes.get n).timing.bytes ++
          pendingBytes ((h.modLane n (Lane.setTiming p)).lanes.get n).pendingTiming)
        (s.modLane n (Lane.setTiming p)) := by
  have hinside : ¬ (p.weight.any (outside 1 31) = true) := by
    cases hp : p.weight with
    | none => simp
    | some v =>
      have := hw v hp
      simp only [outside, Option.any_some, Bool.or_eq_true, decide_eq_true_eq]
      omega
  rw [setTiming, if_neg hinside, ← timingAnswer_of_heat n (modLane_heat_of hs n _)]

/-- Settles O35: the body decodes to its fields, W is checked, and the lane takes them by its state. -/
theorem setLaneTiming : Obligations.SetLaneTiming := by
  intro l tag b m w k n s h htakes hb hs hstate hsome
  have hreply : ∀ {t r data}, setTiming ⟨m, w.map BitVec.toNat, k⟩ n h (h.lanes.get n) (counted l s) = ⟨t, r, data⟩ →
      exec (.setLaneTiming l tag b ⟨m.map fun a => byteOf a.code, w, k.map fun a => byteOf a.code⟩) s =
        .next (answered l tag 0x0A r data t) := fun hr =>
    exec_laneRequest_of_reply (c := .setLaneTiming l tag b _) rfl rfl htakes
      ((performSetLaneTiming_taken (s := counted l s) (decodeTiming_codes hsome) hb hs hstate).trans hr)
  refine ⟨fun v hv hout => hreply (setTiming_weightOutside n h _ _ (by rw [hv]; rfl) hout), fun hin => ?_⟩
  have hweight : ∀ v, w.map BitVec.toNat = some v → 1 ≤ v ∧ v ≤ 31 := by
    rintro v hv
    obtain ⟨a, ha, rfl⟩ := Option.map_eq_some_iff.mp hv
    exact hin a ha
  refine ⟨_, _, modLane_heat_of (s := counted l s) hs n _, hreply (setTiming_accepted n _ hs hweight), ?_,
    modLane_othersAsBefore n h _, rfl, rfl⟩
  rw [modLane_get_self]
  rcases hstate with e | e
  · rw [setTiming_ready _ e, if_pos e]
    rfl
  · rw [setTiming_swimming _ e, if_neg (by simp [e]), mergePending_eq]

end Sys2Proof.Machine
end

section
/-! ASSIGN ENTRANT (R49, R50): the checks in their order and the tag list they let through. -/

namespace Sys2Proof.Machine

open Sys2Proof

/-! ## The checks of R49 -/

theorem outside_eq_true_iff (lo hi v : Nat) : outside lo hi v = true ↔ v < lo ∨ hi < v := by simp [outside]

/-- Every item names a leg from 1 to L. -/
def LegsFit (legs : Nat) (items : List TagItem) : Prop := ∀ j ∈ items, 1 ≤ j.leg.toNat ∧ j.leg.toNat ≤ legs

theorem badLegItem_of_fit {legs : Nat} {items : List TagItem} (k : Nat) (h : LegsFit legs items) :
    badLegItem legs k items = none := by
  induction items generalizing k with
  | nil => rfl
  | cons i items ih =>
    have hi := h i List.mem_cons_self
    rw [badLegItem, if_neg (by rw [outside_eq_true_iff]; omega)]
    exact ih (k + 1) fun j hj => h j (List.mem_cons_of_mem i hj)

theorem badLegItem_of_first {legs : Nat} {before after : List TagItem} {i : TagItem} (k : Nat) (h : LegsFit legs before)
    (hi : i.leg.toNat < 1 ∨ legs < i.leg.toNat) :
    badLegItem legs k (before ++ i :: after) = some (k + before.length) := by
  induction before generalizing k with
  | nil => exact if_pos ((outside_eq_true_iff ..).mpr hi)
  | cons j before ih =>
    have hj := h j List.mem_cons_self
    rw [List.cons_append, badLegItem, if_neg (by rw [outside_eq_true_iff]; omega),
      ih (k + 1) fun g hg => h g (List.mem_cons_of_mem j hg), List.length_cons, Nat.add_right_comm, Nat.add_assoc]

theorem repeatedLeg_eq_true_iff (items : List TagItem) :
    repeatedLeg items = true ↔ ¬ (items.map TagItem.leg).Nodup := by simp [repeatedLeg]

theorem namesEveryLeg_eq_true_iff (legs : Nat) (items : List TagItem) :
    namesEveryLeg legs items = true ↔ ∀ g, 1 ≤ g → g ≤ legs → ∃ j ∈ items, j.leg.toNat = g := by
  simp only [namesEveryLeg, List.all_eq_true, List.mem_range, List.any_eq_true, beq_iff_eq]
  constructor
  · intro h g hlo hhi
    obtain ⟨j, hj, hleg⟩ := h (g - 1) (by omega)
    exact ⟨j, hj, by omega⟩
  · exact fun h g hg => h (g + 1) (by omega) (by omega)

theorem startedLeg_none {l : Lane} {items : List TagItem} {k : Nat} (hk : l.leg = some k)
    (h : ∀ j ∈ items, k < j.leg.toNat) : startedLeg l items = none := by
  simpa [startedLeg, hk] using h

/-- The first item at or below the current leg is the one reported (log 37). -/
theorem startedLeg_first {l : Lane} {before after : List TagItem} {i : TagItem} {k : Nat} (hk : l.leg = some k)
    (h : ∀ j ∈ before, k < j.leg.toNat) (hi : i.leg.toNat ≤ k) : startedLeg l (before ++ i :: after) = some i.leg := by
  have hnone : before.find? (fun t => decide (t.leg.toNat ≤ k)) = none := by simpa using h
  simp [startedLeg, hk, List.find?_append, hnone, hi]

section
variable {items : List TagItem} {h : Heat} (n : LaneNo) (l : Lane) (s : State)

theorem assign_count (hc : items = [] ∨ 4 < items.length) : assign items n h l s = invalid (.plain .tagCount) s := by
  have hout : outside 1 4 items.length = true := by
    rw [outside_eq_true_iff]
    rcases hc with rfl | hc
    · exact .inl Nat.zero_lt_one
    · exact .inr hc
  rw [assign, if_pos hout]

theorem outside_items_length (hne : items ≠ []) (hle : items.length ≤ 4) : ¬ outside 1 4 items.length = true := by
  have := List.length_pos_iff.mpr hne
  rw [outside_eq_true_iff]
  omega

theorem legRange_bytes (i : Nat) :
    (Invalid.mk .range (some FieldCode.leg.code) i 0).bytes = [6, 12, byteOf i, 0, 0, 0, 0] := by
  simp [Invalid.bytes, CheckCode.code, FieldCode.code, le4, byteOf]

theorem assign_range {before after : List TagItem} {i : TagItem} (hle : (before ++ i :: after).length ≤ 4)
    (hfit : LegsFit h.definition.legs before) (hi : i.leg.toNat < 1 ∨ h.definition.legs < i.leg.toNat) :
    assign (before ++ i :: after) n h l s = ⟨s, .invalid, [6, 12, byteOf (before.length + 1), 0, 0, 0, 0]⟩ := by
  rw [assign, if_neg (outside_items_length (by simp) hle), badLegItem_of_first 1 hfit hi, Nat.add_comm]
  simp only [invalid, legRange_bytes]

theorem assign_repeated (hne : items ≠ []) (hle : items.length ≤ 4) (hfit : LegsFit h.definition.legs items)
    (hrep : ¬ (items.map TagItem.leg).Nodup) : assign items n h l s = invalid (.plain .tagCount) s := by
  rw [assign, if_neg (outside_items_length hne hle), badLegItem_of_fit 1 hfit]
  exact if_pos ((repeatedLeg_eq_true_iff items).mpr hrep)

theorem assign_by_state (hne : items ≠ []) (hle : items.length ≤ 4) (hfit : LegsFit h.definition.legs items)
    (hnd : (items.map TagItem.leg).Nodup) : assign items n h l s = assignByState items n h l s := by
  rw [assign, if_neg (outside_items_length hne hle), badLegItem_of_fit 1 hfit]
  exact if_neg (by rw [repeatedLeg_eq_true_iff]; exact not_not_intro hnd)

theorem assignByState_missing (hv : l.state = .vacant) (hm : ¬ namesEveryLeg h.definition.legs items = true) :
    assignByState items n h l s = invalid (.plain .tagCount) s := by
  simp [assignByState, hv, hm]

theorem assignByState_late (hv : l.state = .vacant) (hm : namesEveryLeg h.definition.legs items = true)
    (hp : ¬ (h.phase = .loaded ∨ h.phase = .marks)) : assignByState items n h l s = wrongRace s := by
  simp [assignByState, hv, hm, hp]

theorem assignByState_enters (hv : l.state = .vacant) (hm : namesEveryLeg h.definition.legs items = true)
    (hp : h.phase = .loaded ∨ h.phase = .marks) :
    assignByState items n h l s = done (tagAnswer n (enterLane items n h s)) (enterLane items n h s) := by
  simp [assignByState, hv, hm, hp]

theorem assignByState_started {g : Byte} (hs : l.state = .swimming) (hg : startedLeg l items = some g) :
    assignByState items n h l s = ⟨s, .legStarted, [g]⟩ := by
  simp [assignByState, hs, hg]

theorem assignByState_retags (hs : l.state = .ready ∨ l.state = .swimming ∧ startedLeg l items = none) :
    assignByState items n h l s = done (tagAnswer n (retag items n s)) (retag items n s) := by
  rcases hs with hs | ⟨hs, hg⟩ <;> simp [assignByState, *]

end

/-! ## The tags written (R50) -/

@[simp] theorem length_writeTags (items : List TagItem) (tags : List Word32) :
    (writeTags tags items).length = tags.length := by
  unfold writeTags
  induction items generalizing tags with
  | nil => rfl
  | cons i items ih => rw [List.foldl_cons, ih, List.length_set]

theorem writeTags_cons (i : TagItem) (items : List TagItem) (tags : List Word32) :
    writeTags tags (i :: items) = writeTags (tags.set (i.leg.toNat - 1) i.tag) items := rfl

/-- A place no item names keeps its tag. -/
theorem writeTags_other {items : List TagItem} {k : Nat} (tags : List Word32) (h : ∀ j ∈ items, j.leg.toNat - 1 ≠ k) :
    (writeTags tags items)[k]? = tags[k]? := by
  induction items generalizing tags with
  | nil => rfl
  | cons i items ih =>
    rw [writeTags_cons, ih _ fun j hj => h j (List.mem_cons_of_mem i hj), List.getElem?_set_ne (h i List.mem_cons_self)]

/-- A leg named once holds the tag of its item. -/
theorem writeTags_named {items : List TagItem} {j : TagItem} (tags : List Word32) (hnd : (items.map TagItem.leg).Nodup)
    (hfit : LegsFit tags.length items) (hj : j ∈ items) : (writeTags tags items)[j.leg.toNat - 1]? = some j.tag := by
  induction items generalizing tags with
  | nil => cases hj
  | cons i items ih =>
    obtain ⟨hi, hrest⟩ := List.nodup_cons.mp hnd
    have hfitTail : LegsFit tags.length items := fun g hg => hfit g (List.mem_cons_of_mem i hg)
    have hhead := hfit i List.mem_cons_self
    rw [writeTags_cons]
    rcases List.mem_cons.mp hj with rfl | htail
    · rw [writeTags_other, List.getElem?_set_self (by omega)]
      intro g hg heq
      have hg1 := hfitTail g hg
      have hleg : g.leg = j.leg := BitVec.eq_of_toNat_eq (by omega)
      exact hi (hleg ▸ List.mem_map_of_mem hg)
    · exact ih _ hrest (by simpa using hfitTail) htail

/-! ## The lane a taken request leaves -/

theorem performAssignEntrant_taken {b : Byte} (items : List TagItem) {s : State} {n : LaneNo} {h : Heat}
    (hb : b.toNat = n.val) (hs : s.heat = some h)
    (hstate : (h.lanes.get n).state = .vacant ∨ (h.lanes.get n).state = .ready ∨ (h.lanes.get n).state = .swimming) :
    performAssignEntrant b items s = assign items n h (h.lanes.get n) s :=
  laneRequest_taken (laneOfByte_of_toNat hb) hs (by rcases hstate with e | e | e <;> rw [e] <;> rfl)

theorem tagAnswer_of_heat (n : LaneNo) {s : State} {h : Heat} (hs : s.heat = some h) :
    tagAnswer n s = byteOf (h.lanes.get n).tags.length :: ((h.lanes.get n).tags.map tagBytes).flatten := by
  simp [tagAnswer, hs, countedList]

/-- The lane with its items' tags written, made READY when it was VACANT (R50, R105). -/
def Lane.assigned (items : List TagItem) (h : Heat) (now : DeckTime) (l : Lane) : Lane :=
  if l.state = .vacant then
    { l with
      state := .ready
      leg := some 1
      tags := writeTags (List.replicate h.definition.legs 0) items
      reaction := if h.phase = .marks ∧ h.definition.startKind = .block then some (Reaction.new now) else l.reaction }
  else { l with tags := writeTags l.tags items }

theorem modLane_congr {h : Heat} {n : LaneNo} {f g : Lane → Lane} (hfg : f (h.lanes.get n) = g (h.lanes.get n)) :
    h.modLane n f = h.modLane n g := by
  rw [Heat.modLane, Heat.modLane, updAt_congr _ _ _ _ hfg]

theorem enterLane_heat (items : List TagItem) (n : LaneNo) {s : State} {h : Heat} (hs : s.heat = some h)
    (hv : (h.lanes.get n).state = .vacant) :
    (enterLane items n h s).heat = some (h.modLane n (Lane.assigned items h s.deckTime)) := by
  by_cases hm : h.phase = .marks ∧ h.definition.startKind = .block
  · simp only [enterLane, if_pos hm, armForMarks, owesHeader_heat, queueLane_heat, State.modLane_heat, hs, Option.map_some,
      modLane_modLane]
    exact congrArg some (modLane_congr (by simp [Lane.assigned, hv, hm]))
  · simp only [enterLane, if_neg hm, owesHeader_heat, queueLane_heat, State.modLane_heat, hs, Option.map_some]
    exact congrArg some (modLane_congr (by simp [Lane.assigned, hv, hm]))

theorem retag_heat (items : List TagItem) (n : LaneNo) {s : State} {h : Heat} (hs : s.heat = some h)
    (hv : (h.lanes.get n).state ≠ .vacant) :
    (retag items n s).heat = some (h.modLane n (Lane.assigned items h s.deckTime)) := by
  simp only [retag, queueLane_heat, State.modLane_heat, hs, Option.map_some]
  exact congrArg some (modLane_congr (by simp [Lane.assigned, hv]))

/-- What the DONE of R50 leaves: the lane with its tags, a board update, and a HEADER when the lane enters. -/
structure Assigned (items : List TagItem) (n : LaneNo) (h : Heat) (s t : State) : Prop where
  heat : t.heat = some (h.modLane n (Lane.assigned items h s.deckTime))
  queued : n ∈ t.board.laneQueue
  header : (h.lanes.get n).state = .vacant → t.board.headerPending = true

theorem enterLane_assigned (items : List TagItem) (n : LaneNo) {s : State} {h : Heat} (hs : s.heat = some h)
    (hv : (h.lanes.get n).state = .vacant) : Assigned items n h s (enterLane items n h s) :=
  ⟨enterLane_heat items n hs hv, mem_queueLane n _, fun _ => rfl⟩

theorem retag_assigned (items : List TagItem) (n : LaneNo) {s : State} {h : Heat} (hs : s.heat = some h)
    (hv : (h.lanes.get n).state ≠ .vacant) : Assigned items n h s (retag items n s) :=
  ⟨retag_heat items n hs hv, mem_queueLane n _, fun e => absurd e hv⟩

/-- The tags that a taken list is written over: none yet in a VACANT lane. -/
def Lane.tagBase (legs : Nat) (l : Lane) : List Word32 := if l.state = .vacant then List.replicate legs 0 else l.tags

theorem assigned_tags (items : List TagItem) (h : Heat) (now : DeckTime) (l : Lane) :
    (l.assigned items h now).tags = writeTags (l.tagBase h.definition.legs) items := by
  unfold Lane.assigned Lane.tagBase
  split <;> rfl

/-- Where a taken list of items is written (R49, R50): the checks by lane state have passed. -/
def TakesTags (items : List TagItem) (n : LaneNo) (h : Heat) : Prop :=
  ((h.lanes.get n).state = .vacant ∧ (∀ g, 1 ≤ g → g ≤ h.definition.legs → ∃ j ∈ items, j.leg.toNat = g) ∧
      (h.phase = .loaded ∨ h.phase = .marks)) ∨
    ((h.lanes.get n).state = .ready ∧ (h.lanes.get n).tags.length = h.definition.legs) ∨
    ((h.lanes.get n).state = .swimming ∧ (h.lanes.get n).tags.length = h.definition.legs ∧
      ∃ k, (h.lanes.get n).leg = some k ∧ ∀ j ∈ items, k < j.leg.toNat)

theorem TakesTags.length_tagBase {items : List TagItem} {n : LaneNo} {h : Heat} (ht : TakesTags items n h) :
    ((h.lanes.get n).tagBase h.definition.legs).length = h.definition.legs := by
  rcases ht with ⟨hv, -, -⟩ | ⟨hr, hlen⟩ | ⟨hw, hlen, -⟩
  · simp [Lane.tagBase, hv]
  · simp [Lane.tagBase, hr, hlen]
  · simp [Lane.tagBase, hw, hlen]

/-- By lane state, a list that passes its checks is written and answered with the tag list. -/
theorem TakesTags.assignByState {items : List TagItem} {n : LaneNo} {h : Heat} {s : State} (ht : TakesTags items n h)
    (hs : s.heat = some h) :
    ∃ t, Assigned items n h s t ∧ assignByState items n h (h.lanes.get n) s = done (tagAnswer n t) t := by
  rcases ht with ⟨hv, hall, hphase⟩ | ⟨hr, -⟩ | ⟨hw, -, k, hk, habove⟩
  · exact ⟨_, enterLane_assigned items n hs hv,
      assignByState_enters n _ s hv ((namesEveryLeg_eq_true_iff _ _).mpr hall) hphase⟩
  · exact ⟨_, retag_assigned items n hs (by simp [hr]), assignByState_retags n _ s (.inl hr)⟩
  · exact ⟨_, retag_assigned items n hs (by simp [hw]),
      assignByState_retags n _ s (.inr ⟨hw, startedLeg_none hk habove⟩)⟩

/-- Settles O34: each check of R49 in its turn, then the tags of R50 by the state of the lane. -/
theorem assignEntrant : Obligations.AssignEntrant := by
  intro l tag b items n s h htakes hb hs hstate
  have hreply : ∀ {t r data}, assign items n h (h.lanes.get n) (counted l s) = ⟨t, r, data⟩ →
      exec (.assignEntrant l tag b items) s = .next (answered l tag 0x09 r data t) := fun hr =>
    exec_laneRequest_of_reply (c := .assignEntrant l tag b items) rfl rfl htakes
      ((performAssignEntrant_taken items (s := counted l s) hb hs hstate).trans hr)
  refine ⟨fun hcount => hreply (assign_count n _ _ hcount), ?_, fun hne hle hfit => ⟨?_, ?_, ?_, ?_⟩⟩
  · rintro before i after rfl hle hfit hi
    exact hreply (assign_range n _ _ hle hfit hi)
  · rintro (hrep | ⟨hv, g, hlo, hhi, hmissing⟩)
    · exact hreply (assign_repeated n _ _ hne hle hfit hrep)
    · by_cases hnd : (items.map TagItem.leg).Nodup
      · refine hreply ((assign_by_state n _ _ hne hle hfit hnd).trans (assignByState_missing n _ _ hv ?_))
        rw [namesEveryLeg_eq_true_iff]
        intro hall
        obtain ⟨j, hj, hleg⟩ := hall g hlo hhi
        exact hmissing j hj hleg
      · exact hreply (assign_repeated n _ _ hne hle hfit hnd)
  · intro hnd hv hall hl hm
    exact hreply ((assign_by_state n _ _ hne hle hfit hnd).trans
      (assignByState_late n _ _ hv ((namesEveryLeg_eq_true_iff _ _).mpr hall) (by simp [hl, hm])))
  · rintro before i after k hnd hw hk rfl habove hi
    exact hreply ((assign_by_state n _ _ hne hle hfit hnd).trans
      (assignByState_started n _ _ hw (startedLeg_first hk habove hi)))
  · intro hnd htakesTags
    obtain ⟨t, ht, hdone⟩ := TakesTags.assignByState (s := counted l s) htakesTags hs
    have hlen := TakesTags.length_tagBase htakesTags
    have htags : ((h.modLane n (Lane.assigned items h s.deckTime)).lanes.get n).tags =
        writeTags ((h.lanes.get n).tagBase h.definition.legs) items := by rw [modLane_get_self, assigned_tags]
    have hlength : ((h.modLane n (Lane.assigned items h s.deckTime)).lanes.get n).tags.length = h.definition.legs := by
      rw [htags, length_writeTags, hlen]
    refine ⟨t, _, ht.heat, ?_, hlength, fun j hj => ?_, fun hv k hk => ?_, ?_, modLane_othersAsBefore n h _, ht.queued,
      ht.header⟩
    · refine hreply ((assign_by_state n _ _ hne hle hfit hnd).trans (hdone.trans ?_))
      rw [tagAnswer_of_heat n ht.heat]
      simp only [counted_deckTime, hlength, done]
    · rw [counted_deckTime, htags]
      exact writeTags_named _ hnd (by rw [hlen]; exact hfit) hj
    · rw [counted_deckTime, htags, writeTags_other _ hk, Lane.tagBase, if_neg hv]
    · rw [counted_deckTime, modLane_get_self]
      by_cases hv : (h.lanes.get n).state = .vacant
      · rw [if_pos hv, Lane.assigned, if_pos hv]
        rfl
      · rw [if_neg hv, Lane.assigned, if_neg hv]

end Sys2Proof.Machine
end

section
/-! A candidate of a lane's line that completes without a condition, and the touches that are turned away (R46, R68, R69, R73,
R75, R87). -/

namespace Sys2Proof.Machine

open Sys2Proof

/-! ## A candidate completes between ACTIVE and IDLE -/

theorem Completes.candidateDue {l : Line} {old new : Level} {since : DeckTime} {s : State}
    (h : Completes l old new since s) : (s.decoder l).candidateDue s.params l s.deckTime = true := by
  simp [Decoder.candidateDue, h.candidate, h.counted, h.lasted]

theorem condition_eq_none {d : Decoder} (h : d.counted.isFault = false) : d.condition = .none := by
  cases hc : d.counted <;> simp [Decoder.condition, hc, Level.isFault] at h ⊢

/-- Between levels that are no fault a change of counted level reports nothing (R142, R143). -/
theorem superviseChange_quiet {i : Fin 71} {old new : Decoder} {s : State} (ho : old.counted.isFault = false)
    (hn : new.counted.isFault = false) (hs : old.stuck ≠ .expired) : superviseChange i old new s = s := by
  rw [superviseChange, reportLine, condition_eq_none ho, condition_eq_none hn, if_pos rfl, if_neg hs]

theorem countLine_quiet {l : Line} {old new : Level} {since : DeckTime} {s : State} (h : Completes l old new since s)
    (ho : old.isFault = false) (hn : new.isFault = false) : countLine s l = countedAt l new since s := by
  simp only [countLine, h.candidate]
  split
  · rfl
  · exact superviseChange_quiet (h.counted.symm ▸ ho) hn h.unstuck

/-- The event of such a change reaches its owner (R144). -/
theorem deliverCounted_quiet {l : Line} {old new : Level} {since : DeckTime} {s : State} (h : Completes l old new since s) :
    deliverCounted s (countedAt l new since s) l = deliver l old new since (countedAt l new since s) := by
  have hin : (countedAt l new since s).lineInService l = true := h.inService
  simp only [deliverCounted, h.candidate, deliverGated, h.counted, if_pos hin]

/-! ## The end of the event of one lane's line -/

theorem leftService_nil {s t : State} (is : List (Fin 71)) (h : t.faults = s.faults) : leftService s t is = [] := by
  simp [leftService, State.inService, h]

theorem judgeFrom_splitCount {j s : State} {n : LaneNo} (h : s.splitCount n = j.splitCount n) :
    judgeFrom n (j.splitCount n) s = s := by
  cases hs : s.heat with
  | none => simp [judgeFrom, hs]
  | some g =>
    refine judgeFrom_none s n _ g hs ?_
    rw [← h]
    simp [State.splitCount, hs]

/-- An event that took no input out of service and left one lane's list and records alone brings no judging. -/
theorem handServices_unjudged {s t : State} (is : List (Fin 71)) {n : LaneNo} (hf : t.faults = s.faults)
    (hothers : ∀ m, m ≠ n → laneView t m = laneView s m) (hx : t.exchangesOf n = s.exchangesOf n)
    (hc : t.splitCount n = s.splitCount n) : handServices s s is t = t := by
  rw [handServices_judges s s t is n (leftService_nil is hf) hothers, judgeTakeoffs_same s t n hx, judgeFrom_splitCount hc]

/-- A touch that reaches its lane: counted, taken, then the judging at the end of its event. -/
theorem exec_touch {e : End} {n : LaneNo} {since : DeckTime} {s : State} (h : Completes (.pad e n) .idle .active since s) :
    exec (.candidateCompletes (.pad e n)) s =
      .next (settle (handServices s s (Line.pad e n).input.toList
        (takeTouch n e (correctedCapture s.params e since) (countedAt (.pad e n) .active since s)))) := by
  show Host.Outcome.next (event (completeLines [.pad e n]) s) = _
  rw [event_running h.running, completeLines_one s _ h.candidateDue, countLine_quiet h rfl rfl, deliverCounted_quiet h]
  rfl

/-- A touch its lane turns away leaves its decoder's count alone. -/
theorem exec_touch_ignored {e : End} {n : LaneNo} {since : DeckTime} {s : State}
    (h : Completes (.pad e n) .idle .active since s)
    (ht : takeTouch n e (correctedCapture s.params e since) (countedAt (.pad e n) .active since s) =
      countedAt (.pad e n) .active since s) :
    exec (.candidateCompletes (.pad e n)) s = .next (settle (countedAt (.pad e n) .active since s)) := by
  rw [exec_touch h, ht, handServices_unjudged (s := s) (t := countedAt _ _ _ s) (n := n) _ rfl (fun _ _ => rfl) rfl rfl]

/-! ## Touches by lane state (R46, R68, R87) -/

section
variable {e : End} {n : LaneNo} {capture : DeckTime} {s : State} {h : Heat}

theorem takeTouch_idle
    (hidle : ∀ h, s.heat = some h → (h.lanes.get n).state ≠ .swimming ∧ (h.lanes.get n).state ≠ .collect) :
    takeTouch n e capture s = s := by
  unfold takeTouch
  split
  · rfl
  · next h hs =>
    obtain ⟨hswim, hcollect⟩ := hidle h hs
    split
    · next hst _ => exact absurd hst hswim
    · next hst => exact absurd hst hcollect
    · rfl

theorem takeTouch_collect (hs : s.heat = some h) (hst : (h.lanes.get n).state = .collect) :
    takeTouch n e capture s = if e = h.definition.finishEnd then fillSlot n .pad (h.raceTime capture) s else s := by
  simp only [takeTouch, hs, hst]

theorem takeTouch_swimming {x : Expectation} (hs : s.heat = some h) (hst : (h.lanes.get n).state = .swimming)
    (hx : (h.lanes.get n).expectation = some x) :
    takeTouch n e capture s = judgeTouch n h x e (h.raceTime capture) s := by
  simp only [takeTouch, hs, hst, hx]

end

theorem State.modLane_congr {s : State} {h : Heat} {n : LaneNo} {f g : Lane → Lane} (hs : s.heat = some h)
    (hfg : f (h.lanes.get n) = g (h.lanes.get n)) : s.modLane n f = s.modLane n g := by
  simp only [State.modLane, State.modHeat, hs, Option.map_some, Machine.modLane_congr hfg]

theorem State.modLane_same {s : State} {h : Heat} {n : LaneNo} {f : Lane → Lane} (hs : s.heat = some h)
    (hf : f (h.lanes.get n) = h.lanes.get n) : s.modLane n f = s := by
  rw [State.modLane, State.modHeat, hs, Option.map_some, Heat.modLane, updAt_same _ _ _ hf, ← hs]

/-- A contact before the start, at or below the floor, or on a filled slot changes nothing (R87). -/
theorem fillSlot_stays {n : LaneNo} {k : CollectionSlot} {t : Nat} {s : State} {h : Heat} {c : Collection}
    (hs : s.heat = some h) (hc : (h.lanes.get n).collection = some c)
    (hno : halfRange ≤ t ∨ t ≤ lastTimedTime (h.lanes.get n).splits ∨ c.read k ≠ none) : fillSlot n k t s = s := by
  refine State.modLane_same hs ?_
  simp only [hc]
  rw [if_pos]
  simpa [beforeStart, Option.isSome_iff_ne_none, or_assoc] using hno

/-! ## The rows of R68 that turn a touch away -/

theorem offset_eq_offsetByTable (d : Definition) (l : Lane) : l.offset d = offsetByTable d l := by
  have hsized : l.sizedOffset d = sizedByTable d l.timing l.d1 l.d2 := by
    cases hm : l.timing.mode <;> cases hb : l.timing.basis <;>
      simp [Lane.sizedOffset, sizedByTable, Lane.basisDuration, hm, hb]
  simp only [Lane.offset, offsetByTable, hsized]

theorem skipWindow_eq_skipBound (d : Definition) (l : Lane) (x : Expectation) : skipWindow d l x = skipBound d l x := by
  rw [skipWindow, skipBound, offset_eq_offsetByTable, Lane.span]

section
variable {n : LaneNo} {h : Heat} {x : Expectation} {e : End} {t : Nat} (s : State)

theorem judgeTouch_ignored (hno : halfRange ≤ t ∨ e ≠ x.finish ∧ t < x.reference + h.definition.turnLockout) :
    judgeTouch n h x e t s = s := by
  unfold judgeTouch
  by_cases hb : halfRange ≤ t
  · rw [if_pos (by simpa [beforeStart] using hb)]
  · obtain ⟨hend, hlock⟩ := hno.resolve_left hb
    rw [if_neg (by simpa [beforeStart] using hb), if_neg hend, if_pos hlock]

theorem judgeTouch_early (ht : t < halfRange) (hend : e = x.finish) (hw : t < x.window) :
    judgeTouch n h x e t s = rejectTouch n t e .early x.length s := by
  rw [judgeTouch, if_neg (by simpa [beforeStart] using ht), if_pos hend, if_pos hw]

theorem judgeTouch_wrongEnd (ht : t < halfRange) (hend : e ≠ x.finish)
    (hlock : x.reference + h.definition.turnLockout ≤ t)
    (hskip : h.definition.lengths ≤ x.length ∨ t < skipBound h.definition (h.lanes.get n) x) :
    judgeTouch n h x e t s = rejectTouch n t e .wrongEnd x.length s := by
  rw [judgeTouch, if_neg (by simpa [beforeStart] using ht), if_neg hend, if_neg (Nat.not_lt.mpr hlock), if_neg]
  rw [skipWindow_eq_skipBound]
  omega

end

/-! ## Rejection (R59) -/

/-- A lane with one more rejection: of nine entries the oldest goes (R59). -/
def Lane.reject (entry : RejectedEntry) (r : Lane) : Lane :=
  { r with
    rejections := entry.number
    rejected := (if r.rejected.length < 8 then r.rejected else r.rejected.drop 1) ++ [entry] }

theorem rejectTouch_eq {n : LaneNo} {t : Nat} {e : End} {reason : RejectReason} {k : Nat} {s : State} {h : Heat}
    {entry : RejectedEntry} (hs : s.heat = some h)
    (hentry : entry = ⟨nextRejection (h.lanes.get n).rejections, t, e, reason, k⟩) :
    rejectTouch n t e reason k s =
      raise (.reject n entry
          (if (h.lanes.get n).rejected.length < 8 then none
            else (h.lanes.get n).rejected.head?.map RejectedEntry.number))
        (s.modLane n (Lane.reject entry)) := by
  subst hentry
  by_cases hfull : 8 ≤ (h.lanes.get n).rejected.length
  · have hlt : ¬ (h.lanes.get n).rejected.length < 8 := Nat.not_lt.mpr hfull
    simp only [rejectTouch, hs, hfull, hlt, decide_true, if_true, if_false]
    exact congrArg (raise _) (State.modLane_congr hs (by simp only [Lane.reject, if_neg hlt]))
  · have hlt : (h.lanes.get n).rejected.length < 8 := Nat.lt_of_not_le hfull
    simp only [rejectTouch, hs, hfull, hlt, decide_false, if_true, Bool.false_eq_true, if_false]
    exact congrArg (raise _) (State.modLane_congr hs (by simp only [Lane.reject, if_pos hlt]))

/-- A rejection leaves the lanes' split lists and exchange records, so its event brings no judging. -/
theorem handServices_rejected {s u : State} {h : Heat} (is : List (Fin 71)) (q : Notice) (n : LaneNo)
    (entry : RejectedEntry) (hs : s.heat = some h) (hu : u.heat = s.heat) (hf : u.faults = s.faults) :
    handServices s s is (raise q (u.modLane n (Lane.reject entry))) = raise q (u.modLane n (Lane.reject entry)) := by
  refine handServices_unjudged (n := n) is hf (fun m hm => ?_) ?_ ?_
  · simp [laneView, hu, hs, modLane_get, hm]
  · simp [State.exchangesOf, hu, hs, Lane.reject]
  · simp [State.splitCount, hu, hs, Lane.reject]

/-- A touch that the rows of R68 reject (R69, R75). -/
theorem exec_touch_rejected {e : End} {n : LaneNo} {since : DeckTime} {s : State} {h : Heat} {x : Expectation}
    {reason : RejectReason} {entry : RejectedEntry} {t : Nat} (hc : Completes (.pad e n) .idle .active since s)
    (hs : s.heat = some h) (hentry : entry = ⟨nextRejection (h.lanes.get n).rejections, t, e, reason, x.length⟩)
    (ht : takeTouch n e (correctedCapture s.params e since) (countedAt (.pad e n) .active since s) =
      rejectTouch n t e reason x.length (countedAt (.pad e n) .active since s)) :
    exec (.candidateCompletes (.pad e n)) s =
      .next (settle (raise (.reject n entry
          (if (h.lanes.get n).rejected.length < 8 then none
            else (h.lanes.get n).rejected.head?.map RejectedEntry.number))
        ((countedAt (.pad e n) .active since s).modLane n (Lane.reject entry)))) := by
  rw [exec_touch hc, ht, rejectTouch_eq (s := countedAt (.pad e n) .active since s) hs hentry,
    handServices_rejected (u := countedAt _ _ _ s) _ _ n entry hs rfl rfl]

theorem raceTime_of_start {h : Heat} {start : DeckTime} (hstart : h.startTime = some start) (c : DeckTime) :
    h.raceTime c = (c - start).toNat := by simp [Heat.raceTime, raceTimeFrom, hstart]

/-- Settles O40: by lane state, then by the rows of R68. -/
theorem touchesTurnedAway : Obligations.TouchesTurnedAway := by
  refine ⟨fun e n since s hc hidle => exec_touch_ignored hc (takeTouch_idle hidle), ?_⟩
  intro e n since start t s h hc hs hstart ht
  have htime : h.raceTime (correctedCapture s.params e since) = t := (raceTime_of_start hstart _).trans ht.symm
  refine ⟨fun hswim hcollect => exec_touch_ignored hc (takeTouch_idle fun g hg => ?_), fun c hst hcoll hno => ?_,
    fun x hst hx => ⟨fun hno => ?_, fun reason entry hlt hwhy hentry => ?_⟩⟩
  · obtain rfl : h = g := Option.some.inj (hs.symm.trans hg)
    exact ⟨hswim, hcollect⟩
  · refine exec_touch_ignored hc ?_
    rw [takeTouch_collect (s := countedAt _ _ _ s) hs hst, htime]
    by_cases hend : e = h.definition.finishEnd
    · rw [if_pos hend]
      exact fillSlot_stays (s := countedAt _ _ _ s) hs hcoll (hno.resolve_left (not_not_intro hend))
    · rw [if_neg hend]
  · refine exec_touch_ignored hc ?_
    rw [takeTouch_swimming (s := countedAt _ _ _ s) hs hst hx, htime]
    exact judgeTouch_ignored _ hno
  · refine exec_touch_rejected (x := x) hc hs hentry ?_
    rw [takeTouch_swimming (s := countedAt _ _ _ s) hs hst hx, htime]
    rcases hwhy with ⟨hend, hw, rfl⟩ | ⟨hend, hlock, hskip, rfl⟩
    · exact judgeTouch_early _ hlt hend hw
    · exact judgeTouch_wrongEnd _ hlt hend hlock hskip

end Sys2Proof.Machine
end

section
/-! What a lane request leaves alone: the frame of each operation on the race, then of every owner's reply. -/

namespace Sys2Proof.Machine

open Sys2Proof

/-! ## The race but for one lane -/

/-- The order in which a race runs through its phases. -/
def RacePhase.rank : RacePhase → Nat
  | .loaded => 0
  | .marks => 1
  | .running => 2
  | .review => 3
  | .final => 4

/-- A race in which one lane, its hold set and DQ mark, and the places may have changed; the race state moves on or stays, and
while it stays so do its stop time and timers. -/
structure RaceFrame (n : LaneNo) (h g : Heat) : Prop where
  definition : g.definition = h.definition
  startTime : g.startTime = h.startTime
  recalls : g.recalls = h.recalls
  overtimeFlag : g.overtimeFlag = h.overtimeFlag
  moves : (g.phase = h.phase ∧ g.stopTime = h.stopTime ∧ g.overtimeTimer = h.overtimeTimer ∧ g.advance = h.advance) ∨
    h.phase.rank < g.phase.rank
  others : ∀ m, m ≠ n → g.lanes.get m = h.lanes.get m ∧ (g.desks.get m).hold = (h.desks.get m).hold ∧
    (g.desks.get m).dq = (h.desks.get m).dq

namespace RaceFrame

variable {n : LaneNo} {h g k : Heat}

/-- Lanes and desks alone have changed, and these at one place but for the places. -/
theorem of_rest (hrest : g = { h with lanes := g.lanes, desks := g.desks, placing := g.placing })
    (hothers : ∀ m, m ≠ n → g.lanes.get m = h.lanes.get m ∧ (g.desks.get m).hold = (h.desks.get m).hold ∧
      (g.desks.get m).dq = (h.desks.get m).dq) : RaceFrame n h g := by
  refine ⟨?_, ?_, ?_, ?_, .inl ⟨?_, ?_, ?_, ?_⟩, hothers⟩ <;> rw [hrest]

theorem of_othersAsBefore (hrest : g = { h with lanes := g.lanes, desks := g.desks }) (hothers : othersAsBefore n h g) :
    RaceFrame n h g := by
  refine of_rest ?_ fun m hm => ?_
  · rw [hrest]
  · obtain ⟨hlane, hdesk⟩ := hothers m hm
    exact ⟨hlane, by rw [hdesk], by rw [hdesk]⟩

theorem refl (n : LaneNo) (h : Heat) : RaceFrame n h h := of_othersAsBefore rfl fun _ _ => ⟨rfl, rfl⟩

theorem trans (hg : RaceFrame n h g) (gk : RaceFrame n g k) : RaceFrame n h k where
  definition := gk.definition.trans hg.definition
  startTime := gk.startTime.trans hg.startTime
  recalls := gk.recalls.trans hg.recalls
  overtimeFlag := gk.overtimeFlag.trans hg.overtimeFlag
  moves := by
    rcases hg.moves with ⟨p1, s1, o1, a1⟩ | lt1 <;> rcases gk.moves with ⟨p2, s2, o2, a2⟩ | lt2
    · exact .inl ⟨p2.trans p1, s2.trans s1, o2.trans o1, a2.trans a1⟩
    · exact .inr (p1 ▸ lt2)
    · exact .inr (p2.symm ▸ lt1)
    · exact .inr (lt1.trans lt2)
  others := fun m hm => by
    obtain ⟨l1, h1, d1⟩ := hg.others m hm
    obtain ⟨l2, h2, d2⟩ := gk.others m hm
    exact ⟨l2.trans l1, h2.trans h1, d2.trans d1⟩

/-- While the race state stays, so do its stop time and timers. -/
theorem timers (hg : RaceFrame n h g) (hp : g.phase = h.phase) :
    g.stopTime = h.stopTime ∧ g.overtimeTimer = h.overtimeTimer ∧ g.advance = h.advance := by
  rcases hg.moves with ⟨-, rest⟩ | lt
  · exact rest
  · rw [hp] at lt
    exact absurd lt (Nat.lt_irrefl _)

theorem modLane (n : LaneNo) (h : Heat) (f : Lane → Lane) : RaceFrame n h (h.modLane n f) :=
  of_othersAsBefore rfl (modLane_othersAsBefore n h f)

theorem modDesk (n : LaneNo) (h : Heat) (f : Desk → Desk) : RaceFrame n h (h.modDesk n f) :=
  of_othersAsBefore rfl (modDesk_othersAsBefore n h f)

theorem replaced (n : LaneNo) (h : Heat) : RaceFrame n h h.replaced :=
  of_rest rfl fun m _ => ⟨rfl, by rw [replaced_get], by rw [replaced_get]⟩

theorem reviewed (n : LaneNo) (h : Heat) (now : DeckTime) : RaceFrame n h (h.reviewed now) := by
  unfold Heat.reviewed
  split
  · next hrun => exact ⟨rfl, rfl, rfl, rfl, .inr (by simp [hrun.1, RacePhase.rank]), fun _ _ => ⟨rfl, rfl, rfl⟩⟩
  · exact refl n h

theorem finalised (n : LaneNo) (h : Heat) (p : Params) (now : DeckTime) : RaceFrame n h (h.finalised p now) := by
  unfold Heat.finalised
  split
  · next hrev => exact ⟨rfl, rfl, rfl, rfl, .inr (by simp [hrev.1, RacePhase.rank]), fun _ _ => ⟨rfl, rfl, rfl⟩⟩
  · exact refl n h

theorem releasedLane (n : LaneNo) (h : Heat) (p : Params) (now : DeckTime) : RaceFrame n h (h.releasedLane n p now) := by
  unfold Heat.releasedLane
  split
  · exact refl n h
  · exact (modLane n h _).trans (finalised n _ p now)

theorem checked (n : LaneNo) (h : Heat) (p : Params) (now : DeckTime) : RaceFrame n h (h.checked n p now) := by
  unfold Heat.checked
  split
  · exact releasedLane n h p now
  · exact refl n h

theorem finishedLane (n : LaneNo) (h : Heat) (core : ResultCore) (rs : List Reason) (p : Params) (now : DeckTime) :
    RaceFrame n h (h.finishedLane n core rs p now) := by
  have hlane := (modLane n h (Lane.finish core)).trans (modDesk n _ (Desk.addReasons rs))
  unfold Heat.finishedLane
  dsimp only
  split
  · exact (((hlane.trans (replaced n _)).trans (checked n _ p now)).trans (reviewed n _ now)).trans (finalised n _ p now)
  · exact ((hlane.trans (checked n _ p now)).trans (reviewed n _ now)).trans (finalised n _ p now)

end RaceFrame

/-! ## Operations on one lane -/

/-- Nothing but one lane of the race, places, notices and the board's pending work has changed. -/
structure LaneOnly (n : LaneNo) (s t : State) : Prop where
  only : RaceOnly s t
  race : ∀ h, s.heat = some h → ∃ g, t.heat = some g ∧ RaceFrame n h g

namespace LaneOnly

variable {n : LaneNo} {s t u : State}

theorem of_map (f : Heat → Heat) (ho : RaceOnly s t) (ht : t.heat = s.heat.map f) (hf : ∀ h, RaceFrame n h (f h)) :
    LaneOnly n s t :=
  ⟨ho, fun h hs => ⟨f h, by rw [ht, hs, Option.map_some], hf h⟩⟩

theorem of_heat (ho : RaceOnly s t) (ht : t.heat = s.heat) : LaneOnly n s t :=
  of_map id ho (by simpa using ht) fun h => RaceFrame.refl n h

theorem refl (n : LaneNo) (s : State) : LaneOnly n s s := of_heat (RaceOnly.refl s) rfl

theorem trans (st : LaneOnly n s t) (tu : LaneOnly n t u) : LaneOnly n s u := by
  refine ⟨st.only.trans tu.only, fun h hs => ?_⟩
  obtain ⟨g, hg, f1⟩ := st.race h hs
  obtain ⟨k, hk, f2⟩ := tu.race g hg
  exact ⟨k, hk, f1.trans f2⟩

theorem of_judgedTo (ho : RaceOnly s t) (hj : JudgedTo n s t) : LaneOnly n s t := by
  refine ⟨ho, fun h hs => ?_⟩
  obtain ⟨g, hg, j⟩ := hj h hs
  exact ⟨g, hg, RaceFrame.of_othersAsBefore j.rest j.others⟩

theorem modLane (n : LaneNo) (s : State) (f : Lane → Lane) : LaneOnly n s (s.modLane n f) :=
  of_map _ (RaceOnly.modLane s n f) rfl fun h => RaceFrame.modLane n h f

theorem changeDesk (n : LaneNo) (c : HoldCause) (l : Option Link) (f : Desk → Desk) (s : State) :
    LaneOnly n s (Machine.changeDesk n c l f s) :=
  of_map _ (RaceOnly.changeDesk n c l f s) (changeDesk_heat n c l f s) fun h => RaceFrame.modDesk n h f

theorem queueLane (n m : LaneNo) (s : State) : LaneOnly n s (Machine.queueLane m s) := of_heat (RaceOnly.queueLane m s) rfl

theorem raise (n : LaneNo) (q : Notice) (s : State) : LaneOnly n s (Machine.raise q s) := of_heat (RaceOnly.raise q s) rfl

theorem recomputePlaces (n : LaneNo) (s : State) : LaneOnly n s (Machine.recomputePlaces s) :=
  of_map _ (RaceOnly.recomputePlaces s) (recomputePlaces_heat s) fun h => RaceFrame.replaced n h

theorem releaseLane (n : LaneNo) (c : Option Link) (s : State) : LaneOnly n s (Machine.releaseLane n c s) :=
  of_map _ (RaceOnly.releaseLane n c s) (releaseLane_heat n c s) fun h => RaceFrame.releasedLane n h _ _

theorem releaseCheck (n : LaneNo) (s : State) : LaneOnly n s (Machine.releaseCheck n s) :=
  of_map _ (RaceOnly.releaseCheck n s) (releaseCheck_heat n s) fun h => RaceFrame.checked n h _ _

theorem finishLane (n : LaneNo) (core : ResultCore) (l : Option Link) (rs : List Reason) (s : State) :
    LaneOnly n s (Machine.finishLane n core l rs s) :=
  of_map _ (RaceOnly.finishLane n core l rs s) (finishLane_heat n core l rs s) fun h =>
    RaceFrame.finishedLane n h core rs _ _

theorem abandonExchanges (n : LaneNo) (s : State) : LaneOnly n s (Machine.abandonExchanges n s) :=
  of_judgedTo (RaceOnly.abandonExchanges n s) (abandonExchanges_exchanged s n).judged

theorem judgeFrom (n : LaneNo) (k : Nat) (s : State) : LaneOnly n s (Machine.judgeFrom n k s) :=
  of_judgedTo (RaceOnly.judgeFrom n k s) (judgeFrom_judged s n k)

theorem addSplit (n : LaneNo) (e : SplitEntry) (p : Option Promotion) (s : State) :
    LaneOnly n s (Machine.addSplit n e p s) :=
  of_map _ (RaceOnly.addSplit n e p s) (addSplit_heat n e p s) fun h => RaceFrame.modLane n h _

theorem expectLength (n : LaneNo) (k r : Nat) (s : State) : LaneOnly n s (Machine.expectLength n k r s) :=
  of_map _ (RaceOnly.expectLength n k r s) rfl fun h => RaceFrame.modLane n h _

theorem inferAll (n : LaneNo) (s : State) : LaneOnly n s (Machine.inferAll n s) := by
  refine ⟨RaceOnly.inferAll n s, fun h hs => ?_⟩
  obtain ⟨g, hg, i⟩ := inferAll_inferred n s h hs
  exact ⟨g, hg, RaceFrame.of_othersAsBefore i.rest i.others⟩

theorem acceptLength (n : LaneNo) (k t : Nat) (q : SplitSource) (p : Option Promotion) (s : State) :
    LaneOnly n s (Machine.acceptLength n k t q p s) := by
  unfold Machine.acceptLength
  split
  · exact refl n s
  · split
    · exact refl n s
    · exact (((addSplit n _ p s).trans (modLane n _ _)).trans (expectLength n _ _ _)).trans (inferAll n _)

theorem openCollect (n : LaneNo) (o : Nat) (k : CollectionSlot) (t : Nat) (s : State) :
    LaneOnly n s (Machine.openCollect n o k t s) :=
  of_map _ (RaceOnly.openCollect n o k t s) rfl fun h => RaceFrame.modLane n h _

theorem addFinalSplit (n : LaneNo) (t : Nat) (q : SplitSource) (s : State) :
    LaneOnly n s (Machine.addFinalSplit n t q s) := by
  unfold Machine.addFinalSplit
  split
  · exact refl n s
  · exact (addSplit n _ none s).trans (judgeFrom n _ _)

theorem promoteEntry (l : Link) (n : LaneNo) (h : Heat) (x : Expectation) (r : RejectedEntry) (s : State) :
    LaneOnly n s (Machine.promoteEntry l n h x r s) := by
  unfold Machine.promoteEntry
  dsimp only
  split
  · exact ((modLane n s _).trans (acceptLength n _ _ _ _ _)).trans (judgeFrom n _ _)
  · exact (modLane n s _).trans (openCollect n _ _ _ _)

theorem replaceFinish (l : Link) (t o : Nat) (b : Option Nat) (n : LaneNo) (s : State) :
    LaneOnly n s (Machine.replaceFinish l t o b n s) := by
  have hcore : ∀ f : Heat → Lane → Lane, LaneOnly n s (s.modHeat fun h => h.modLane n (f h)) := fun f =>
    of_map _ (RaceOnly.modHeat s _ fun _ => rfl) rfl fun h => RaceFrame.modLane n h _
  exact (((((hcore _).trans (raise n _ _)).trans (queueLane n n _)).trans (changeDesk n _ _ _ _)).trans
    (recomputePlaces n _)).trans (releaseCheck n _)

theorem scratch (l : Link) (n : LaneNo) (s : State) : LaneOnly n s (Machine.scratch l n s) :=
  of_map _ (RaceOnly.scratch l n s) (scratch_heat l n s) fun h => (RaceFrame.modLane n h _).trans (RaceFrame.modDesk n _ _)

theorem replaceIfTimed (n : LaneNo) (x : Lane) (s : State) : LaneOnly n s (Machine.replaceIfTimed x s) := by
  unfold Machine.replaceIfTimed
  split
  · exact recomputePlaces n s
  · exact refl n s

end LaneOnly

/-! ## The owners' replies -/

theorem refusal_eq_none_iff (g : LaneGate) : g.refusal = none ↔ g = .taken := by
  cases g <;> simp [LaneGate.refusal]

/-- The checks 1 to 3 change nothing. -/
theorem laneRequest_laneOnly {b : Byte} {n : LaneNo} (hb : b.toNat = n.val) (row : LaneState → LaneGate)
    (own : LaneNo → Heat → Lane → State → Reply) (s : State)
    (hown : ∀ h, s.heat = some h → row (h.lanes.get n).state = .taken →
      LaneOnly n s (own n h (h.lanes.get n) s).state) : LaneOnly n s (laneRequest b row own s).state := by
  cases hs : s.heat with
  | none =>
    rw [laneRequest_empty (laneOfByte_of_toNat hb) hs]
    exact LaneOnly.refl n s
  | some h =>
    cases hrow : (row (h.lanes.get n).state).refusal with
    | none =>
      have htaken := (refusal_eq_none_iff _).mp hrow
      rw [laneRequest_taken (laneOfByte_of_toNat hb) hs htaken]
      exact hown h hs htaken
    | some r =>
      rw [laneRequest_refused (laneOfByte_of_toNat hb) hs hrow]
      exact LaneOnly.refl n s

section
variable {b : Byte} {n : LaneNo} (hb : b.toNat = n.val) (s : State)
include hb

theorem performScratchLane_laneOnly (l : Link) : LaneOnly n s (performScratchLane l b s).state := by
  refine laneRequest_laneOnly hb _ _ s fun h _ _ => ?_
  split
  · exact LaneOnly.refl n s
  · exact LaneOnly.scratch l n s

theorem performAssignEntrant_laneOnly (items : List TagItem) : LaneOnly n s (performAssignEntrant b items s).state := by
  have hwritten : ∀ {h t}, s.heat = some h → RaceOnly s t → Assigned items n h s t → LaneOnly n s t := fun hs ho ha =>
    ⟨ho, fun g hg => ⟨_, ha.heat, Option.some.inj (hs.symm.trans hg) ▸ RaceFrame.modLane n _ _⟩⟩
  refine laneRequest_laneOnly hb _ _ s fun h hs _ => ?_
  unfold assign
  split
  · exact LaneOnly.refl n s
  split
  · exact LaneOnly.refl n s
  split
  · exact LaneOnly.refl n s
  unfold assignByState
  split
  · next hv =>
    split
    · exact LaneOnly.refl n s
    split
    · exact hwritten hs (RaceOnly.enterLane items n h s) (enterLane_assigned items n hs hv)
    · exact LaneOnly.refl n s
  · next hv =>
    split
    · exact LaneOnly.refl n s
    · exact hwritten hs (RaceOnly.retag items n s) (retag_assigned items n hs hv)

theorem performSetLaneTiming_laneOnly (timing : TimingBody) : LaneOnly n s (performSetLaneTiming b timing s).state := by
  unfold performSetLaneTiming
  split
  · exact LaneOnly.refl n s
  refine laneRequest_laneOnly hb _ _ s fun h _ _ => ?_
  unfold setTiming
  split
  · exact LaneOnly.refl n s
  · exact LaneOnly.modLane n s _

theorem performPromote_laneOnly (l : Link) (number : Word16) : LaneOnly n s (performPromote l b number s).state := by
  have hanswer : ∀ k u, (promoteAnswer n k u).state = u := fun k u => by
    unfold promoteAnswer
    split <;> rfl
  unfold performPromote
  split
  · exact LaneOnly.refl n s
  refine laneRequest_laneOnly hb _ _ s fun h _ _ => ?_
  unfold promote
  split
  · split
    · exact LaneOnly.refl n s
    · rw [hanswer]
      exact LaneOnly.promoteEntry l n h _ _ s
  · exact LaneOnly.refl n s

theorem performDeclareNoFinish_laneOnly (l : Link) : LaneOnly n s (performDeclareNoFinish l b s).state :=
  laneRequest_laneOnly hb _ _ s fun _ _ _ => (LaneOnly.abandonExchanges n s).trans (LaneOnly.finishLane n _ _ _ _)

theorem performEnterFinish_laneOnly (l : Link) (time : Word32) : LaneOnly n s (performEnterFinish l b time s).state := by
  refine laneRequest_laneOnly hb _ _ s fun h _ _ => ?_
  unfold enterFinish
  split
  · exact LaneOnly.refl n s
  split
  · exact LaneOnly.refl n s
  · exact (LaneOnly.addFinalSplit n _ _ s).trans (LaneOnly.finishLane n _ _ _ _)

theorem performAdjustFinish_laneOnly (l : Link) (time : Word32) : LaneOnly n s (performAdjustFinish l b time s).state := by
  refine laneRequest_laneOnly hb _ _ s fun h _ _ => ?_
  unfold adjustFinish
  split
  · split
    · exact LaneOnly.refl n s
    · exact LaneOnly.replaceFinish l _ _ _ n s
  · exact LaneOnly.refl n s
  · exact LaneOnly.refl n s

theorem performReadLane_laneOnly : LaneOnly n s (performReadLane b s).state :=
  laneRequest_laneOnly hb _ _ s fun _ _ _ => LaneOnly.refl n s

theorem performReadSplits_laneOnly (first : Byte) : LaneOnly n s (performReadSplits b first s).state := by
  unfold performReadSplits
  split
  · exact LaneOnly.refl n s
  · exact laneRequest_laneOnly hb _ _ s fun _ _ _ => LaneOnly.refl n s

theorem performHoldLane_laneOnly (l : Link) : LaneOnly n s (performHoldLane l b s).state := by
  refine laneRequest_laneOnly hb _ _ s fun h _ _ => ?_
  split
  · exact LaneOnly.refl n s
  · exact LaneOnly.changeDesk n _ _ _ s

theorem performUnholdLane_laneOnly (l : Link) : LaneOnly n s (performUnholdLane l b s).state := by
  refine laneRequest_laneOnly hb _ _ s fun h _ _ => ?_
  split
  · exact (LaneOnly.changeDesk n _ _ _ s).trans (LaneOnly.releaseCheck n _)
  · exact LaneOnly.refl n s

theorem performClearSystemHold_laneOnly (l : Link) (reasons : Byte) :
    LaneOnly n s (performClearSystemHold l b reasons s).state := by
  unfold performClearSystemHold
  split
  · exact LaneOnly.refl n s
  refine laneRequest_laneOnly hb _ _ s fun h _ _ => ?_
  split
  · exact LaneOnly.refl n s
  · exact (LaneOnly.changeDesk n _ _ _ s).trans (LaneOnly.releaseCheck n _)

theorem performReleaseLane_laneOnly (l : Link) : LaneOnly n s (performReleaseLane l b s).state := by
  refine laneRequest_laneOnly hb _ _ s fun h _ _ => ?_
  split
  · exact LaneOnly.releaseLane n _ s
  · exact LaneOnly.refl n s

theorem performDisqualify_laneOnly (l : Link) (code : Byte) : LaneOnly n s (performDisqualify l b code s).state := by
  refine laneRequest_laneOnly hb _ _ s fun h _ _ => ?_
  split
  · exact LaneOnly.refl n s
  · exact ((LaneOnly.changeDesk n _ _ _ s).trans (LaneOnly.queueLane n n _)).trans (LaneOnly.replaceIfTimed n _ _)

theorem performReinstate_laneOnly (l : Link) : LaneOnly n s (performReinstate l b s).state := by
  refine laneRequest_laneOnly hb _ _ s fun h _ _ => ?_
  split
  · exact LaneOnly.refl n s
  · exact ((LaneOnly.changeDesk n _ _ _ s).trans (LaneOnly.queueLane n n _)).trans (LaneOnly.replaceIfTimed n _ _)

/-- Every lane request's owner works on its own lane. -/
theorem lanePerform_laneOnly {c : Instr} (hc : laneOf c = some b) : LaneOnly n s (lanePerform c s).state := by
  cases c <;> cases hc
  case scratchLane l _ => exact performScratchLane_laneOnly hb s l
  case assignEntrant items => exact performAssignEntrant_laneOnly hb s items
  case setLaneTiming timing => exact performSetLaneTiming_laneOnly hb s timing
  case promoteTouch l _ number => exact performPromote_laneOnly hb s l number
  case declareNoFinish l _ => exact performDeclareNoFinish_laneOnly hb s l
  case enterFinish l _ time => exact performEnterFinish_laneOnly hb s l time
  case adjustFinish l _ time => exact performAdjustFinish_laneOnly hb s l time
  case readLane => exact performReadLane_laneOnly hb s
  case readSplits first => exact performReadSplits_laneOnly hb s first
  case holdLane l _ => exact performHoldLane_laneOnly hb s l
  case unholdLane l _ => exact performUnholdLane_laneOnly hb s l
  case clearSystemHold l _ reasons => exact performClearSystemHold_laneOnly hb s l reasons
  case releaseLane l _ => exact performReleaseLane_laneOnly hb s l
  case disqualify l _ code => exact performDisqualify_laneOnly hb s l code
  case reinstate l _ => exact performReinstate_laneOnly hb s l

end

/-! ## The event around the reply -/

@[simp] theorem arbitrate_outgoing (c : Clu) : c.arbitrate.outgoing = c.outgoing := by
  unfold Clu.arbitrate
  split <;> simp [Clu.outgoing, Clu.send, *]

@[simp] theorem arbitrate_unanswered (c : Clu) : c.arbitrate.unanswered = c.unanswered := by
  unfold Clu.arbitrate
  split <;> rfl

@[simp] theorem arbitrate_mask (c : Clu) : c.arbitrate.mask = c.mask := by
  unfold Clu.arbitrate
  split <;> rfl

@[simp] theorem arbitrate_framer (c : Clu) : c.arbitrate.framer = c.framer := by
  unfold Clu.arbitrate
  split <;> rfl

theorem pushAnswer_get (l k : Link) (a : Answer) (s : State) :
    (pushAnswer l a s).links.get k =
      if k = l then { s.links.get l with answers := (s.links.get l).answers ++ [a] } else s.links.get k := by
  simp [pushAnswer, PerLink.get_put]

theorem counted_get (l k : Link) (s : State) :
    (counted l s).links.get k =
      if k = l then { s.links.get l with unanswered := (s.links.get l).unanswered + 1 } else s.links.get k := by
  simp [counted, PerLink.get_put]

theorem heat_eq_none_iff_currentId (s : State) : s.heat = none ↔ s.currentId = none := by simp [State.currentId]

namespace LaneUntouched

variable {n : LaneNo} {l : Link} {s u : State}

theorem refl (n : LaneNo) (l : Link) (s : State) : LaneUntouched n l s s :=
  ⟨rfl, rfl, rfl, rfl, rfl, rfl, rfl, rfl, rfl, rfl, rfl, id,
    fun h hs => ⟨h, hs, rfl, rfl, rfl, rfl, fun _ => ⟨rfl, rfl, rfl⟩, fun _ _ => ⟨rfl, rfl, rfl⟩⟩, fun _ => ⟨rfl, rfl⟩,
    fun _ _ => ⟨rfl, rfl⟩⟩

/-- What an owner leaves of the state in which its request was counted. -/
theorem of_laneOnly (h : LaneOnly n (counted l s) u) : LaneUntouched n l s u where
  phase := h.only.phase
  deckTime := h.only.deckTime
  resetn := h.only.resetn
  resetPending := h.only.resetPending
  params := h.only.params
  queue := h.only.queue
  decoders := h.only.decoders
  faults := h.only.faults
  linkFaults := h.only.linkFaults
  pending := h.only.pending
  choices := h.only.choices
  empty := fun hs => by
    rw [heat_eq_none_iff_currentId, h.only.currentId]
    exact (heat_eq_none_iff_currentId _).mp hs
  race := fun g hg => by
    obtain ⟨k, hk, f⟩ := h.race g hg
    exact ⟨k, hk, f.definition, f.startTime, f.recalls, f.overtimeFlag, f.timers, f.others⟩
  receivers := fun k => by
    have hk := h.only.links k
    rw [hk.mask, hk.framer, counted_get]
    split
    · next e => exact e ▸ ⟨rfl, rfl⟩
    · exact ⟨rfl, rfl⟩
  links := fun k hne => by
    have hk := h.only.links k
    rw [Clu.outgoing, hk.flight, hk.answers, hk.unanswered, counted_get, if_neg hne]
    exact ⟨rfl, rfl⟩

theorem pushAnswer (h : LaneUntouched n l s u) (a : Answer) : LaneUntouched n l s (Machine.pushAnswer l a u) :=
  { h with
    receivers := fun k => by
      rw [pushAnswer_get]
      split
      · next e => exact e ▸ h.receivers l
      · exact h.receivers k
    links := fun k hne => by
      rw [pushAnswer_get, if_neg hne]
      exact h.links k hne }

theorem settle (h : LaneUntouched n l s u) : LaneUntouched n l s (Machine.settle u) :=
  { h with
    receivers := fun k => by simpa using h.receivers k
    links := fun k hne => by simpa using h.links k hne }

end LaneUntouched

/-- An arrival whose owner works on one lane. -/
theorem arrive_untouched {n : LaneNo} {l : Link} {perform : State → Reply} {s : State} (tag kind : Byte)
    (hp : LaneOnly n (counted l s) (perform (counted l s)).state) :
    LaneUntouched n l s (arrive l tag kind perform s) := by
  by_cases hrun : s.phase = .running
  · rw [arrive, event_running hrun, judgeArrival]
    refine LaneUntouched.settle ?_
    split
    · unfold refuseBusy
      split
      · exact (LaneUntouched.refl n l s).pushAnswer _
      · exact LaneUntouched.refl n l s
    · exact (LaneUntouched.of_laneOnly hp).pushAnswer _
  · rw [arrive, event_idle hrun]
    exact LaneUntouched.refl n l s

/-- Settles O54: the arrival is counted and answered on its own link, and its owner works on its own lane. -/
theorem laneRequestFrame : Obligations.LaneRequestFrame := by
  intro c l tag kind b n s t hc hb hn ht
  rw [exec_laneRequest hc hb] at ht
  obtain rfl := Host.Outcome.next.inj ht
  exact arrive_untouched tag kind (lanePerform_laneOnly hn _ hb)

end Sys2Proof.Machine
end

section
/-! The notices of an operation, in order: which kinds the shared race operations raise (R56, R94, R101, R116, R122, R129). -/

namespace Sys2Proof.Machine

open Sys2Proof

/-! ## Notices in a row -/

theorem raiseAll_links_congr (ns : List Notice) {s t : State} (h : s.links = t.links) :
    (ns.foldl (fun u q => raise q u) s).links = (ns.foldl (fun u q => raise q u) t).links := by
  induction ns generalizing s t with
  | nil => exact h
  | cons q ns ih => exact ih (by simp only [raise_links, h])

theorem Raised.nil {s t : State} (h : t.links = s.links) : Raised [] s t := h

theorem Raised.one (q : Notice) (s : State) : Raised [q] s (raise q s) := rfl

theorem Raised.append {ms ns : List Notice} {s t u : State} (h : Raised ms s t) (k : Raised ns t u) :
    Raised (ms ++ ns) s u := by
  unfold Raised at h k ⊢
  rw [k, List.foldl_append, raiseAll_links_congr ns h]

/-- An operation that raises notices of some kinds alone. -/
def RaisesKinds (ks : List NoticeKind) (s t : State) : Prop := ∃ ns, Raised ns s t ∧ ∀ q ∈ ns, q.kind ∈ ks

namespace RaisesKinds

variable {ks js : List NoticeKind} {s t u : State}

theorem of_links (h : t.links = s.links) : RaisesKinds ks s t := ⟨[], Raised.nil h, fun _ hq => absurd hq List.not_mem_nil⟩

theorem refl (ks : List NoticeKind) (s : State) : RaisesKinds ks s s := of_links rfl

theorem one {q : Notice} (s : State) (hq : q.kind ∈ ks) : RaisesKinds ks s (raise q s) :=
  ⟨[q], Raised.one q s, by simpa using hq⟩

theorem trans (h : RaisesKinds ks s t) (k : RaisesKinds ks t u) : RaisesKinds ks s u := by
  obtain ⟨ms, hm, km⟩ := h
  obtain ⟨ns, hn, kn⟩ := k
  exact ⟨ms ++ ns, hm.append hn, fun q hq => (List.mem_append.mp hq).elim (km q) (kn q)⟩

theorem mono (h : RaisesKinds ks s t) (hsub : ∀ k ∈ ks, k ∈ js) : RaisesKinds js s t := by
  obtain ⟨ns, hn, kn⟩ := h
  exact ⟨ns, hn, fun q hq => hsub _ (kn q hq)⟩

theorem foldl {α : Type} {f : State → α → State} (hf : ∀ s a, RaisesKinds ks s (f s a)) (as : List α) (s : State) :
    RaisesKinds ks s (as.foldl f s) := by
  induction as generalizing s with
  | nil => exact refl ks s
  | cons a as ih => exact (hf s a).trans (ih (f s a))

end RaisesKinds

/-! ## Hold changes and places -/

theorem reportDesk_raises (n : LaneNo) (c : HoldCause) (l : Option Link) (b s : State) :
    RaisesKinds [.holdChange] s (reportDesk n c l b s) := by
  unfold reportDesk
  split
  · exact .refl _ s
  · split
    · exact .refl _ s
    · exact .one s List.mem_cons_self

theorem addReason_raises (n : LaneNo) (r : Reason) (s : State) : RaisesKinds [.holdChange] s (addReason n r s) :=
  (RaisesKinds.of_links (State.modDesk_links s n _)).trans (reportDesk_raises n _ _ s _)

theorem addReasons_raises (n : LaneNo) (rs : List Reason) (s : State) : RaisesKinds [.holdChange] s (addReasons n rs s) :=
  .foldl (fun s r => addReason_raises n r s) rs s

theorem placeLane_raises (s : State) (n : LaneNo) : RaisesKinds [.placeChange] s (placeLane s n) := by
  unfold placeLane
  split
  · exact .refl _ s
  · split
    · exact .refl _ s
    · exact (RaisesKinds.of_links (State.modDesk_links s n _)).trans (.one _ List.mem_cons_self)

theorem recomputePlaces_raises (s : State) : RaisesKinds [.placeChange] s (recomputePlaces s) :=
  (RaisesKinds.of_links (State.modHeat_links s _)).trans (.foldl placeLane_raises allLanes _)

/-! ## Exchange judging (R115, R116) -/

/-- The kinds of notice that exchange judging raises. -/
def judgingKinds : List NoticeKind := [.exchange, .holdChange]

theorem completeExchange_raises (n : LaneNo) (x : Exchange) (r : Option Reason) (s : State) :
    RaisesKinds judgingKinds s (completeExchange n x r s) := by
  have hx : RaisesKinds judgingKinds s (raise (.exchange n x) (s.modExchange n x.leg fun _ => x)) :=
    (RaisesKinds.of_links (State.modExchange_links s n _ _)).trans (.one _ (by simp [Notice.kind, judgingKinds]))
  cases r with
  | none => exact hx
  | some r => exact hx.trans ((addReason_raises n r _).mono (by simp [judgingKinds]))

theorem judgeMargin_raises (n : LaneNo) (a : Nat) (x : Exchange) (s : State) :
    RaisesKinds judgingKinds s (judgeMargin n a x s) := by
  unfold judgeMargin
  split
  · exact completeExchange_raises n _ _ s
  · exact .of_links (State.modExchange_links s n _ _)

theorem settleTouch_raises (n : LaneNo) (e : SplitEntry) (s : State) : RaisesKinds judgingKinds s (settleTouch n e s) := by
  unfold settleTouch
  split
  · exact .refl _ s
  · split
    · exact .refl _ s
    · split
      · exact completeExchange_raises n _ _ s
      · exact judgeMargin_raises n _ _ s

theorem settleTakeoff_raises (n : LaneNo) (e : SplitEntry) (s : State) :
    RaisesKinds judgingKinds s (settleTakeoff n e s) := by
  unfold settleTakeoff
  split
  · exact .refl _ s
  · split
    · exact .refl _ s
    · split
      · exact completeExchange_raises n _ _ s
      · exact .refl _ s

theorem armExchange_raises (n : LaneNo) (m : Nat) (s : State) : RaisesKinds judgingKinds s (armExchange n m s) := by
  unfold armExchange
  split
  · exact .refl _ s
  · split
    · exact .refl _ s
    · split
      · exact .of_links (State.modExchange_links s n _ _)
      · exact completeExchange_raises n _ _ s

theorem judgeEntry_raises (n : LaneNo) (s : State) (e : SplitEntry) : RaisesKinds judgingKinds s (judgeEntry n s e) := by
  have harm : RaisesKinds judgingKinds s (if e.length = 1 then endReactionArming n s else s) := by
    split
    · exact .of_links (State.modLane_links s n _)
    · exact .refl _ s
  exact ((harm.trans (settleTouch_raises n e _)).trans (settleTakeoff_raises n e _)).trans (armExchange_raises n _ _)

theorem judgeFrom_raises (n : LaneNo) (k : Nat) (s : State) : RaisesKinds judgingKinds s (judgeFrom n k s) := by
  unfold judgeFrom
  split
  · exact .refl _ s
  · exact .foldl (judgeEntry_raises n) _ s

theorem abandonExchange_raises (n : LaneNo) (s : State) (x : Exchange) :
    RaisesKinds judgingKinds s (abandonExchange n s x) := by
  unfold abandonExchange
  split
  · exact completeExchange_raises n _ _ s
  · exact .refl _ s

theorem abandonExchanges_raises (n : LaneNo) (s : State) : RaisesKinds judgingKinds s (abandonExchanges n s) := by
  unfold abandonExchanges
  split
  · exact .refl _ s
  · exact .foldl (abandonExchange_raises n) _ s

theorem addSplit_raised (n : LaneNo) (e : SplitEntry) (p : Option Promotion) {s : State} {h : Heat}
    (hs : s.heat = some h) : Raised [.split n e p] s (addSplit n e p s) := by
  unfold addSplit
  simp only [hs]
  split <;> rfl

/-! ## The end of a race -/

theorem testReview_raises (s : State) : RaisesKinds [.raceState] s (testReview s) := by
  unfold testReview
  split
  · exact .refl _ s
  · split
    · refine ⟨[_], rfl, fun q hq => ?_⟩
      obtain rfl := List.mem_singleton.mp hq
      split <;> exact List.mem_cons_self
    · exact .refl _ s

theorem heatEvent_links (c : EventCode) (v : Nat) (s : State) : (heatEvent c v s).links = s.links := by
  unfold heatEvent
  split <;> rfl

theorem raceNotice_raises (c : RaceCause) (l : Option Link) (s : State) : RaisesKinds [.raceState] s (raceNotice c l s) := by
  unfold raceNotice
  refine .one s ?_
  split <;> exact List.mem_cons_self

theorem testFinal_raises (s : State) : RaisesKinds [.raceState] s (testFinal s) := by
  unfold testFinal
  split
  · exact .refl _ s
  · split
    · have hfinal : RaisesKinds [.raceState] s
          (raceNotice .allReleased none (heatEvent .final 0 (s.modHeat fun h => { h with phase := .final }))) :=
        RaisesKinds.trans (.of_links ((heatEvent_links _ _ _).trans (State.modHeat_links s _))) (raceNotice_raises _ _ _)
      dsimp only
      split
      · exact hfinal.trans (.of_links rfl)
      · exact hfinal
    · exact .refl _ s

/-- The RELEASE notice of a lane that meets the release check (R127, R129). -/
def releaseNotices (n : LaneNo) (core : ResultCore) (h : Heat) : List Notice :=
  if h.definition.releaseMode = .auto ∧ (h.desks.get n).hold.isEmpty = true then
    [.release n core (h.desks.get n).place (h.desks.get n).dq none]
  else []

/-- The release check of a lane just finished: RELEASE when it is released at once, then the race's RACE_STATE. -/
theorem releaseCheck_raised (n : LaneNo) {core : ResultCore} {s : State} {h : Heat} (hs : s.heat = some h)
    (hst : (h.lanes.get n).state = .finished) (hres : (h.lanes.get n).result = some core) :
    ∃ ns, Raised (releaseNotices n core h ++ ns) s (releaseCheck n s) ∧ ∀ q ∈ ns, q.kind = .raceState := by
  by_cases hrel : h.definition.releaseMode = .auto ∧ (h.desks.get n).hold.isEmpty = true
  · obtain ⟨ns, hns, hk⟩ := testFinal_raises
      (queueLane n (raise (.release n core (h.desks.get n).place (h.desks.get n).dq none)
        (s.modLane n fun l => { l with state := .released })))
    refine ⟨ns, ?_, fun q hq => List.mem_singleton.mp (hk q hq)⟩
    simp only [releaseCheck, hs, hst, hrel, releaseNotices, releaseLane, hres, and_self, if_true]
    exact Raised.append (ms := [_]) (by rfl) hns
  · refine ⟨[], ?_, fun _ hq => absurd hq List.not_mem_nil⟩
    have hno : ¬ (h.definition.releaseMode = .auto ∧ (h.lanes.get n).state = .finished ∧
        (h.desks.get n).hold.isEmpty = true) := fun ⟨hm, _, he⟩ => hrel ⟨hm, he⟩
    simp only [releaseCheck, hs, if_neg hno, releaseNotices, if_neg hrel, List.append_nil]
    exact Raised.nil rfl

end Sys2Proof.Machine
end

section
/-! DECLARE NO FINISH and ENTER FINISH (R55, R95, R96), with the notices of a finish in their order (R56, R94). -/

namespace Sys2Proof.Machine

open Sys2Proof

/-! ## A lane finished: the race and its notices -/

/-- The race with a lane ended and the places given, before the release check and the tests of R35 and R36 (R56). -/
def Heat.endedLane (h : Heat) (n : LaneNo) (core : ResultCore) (rs : List Reason) : Heat :=
  let g := (h.modLane n (Lane.finish core)).modDesk n (Desk.addReasons rs)
  if core.official.isSome then g.replaced else g

theorem finishedLane_eq (h : Heat) (n : LaneNo) (core : ResultCore) (rs : List Reason) (p : Params) (now : DeckTime) :
    h.finishedLane n core rs p now = (((h.endedLane n core rs).checked n p now).reviewed now).finalised p now := rfl

theorem endedLane_get_self (h : Heat) (n : LaneNo) (core : ResultCore) (rs : List Reason) :
    (h.endedLane n core rs).lanes.get n = (h.lanes.get n).finish core := by
  unfold Heat.endedLane
  dsimp only
  split <;> simp

theorem finishedLane_desks (h : Heat) (n : LaneNo) (core : ResultCore) (rs : List Reason) (p : Params) (now : DeckTime) :
    (h.finishedLane n core rs p now).desks = (h.endedLane n core rs).desks := by
  rw [finishedLane_eq, finalised_desks, reviewed_desks, checked_desks]

theorem finishedLane_state (h : Heat) (n : LaneNo) (core : ResultCore) (rs : List Reason) (p : Params) (now : DeckTime) :
    ((h.finishedLane n core rs p now).lanes.get n).state =
      if (h.endedLane n core rs).definition.releaseMode = .auto ∧
          ((h.endedLane n core rs).desks.get n).hold.isEmpty = true then .released
      else .finished := by
  rw [finishedLane_eq, finalised_lanes, reviewed_lanes, checked_lane, endedLane_get_self]
  have hreported : ((h.lanes.get n).finish core).state = .finished ∧ ((h.lanes.get n).finish core).result ≠ none :=
    ⟨rfl, Option.some_ne_none core⟩
  dsimp only
  rw [if_pos hreported]

theorem releaseNotices_endedLane (h : Heat) (n : LaneNo) (core : ResultCore) (rs : List Reason) (p : Params)
    (now : DeckTime) :
    releaseNotices n core (h.endedLane n core rs) =
      if ((h.finishedLane n core rs p now).lanes.get n).state = .released then
        [.release n core ((h.finishedLane n core rs p now).desks.get n).place
          ((h.finishedLane n core rs p now).desks.get n).dq none]
      else [] := by
  rw [finishedLane_state, finishedLane_desks, releaseNotices]
  split <;> rfl

theorem ofKind_append (k : NoticeKind) (ms ns : List Notice) : ofKind k (ms ++ ns) = ofKind k ms ++ ofKind k ns :=
  List.filter_append ..

theorem ofKind_nil_of {k : NoticeKind} {ns : List Notice} (h : ∀ q ∈ ns, q.kind ≠ k) : ofKind k ns = [] := by
  rw [ofKind, List.filter_eq_nil_iff]
  exact fun q hq => by simpa using h q hq

/-- The kinds of the notices behind FINISH. -/
def closingKinds : List NoticeKind := [.holdChange, .placeChange, .raceState]

/-- The notices behind FINISH: hold and place changes, RELEASE when the lane is released at once, RACE_STATE. -/
theorem finishLane_raised (n : LaneNo) (core : ResultCore) (link : Option Link) (rs : List Reason) {s : State} {h : Heat}
    (hs : s.heat = some h) :
    ∃ ms ns, Raised (.finish n core link :: (ms ++ (releaseNotices n core (h.endedLane n core rs) ++ ns))) s
        (finishLane n core link rs s) ∧ (∀ q ∈ ms, q.kind ∈ closingKinds) ∧ ∀ q ∈ ns, q.kind ∈ closingKinds := by
  have hended : ∃ u, RaisesKinds closingKinds (queueLane n (raise (.finish n core link) (s.modLane n (Lane.finish core)))) u ∧
      u.heat = some (h.endedLane n core rs) ∧
      finishLane n core link rs s = testFinal (testReview (releaseCheck n u)) := by
    have hreasons := (addReasons_raises n rs
      (queueLane n (raise (.finish n core link) (s.modLane n (Lane.finish core))))).mono
        (js := closingKinds) (by simp [closingKinds])
    by_cases ho : core.official.isSome = true
    · refine ⟨_, hreasons.trans ((recomputePlaces_raises _).mono (by simp [closingKinds])), ?_, ?_⟩
      · simp [hs, Heat.endedLane, ho]
      · simp [finishLane, ho]
    · refine ⟨_, hreasons, ?_, ?_⟩
      · simp [hs, Heat.endedLane, ho]
      · simp [finishLane, ho]
  obtain ⟨u, ⟨ms, hms, kms⟩, hu, hfinish⟩ := hended
  obtain ⟨rest, hrest, krest⟩ := releaseCheck_raised n (core := core) hu (by rw [endedLane_get_self]; rfl)
    (by rw [endedLane_get_self]; rfl)
  obtain ⟨tests, htests, ktests⟩ := (testReview_raises (releaseCheck n u)).trans (testFinal_raises _)
  refine ⟨ms, rest ++ tests, ?_, kms, fun q hq => ?_⟩
  · have hfirst : Raised [.finish n core link] s
        (queueLane n (raise (.finish n core link) (s.modLane n (Lane.finish core)))) := rfl
    rw [hfinish]
    simpa using hfirst.append (hms.append (hrest.append htests))
  · rcases List.mem_append.mp hq with hq | hq
    · simp [krest q hq, closingKinds]
    · simp [List.mem_singleton.mp (ktests q hq), closingKinds]

/-- What precedes FINISH: SPLIT of the entries that joined, and the judging they bring. -/
structure BeforeFinish (n : LaneNo) (final : List SplitEntry) (before : List Notice) : Prop where
  splitsFirst : SplitsFirst before
  kinds : ∀ q ∈ before, q.kind = .split ∨ q.kind = .exchange ∨ q.kind = .holdChange
  splits : ofKind .split before = final.map fun e => .split n e none

theorem mem_judgingKinds (k : NoticeKind) : k ∈ judgingKinds ↔ k = .exchange ∨ k = .holdChange := by simp [judgingKinds]

theorem ne_split_of_mem_judgingKinds {k : NoticeKind} (hk : k ∈ judgingKinds) : k ≠ .split := by
  rintro rfl
  simp [judgingKinds] at hk

theorem beforeFinish_judging (n : LaneNo) {ns : List Notice} (hk : ∀ q ∈ ns, q.kind ∈ judgingKinds) :
    BeforeFinish n [] ns where
  splitsFirst := List.pairwise_of_forall_mem_list fun _ _ b hb _ => ne_split_of_mem_judgingKinds (hk b hb)
  kinds := fun q hq => .inr ((mem_judgingKinds _).mp (hk q hq))
  splits := ofKind_nil_of fun q hq => ne_split_of_mem_judgingKinds (hk q hq)

theorem beforeFinish_split (n : LaneNo) (e : SplitEntry) {ns : List Notice} (hk : ∀ q ∈ ns, q.kind ∈ judgingKinds) :
    BeforeFinish n [e] (.split n e none :: ns) where
  splitsFirst := List.pairwise_cons.mpr ⟨fun _ _ h => (nomatch h), (beforeFinish_judging n hk).splitsFirst⟩
  kinds := fun q hq => by
    rcases List.mem_cons.mp hq with rfl | hq
    · exact .inl rfl
    · exact (beforeFinish_judging n hk).kinds q hq
  splits := by
    rw [ofKind, List.filter_cons_of_pos rfl]
    exact congrArg _ (beforeFinish_judging n hk).splits

theorem finishNoticed_of_raised {n : LaneNo} {core : ResultCore} {link : Option Link} {rs : List Reason}
    {final : List SplitEntry} {before : List Notice} {s u : State} {h : Heat} (p : Params) (now : DeckTime)
    (hb : BeforeFinish n final before) (hr : Raised before s u) (hu : u.heat = some h) :
    FinishNoticed n core link final s (finishLane n core link rs u) (h.finishedLane n core rs p now) := by
  obtain ⟨ms, ns, hraised, kms, kns⟩ := finishLane_raised n core link rs hu
  have hclosing : ∀ k ∈ closingKinds, k ≠ .release ∧
      (k = .holdChange ∨ k = .placeChange ∨ k = .release ∨ k = .raceState) := by simp [closingKinds]
  refine ⟨before, _, hr.append hraised, hb.splitsFirst, hb.kinds, hb.splits, fun q hq => ?_, ?_⟩
  · rcases List.mem_append.mp hq with hq | hq
    · exact (hclosing _ (kms q hq)).2
    · rcases List.mem_append.mp hq with hq | hq
      · rw [releaseNotices] at hq
        split at hq
        · obtain rfl := List.mem_singleton.mp hq
          exact .inr (.inr (.inl rfl))
        · cases hq
      · exact (hclosing _ (kns q hq)).2
  · have hrel : ofKind .release (releaseNotices n core (h.endedLane n core rs)) =
        releaseNotices n core (h.endedLane n core rs) := by
      unfold releaseNotices
      split <;> rfl
    rw [ofKind_append, ofKind_append, ofKind_nil_of fun q hq => (hclosing _ (kms q hq)).1,
      ofKind_nil_of fun q hq => (hclosing _ (kns q hq)).1, hrel, List.nil_append, List.append_nil,
      releaseNotices_endedLane]

/-- A lane finished from a state in which its last entry has been judged: the race it leaves and its notices. -/
theorem finishLane_finishes {n : LaneNo} (core : ResultCore) (link : Option Link) {rs : List Reason}
    {final : List SplitEntry} {before : List Notice} {s u : State} {h g0 : Heat} {sp : List SplitEntry} {xs : List Exchange}
    (ho : RaceOnly s u) (hu : u.heat = some g0) (hp : Finishing n h g0 sp xs)
    (hrs : ∀ x ∈ rs, x = .discrepant ∨ x = .padMissed) (hb : BeforeFinish n final before) (hr : Raised before s u) :
    ∃ g, (finishLane n core link rs u).heat = some g ∧ Finishes n core s h g ∧
      FinishNoticed n core link final s (finishLane n core link rs u) g ∧ (g.lanes.get n).splits = sp ∧
      (g.lanes.get n).exchanges = xs := by
  obtain ⟨g, rfl, hfin, hsp, hxs, -⟩ := finishes n s h g0 sp xs core rs hp hrs
  exact ⟨_, by rw [finishLane_heat, hu, Option.map_some, ho.params, ho.deckTime], hfin,
    finishNoticed_of_raised s.params s.deckTime hb hr hu, hsp, hxs⟩

/-! ## Exchanges abandoned (R114) -/

theorem addReason_exchangesOf (n : LaneNo) (r : Reason) (s : State) :
    (addReason n r s).exchangesOf n = s.exchangesOf n := by
  cases hs : s.heat <;> simp [State.exchangesOf, hs]

theorem completeExchange_exchangesOf (n : LaneNo) (x : Exchange) (r : Option Reason) (s : State) :
    (completeExchange n x r s).exchangesOf n = (s.exchangesOf n).map fun y => if y.leg = x.leg then x else y := by
  have hwritten : (raise (.exchange n x) (s.modExchange n x.leg fun _ => x)).exchangesOf n =
      (s.exchangesOf n).map fun y => if y.leg = x.leg then x else y := by
    cases hs : s.heat <;> simp [State.exchangesOf, State.modExchange, hs]
  cases r with
  | none => exact hwritten
  | some r => exact (addReason_exchangesOf n r _).trans hwritten

/-- Every record still PENDING has its leg among the PENDING ones of a list. -/
def PendingAmong (n : LaneNo) (s : State) (rest : List Exchange) : Prop :=
  ∀ y ∈ s.exchangesOf n, y.verdict = .pending → ∃ x ∈ rest, x.verdict = .pending ∧ x.leg = y.leg

theorem abandonExchange_pendingAmong {n : LaneNo} {s : State} {x : Exchange} {rest : List Exchange}
    (h : PendingAmong n s (x :: rest)) : PendingAmong n (abandonExchange n s x) rest := by
  unfold abandonExchange
  split
  · intro y hy hpend
    rw [completeExchange_exchangesOf] at hy
    obtain ⟨z, hz, hzy⟩ := List.mem_map.mp hy
    split at hzy
    · subst hzy
      cases hpend
    · next hleg =>
      subst hzy
      obtain ⟨w, hw, hwp, hwl⟩ := h z hz hpend
      refine ⟨w, (List.mem_cons.mp hw).resolve_left ?_, hwp, hwl⟩
      rintro rfl
      exact hleg hwl.symm
  · next hx =>
    intro y hy hpend
    obtain ⟨w, hw, hwp, hwl⟩ := h y hy hpend
    refine ⟨w, (List.mem_cons.mp hw).resolve_left ?_, hwp, hwl⟩
    rintro rfl
    exact hx hwp

theorem abandonFold_settles {n : LaneNo} {rest : List Exchange} {s : State} (h : PendingAmong n s rest) :
    ∀ y ∈ (rest.foldl (abandonExchange n) s).exchangesOf n, y.verdict ≠ .pending := by
  induction rest generalizing s with
  | nil =>
    intro y hy hpend
    obtain ⟨x, hx, -⟩ := h y hy hpend
    cases hx
  | cons x rest ih => exact ih (abandonExchange_pendingAmong h)

/-- No record of the lane is left PENDING (R114). -/
theorem abandonExchanges_settles (n : LaneNo) {s : State} {h : Heat} (hs : s.heat = some h) :
    ∀ y ∈ (abandonExchanges n s).exchangesOf n, y.verdict ≠ .pending := by
  have hlist : s.exchangesOf n = (h.lanes.get n).exchanges := by simp [State.exchangesOf, hs]
  simp only [abandonExchanges, hs]
  exact abandonFold_settles fun y hy hpend => ⟨y, hlist ▸ hy, hpend, rfl⟩

theorem Exchanged.finishing {n : LaneNo} {h g : Heat} (e : Exchanged n h g) :
    Finishing n h g (h.lanes.get n).splits (g.lanes.get n).exchanges := by
  obtain ⟨xs, hl⟩ := e.lane
  obtain ⟨a, b, hd, -, -⟩ := e.desk
  exact ⟨e.rest, ⟨(h.lanes.get n).reaction, by rw [hl]⟩, ⟨a, b, hd⟩, e.others⟩

/-- A swimmer ended without a time: NO_FINISH with its notices, no exchange record left PENDING. -/
theorem finishWithoutTime_finishes (n : LaneNo) (link : Option Link) {s : State} {h : Heat} (hs : s.heat = some h) :
    ∃ g, (finishWithoutTime n link s).heat = some g ∧ Finishes n .noFinish s h g ∧
      FinishNoticed n .noFinish link [] s (finishWithoutTime n link s) g ∧
      (g.lanes.get n).splits = (h.lanes.get n).splits ∧ ∀ x ∈ (g.lanes.get n).exchanges, x.verdict ≠ .pending := by
  obtain ⟨g0, hg0, hx⟩ := abandonExchanges_exchanged s n h hs
  obtain ⟨before, hraised, hkinds⟩ := abandonExchanges_raises n s
  obtain ⟨g, hg, hfin, hnoticed, hsplits, hexch⟩ :=
    finishLane_finishes .noFinish link (RaceOnly.abandonExchanges n s) hg0 hx.finishing (rs := [])
      (fun _ hq => absurd hq List.not_mem_nil)
      (beforeFinish_judging n hkinds) hraised
  refine ⟨g, hg, hfin, hnoticed, hsplits, fun x hmem => abandonExchanges_settles n hs x ?_⟩
  simpa [State.exchangesOf, hg0, hexch] using hmem

/-! ## A finish entered by hand (R95, R96) -/

/-- The entry for length N (R94, R96). -/
def finalEntry (d : Definition) (t : Nat) (source : SplitSource) : SplitEntry :=
  ⟨d.lengths, d.finishEnd, d.legs, some t, source⟩

theorem Judged.finishing {n : LaneNo} {h g : Heat} {es : List SplitEntry}
    (j : Judged n (h.modLane n fun l => { l with splits := l.splits ++ es }) g) :
    Finishing n h g ((h.lanes.get n).splits ++ es) (g.lanes.get n).exchanges := by
  obtain ⟨xs, r, hl, -⟩ := j.lane
  obtain ⟨a, b, hd, -, -⟩ := j.desk
  rw [modLane_get_self] at hl
  refine ⟨j.rest, ⟨r, by rw [hl]⟩, ⟨a, b, hd⟩, fun m hm => ?_⟩
  obtain ⟨hlane, hdesk⟩ := j.others m hm
  exact ⟨by rw [hlane, modLane_get, if_neg hm], hdesk⟩

/-- The final entry with its SPLIT notice, then its judging. -/
theorem addFinalSplit_finishing (n : LaneNo) (t : Nat) (source : SplitSource) {s : State} {h : Heat}
    (hs : s.heat = some h) :
    ∃ g before, (addFinalSplit n t source s).heat = some g ∧
      Finishing n h g ((h.lanes.get n).splits ++ [finalEntry h.definition t source]) (g.lanes.get n).exchanges ∧
      BeforeFinish n [finalEntry h.definition t source] before ∧ Raised before s (addFinalSplit n t source s) := by
  have heq : addFinalSplit n t source s =
      judgeFrom n (h.lanes.get n).splits.length (addSplit n (finalEntry h.definition t source) none s) := by
    simp only [addFinalSplit, hs, finalEntry]
  have hsplit : (addSplit n (finalEntry h.definition t source) none s).heat =
      some (h.modLane n fun l => { l with splits := l.splits ++ [finalEntry h.definition t source] }) := by
    rw [addSplit_heat, hs, Option.map_some]
  obtain ⟨g, hg, hj⟩ := judgeFrom_judged _ n (h.lanes.get n).splits.length _ hsplit
  obtain ⟨ns, hns, hk⟩ := judgeFrom_raises n (h.lanes.get n).splits.length
    (addSplit n (finalEntry h.definition t source) none s)
  rw [heq]
  exact ⟨g, _, hg, hj.finishing, beforeFinish_split n _ hk, (addSplit_raised n _ none hs).append hns⟩

theorem placeAnswer_of_heat (n : LaneNo) {s : State} {g : Heat} (hs : s.heat = some g) :
    placeAnswer n s = optionalGroup [(g.desks.get n).place.map fun p => [byteOf p]] := by
  simp [placeAnswer, hs]

section
variable {n : LaneNo} {h : Heat} {l : Lane} {x : Expectation} {t : Nat} (link : Link) (s : State)

theorem enterFinish_notFinal (hx : l.expectation = some x) (hne : x.length ≠ h.definition.lengths) :
    enterFinish link t n h l s = refuse .notFinalLength s := by
  simp [enterFinish, hx, hne]

theorem enterFinish_order (hx : l.expectation = some x) (heq : x.length = h.definition.lengths)
    (hout : t ≤ lastTimedTime l.splits ∨ h.raceTime s.deckTime < t) : enterFinish link t n h l s = refuse .order s := by
  simp [enterFinish, hx, heq, hout]

theorem enterFinish_taken (hx : l.expectation = some x) (heq : x.length = h.definition.lengths)
    (hlo : lastTimedTime l.splits < t) (hhi : t ≤ h.raceTime s.deckTime) :
    enterFinish link t n h l s =
      done (le4 t ++ placeAnswer n
          (finishLane n (.time t .manual none none) (some link) [] (addFinalSplit n t .manual s)))
        (finishLane n (.time t .manual none none) (some link) [] (addFinalSplit n t .manual s)) := by
  simp [enterFinish, hx, heq, Nat.not_le.mpr hlo, Nat.not_lt.mpr hhi]

end

theorem performDeclareNoFinish_swimming (l : Link) {b : Byte} {s : State} {n : LaneNo} {h : Heat} (hb : b.toNat = n.val)
    (hs : s.heat = some h) (hst : (h.lanes.get n).state = .swimming) :
    performDeclareNoFinish l b s = done [] (finishWithoutTime n (some l) s) :=
  laneRequest_taken (laneOfByte_of_toNat hb) hs (by rw [hst]; rfl)

theorem performEnterFinish_swimming (l : Link) {b : Byte} (w : Word32) {s : State} {n : LaneNo} {h : Heat}
    (hb : b.toNat = n.val) (hs : s.heat = some h) (hst : (h.lanes.get n).state = .swimming) :
    performEnterFinish l b w s = enterFinish l w.toNat n h (h.lanes.get n) s :=
  laneRequest_taken (laneOfByte_of_toNat hb) hs (by rw [hst]; rfl)

/-- What finishing leaves is judged by deck time alone, which counting a request does not move. -/
theorem Finishes.of_counted {n : LaneNo} {core : ResultCore} {l : Link} {s : State} {h g : Heat}
    (f : Finishes n core (counted l s) h g) : Finishes n core s h g := { f with }

/-- Settles O37: the swimmer ended by R55 and R114, and the time of R95 entered and finished by R96. -/
theorem declareAndEnterFinish : Obligations.DeclareAndEnterFinish := by
  intro l tag b n s h htakes hb hs hst
  have hcounted : (counted l s).heat = some h := hs
  refine ⟨?_, fun w x hx => ?_⟩
  · obtain ⟨g, hg, hfin, hnoticed, hsplits, hexch⟩ := finishWithoutTime_finishes n (some l) hcounted
    exact ⟨_, g, hg, exec_laneRequest_of_reply (c := .declareNoFinish l tag b) rfl rfl htakes
      (performDeclareNoFinish_swimming l hb hcounted hst), hfin.of_counted, hnoticed, hsplits, hexch⟩
  · have hreply : ∀ {t r data}, enterFinish l w.toNat n h (h.lanes.get n) (counted l s) = ⟨t, r, data⟩ →
        exec (.enterFinish l tag b w) s = .next (answered l tag 0x0D r data t) := fun hr =>
      exec_laneRequest_of_reply (c := .enterFinish l tag b w) rfl rfl htakes
        ((performEnterFinish_swimming l w hb hcounted hst).trans hr)
    refine ⟨fun hne => hreply (enterFinish_notFinal l _ hx hne), fun heq hout => hreply (enterFinish_order l _ hx heq hout),
      fun heq hlo hhi => ?_⟩
    obtain ⟨g0, before, hg0, hp, hbefore, hraised⟩ := addFinalSplit_finishing n w.toNat .manual hcounted
    obtain ⟨g, hg, hfin, hnoticed, hsplits, -⟩ :=
      finishLane_finishes (.time w.toNat .manual none none) (some l) (RaceOnly.addFinalSplit n _ _ _) hg0 hp (rs := [])
        (fun _ hq => absurd hq List.not_mem_nil) hbefore hraised
    refine ⟨_, g, hg, hfin.of_counted, hnoticed, hsplits, hreply ?_⟩
    rw [enterFinish_taken l (counted l s) hx heq hlo hhi, placeAnswer_of_heat n hg]
    rfl

end Sys2Proof.Machine
end

section
/-! An accepted length (R66, R67, R70, R71, R77): the lane record it leaves before inference, the race after the judging at the
end of its event, and the SPLIT notices of the entries that joined (R80, R116). -/

namespace Sys2Proof.Machine

open Sys2Proof

/-! ## The end of the event of one lane's line, its records as they were -/

/-- What one lane's list gained is judged, when no input left service and its exchange records are as they were. -/
theorem handServices_lane {s u : State} {h g : Heat} (is : List (Fin 71)) {n : LaneNo} (hs : s.heat = some h)
    (hu : u.heat = some g) (hf : u.faults = s.faults) (ho : othersAsBefore n h g)
    (hx : (g.lanes.get n).exchanges = (h.lanes.get n).exchanges) :
    handServices s s is u = judgeFrom n (s.splitCount n) u := by
  rw [handServices_judges s s u is n (leftService_nil is hf), judgeTakeoffs_same s u n]
  · simp [State.exchangesOf, hs, hu, hx]
  · intro m hm
    simp only [laneView, hs, hu, Option.map_some, (ho m hm).1]

/-- One lane changed but for its list and its exchange records: nothing is judged. -/
theorem handServices_modLane {s u : State} {h : Heat} (is : List (Fin 71)) {n : LaneNo} {f : Lane → Lane}
    (hs : s.heat = some h) (hu : u.heat = some (h.modLane n f)) (hf : u.faults = s.faults)
    (hsp : (f (h.lanes.get n)).splits = (h.lanes.get n).splits)
    (hx : (f (h.lanes.get n)).exchanges = (h.lanes.get n).exchanges) : handServices s s is u = u := by
  rw [handServices_lane is hs hu hf (modLane_othersAsBefore n h f) (by rw [modLane_get_self, hx]), judgeFrom_splitCount]
  simp [State.splitCount, hs, hu, hsp]

/-! ## The lane record an accepted length leaves -/

theorem applyPending_eq (l : Lane) : l.applyPending = { l with timing := timingAfter l, pendingTiming := none } := by
  cases hp : l.pendingTiming with
  | none =>
    simp only [Lane.applyPending, timingAfter, hp]
    rw [← hp]
  | some p => simp [Lane.applyPending, LaneTiming.apply, timingAfter, hp]

/-- The durations over the lengths an acceptance closes (R71). -/
def Lane.durationsAfter (closed interval : Nat) (l : Lane) : Option Nat × Option Nat :=
  if closed ≤ 1 then (some interval, l.d1) else (some (interval / closed), some (interval / closed))

theorem shiftDurations_eq (closed interval : Nat) (l : Lane) :
    l.shiftDurations closed interval =
      { l with d1 := (l.durationsAfter closed interval).1, d2 := (l.durationsAfter closed interval).2 } := by
  unfold Lane.shiftDurations Lane.durationsAfter
  split <;> rfl

theorem durationsAfter_one (interval : Nat) (l : Lane) : l.durationsAfter 1 interval = (some interval, l.d1) := rfl

theorem durationsAfter_many {closed : Nat} (interval : Nat) (l : Lane) (h : 2 ≤ closed) :
    l.durationsAfter closed interval = (some (interval / closed), some (interval / closed)) :=
  if_neg (by omega)

theorem lastTimedLength_timed (es : List SplitEntry) {e : SplitEntry} (he : e.time.isSome = true) :
    lastTimedLength (es ++ [e]) = e.length := by
  simp [lastTimedLength, he]

/-- NONE entries leave the last timed entry as it was (R67). -/
theorem lastTimedLength_untimed (es : List SplitEntry) {more : List SplitEntry} (h : ∀ e ∈ more, e.time = none) :
    lastTimedLength (es ++ more) = lastTimedLength es := by
  have hnone : more.reverse.find? (fun e => e.time.isSome) = none := by simpa using h
  simp [lastTimedLength, List.reverse_append, List.find?_append, hnone]

/-- The entry of a touch for length k (R57, R70). -/
def timedEntry (d : Definition) (k t : Nat) (source : SplitSource) : SplitEntry :=
  ⟨k, d.endOf k, d.legOf k, some t, source⟩

/-- The lane with length k accepted from a reference, its expectation moved on to k+1, before inference (R54, R66, R67, R70,
R71). -/
def Lane.accepted (d : Definition) (k t : Nat) (source : SplitSource) (reference : Nat) (l : Lane) : Lane :=
  let ds := l.durationsAfter (l.span k) (t - reference)
  { l with
    splits := l.splits ++ [timedEntry d k t source]
    d1 := ds.1
    d2 := ds.2
    timing := timingAfter l
    pendingTiming := none
    expectation := some ⟨k + 1, d.endOf (k + 1), t, t + sizedByTable d (timingAfter l) ds.1 ds.2⟩
    leg := some (d.legOf (k + 1)) }

/-- One length past a timed entry the window is one sized offset past the touch (R66, R67). -/
theorem expect_after_timed (d : Definition) {k : Nat} (t : Nat) {l : Lane} (hk : 1 ≤ k) (hl : lastTimedLength l.splits = k) :
    l.expect d (k + 1) t =
      { l with
        expectation := some ⟨k + 1, d.endOf (k + 1), t, t + sizedByTable d l.timing l.d1 l.d2⟩
        leg := some (d.legOf (k + 1)) } := by
  have hspan : l.span (k + 1) = 1 := by
    rw [Lane.span, hl]
    omega
  have hoffset : l.offset d = sizedByTable d l.timing l.d1 l.d2 := by
    rw [offset_eq_offsetByTable, offsetByTable, if_neg (by omega)]
  rw [Lane.expect, hspan, hoffset, Nat.one_mul]

/-- An acceptance is its lane record and then the inference that the next expectation brings (R70, R77). -/
theorem acceptLength_eq (n : LaneNo) {k t : Nat} (source : SplitSource) (p : Option Promotion) {s : State} {h : Heat}
    {x : Expectation} (hs : s.heat = some h) (hx : (h.lanes.get n).expectation = some x) (hk : 1 ≤ k) :
    ∃ u, acceptLength n k t source p s = inferAll n u ∧
      u.heat = some (h.modLane n (Lane.accepted h.definition k t source x.reference)) ∧ u.faults = s.faults := by
  refine ⟨_, by simp only [acceptLength, hs, hx]; rfl, ?_, ?_⟩
  · simp only [expectLength_heat, State.modLane_heat, addSplit_heat, hs, Option.map_some, modLane_modLane,
      modLane_definition]
    refine congrArg some (modLane_congr ?_)
    rw [applyPending_eq, shiftDurations_eq, expect_after_timed _ _ hk (lastTimedLength_timed _ rfl)]
    rfl
  · exact (RaceOnly.addSplit n _ p s).faults

/-! ## The race after an acceptance and its judging -/

/-- A race in which a lane may take length k, beside the race of its event's beginning: NONE entries may have joined its list,
its rejected list may have been cut, and it expects from the same reference. -/
structure Accepting (n : LaneNo) (missed : List SplitEntry) (kept : List RejectedEntry) (x : Expectation) (h g : Heat) :
    Prop where
  rest : g = { h with lanes := g.lanes, desks := g.desks }
  lane : ∃ y j, g.lanes.get n =
      { h.lanes.get n with splits := (h.lanes.get n).splits ++ missed, rejected := kept, expectation := some y, leg := j } ∧
    y.reference = x.reference
  untimed : ∀ e ∈ missed, e.time = none
  others : othersAsBefore n h g

theorem Inferred.skippedLength {n : LaneNo} {h g : Heat} (i : Inferred n h g)
    (hr : (h.desks.get n).hold.reasons.skippedLength = true) : (g.desks.get n).hold.reasons.skippedLength = true := by
  obtain ⟨a, hd, ha⟩ := i.desk
  rw [hd]
  exact ha hr

theorem Judged.skippedLength {n : LaneNo} {h g : Heat} (j : Judged n h g) :
    (g.desks.get n).hold.reasons.skippedLength = (h.desks.get n).hold.reasons.skippedLength := by
  obtain ⟨a, b, hd, -, -⟩ := j.desk
  rw [hd]

/-- Acceptance, inference and judging together leave what R70 says. -/
theorem Accepting.accepted {n : LaneNo} {missed : List SplitEntry} {kept : List RejectedEntry} {x : Expectation}
    {h g0 g1 g : Heat} {k t : Nat} {source : SplitSource} {s : State} (a : Accepting n missed kept x h g0)
    (hst : (h.lanes.get n).state = .swimming)
    (i : Inferred n (g0.modLane n (Lane.accepted h.definition k t source x.reference)) g1) (j : Judged n g1 g)
    (hstay : s.inService (padInput n (h.definition.endOf (k + 1))) = true ∨ h.definition.lengths ≤ k + 1 →
      g1 = g0.modLane n (Lane.accepted h.definition k t source x.reference)) :
    Accepted n k t source missed kept x s h g := by
  obtain ⟨y, leg, hlane, -⟩ := a.lane
  obtain ⟨more, z, leg', hinferred, hmore, -, -⟩ := i.lane
  obtain ⟨xs, r, hjudged, -⟩ := j.lane
  rw [modLane_get_self, hlane] at hinferred
  have hspan : k - lastTimedLength ((h.lanes.get n).splits ++ missed) = k - lastTimedLength (h.lanes.get n).splits := by
    rw [lastTimedLength_untimed _ a.untimed]
  refine
    { race := ?_, state := ?_, oneClosed := fun hone => ?_, moreClosed := fun c hc hmany => ?_, timing := ?_, pending := ?_,
      rejected := ?_, splits := ⟨more, ?_, hmore⟩, expecting := fun hexp => ?_, others := ?_ }
  · rw [j.rest, i.rest]
    simp only [modLane_definition, modLane_phase, modLane_startTime]
    rw [a.rest]
    exact ⟨rfl, rfl, rfl⟩
  · rw [hjudged, hinferred]
    exact hst
  · rw [hjudged, hinferred]
    simp only [Lane.accepted, Lane.span, hspan, hone, durationsAfter_one, and_self]
  · rw [hjudged, hinferred]
    simp only [Lane.accepted, Lane.span, hspan, hc, durationsAfter_many _ _ hmany, and_self]
  · rw [hjudged, hinferred]
    rfl
  · rw [hjudged, hinferred]
    rfl
  · rw [hjudged, hinferred]
    exact ⟨rfl, rfl⟩
  · rw [hjudged, hinferred]
    rfl
  · rw [hjudged, hstay hexp, modLane_get_self, hlane]
    exact ⟨rfl, rfl, rfl⟩
  · exact othersAsBefore_trans (othersAsBefore_trans (othersAsBefore_trans a.others (modLane_othersAsBefore n g0 _)) i.others)
      j.others

/-! ## SPLIT notices (R80, R116) -/

/-- The SPLIT notice of an entry: a promotion is a timed entry's. -/
def splitNotice (n : LaneNo) (p : Option Promotion) (e : SplitEntry) : Notice :=
  .split n e (if e.time = none then none else p)

/-- An operation under which one lane's list grows, with one SPLIT notice for each entry that joins, in order, and HOLD_CHANGE
notices. -/
def SplitsGrow (n : LaneNo) (p : Option Promotion) (s t : State) : Prop :=
  ∀ h, s.heat = some h → ∃ g es ns, t.heat = some g ∧ (g.lanes.get n).splits = (h.lanes.get n).splits ++ es ∧
    Raised ns s t ∧ (∀ q ∈ ns, q.kind = .split ∨ q.kind = .holdChange) ∧ ofKind .split ns = es.map (splitNotice n p)

namespace SplitsGrow

variable {n : LaneNo} {p : Option Promotion} {s t u : State}

/-- No entry and no notice. -/
theorem of_modHeat {f : Heat → Heat} (hl : t.links = s.links) (ht : t.heat = s.heat.map f)
    (hf : ∀ h, ((f h).lanes.get n).splits = (h.lanes.get n).splits) : SplitsGrow n p s t := fun h hs =>
  ⟨f h, [], [], by rw [ht, hs, Option.map_some], by rw [hf, List.append_nil], Raised.nil hl,
    fun _ hq => absurd hq List.not_mem_nil, rfl⟩

theorem refl (n : LaneNo) (p : Option Promotion) (s : State) : SplitsGrow n p s s :=
  of_modHeat (f := id) rfl (by rw [Option.map_id, id]) fun _ => rfl

theorem modLane (p : Option Promotion) (s : State) {f : Lane → Lane} (hf : ∀ l, (f l).splits = l.splits) :
    SplitsGrow n p s (s.modLane n f) :=
  of_modHeat (f := fun h => h.modLane n f) rfl rfl fun h => by rw [modLane_get_self, hf]

theorem expectLength (n : LaneNo) (k reference : Nat) (p : Option Promotion) (s : State) :
    SplitsGrow n p s (Machine.expectLength n k reference s) :=
  of_modHeat (f := fun h => h.modLane n (Lane.expect h.definition k reference)) rfl rfl fun h => by
    rw [modLane_get_self]
    rfl

theorem trans (st : SplitsGrow n p s t) (tu : SplitsGrow n p t u) : SplitsGrow n p s u := by
  intro h hs
  obtain ⟨g, es, ms, hg, hes, hms, kms, sms⟩ := st h hs
  obtain ⟨k, fs, ns, hk, hfs, hns, kns, sns⟩ := tu g hg
  refine ⟨k, es ++ fs, ms ++ ns, hk, by rw [hfs, hes, List.append_assoc], hms.append hns, fun q hq => ?_, ?_⟩
  · exact (List.mem_append.mp hq).elim (kms q) (kns q)
  · rw [ofKind_append, sms, sns, List.map_append]

theorem addSplit {e : SplitEntry} {p q : Option Promotion} (s : State) (hq : q = if e.time = none then none else p) :
    SplitsGrow n p s (Machine.addSplit n e q s) := fun h hs =>
  ⟨_, [e], _, by rw [addSplit_heat, hs, Option.map_some], by rw [modLane_get_self], addSplit_raised n e q hs,
    fun r hr => by rw [List.mem_singleton.mp hr]; exact .inl rfl, by rw [hq]; rfl⟩

theorem addReason (n : LaneNo) (r : Reason) (p : Option Promotion) (s : State) :
    SplitsGrow n p s (Machine.addReason n r s) := by
  intro h hs
  obtain ⟨ns, hns, hk⟩ := addReason_raises n r s
  have hhold : ∀ q ∈ ns, q.kind = .holdChange := fun q hq => List.mem_singleton.mp (hk q hq)
  refine ⟨_, [], ns, by rw [addReason_heat, hs, Option.map_some], by rw [modDesk_lanes, List.append_nil], hns,
    fun q hq => .inr (hhold q hq), ofKind_nil_of fun q hq => ?_⟩
  rw [hhold q hq]
  exact nofun

theorem addMissed (n : LaneNo) (k : Nat) (p : Option Promotion) (s : State) :
    SplitsGrow n p s (Machine.addMissed n k s) := by
  unfold Machine.addMissed
  split
  · exact refl n p s
  · exact (addSplit s rfl).trans (addReason n _ p _)

theorem infer (n : LaneNo) (fuel : Nat) (p : Option Promotion) (s : State) : SplitsGrow n p s (Machine.infer n fuel s) := by
  induction fuel generalizing s with
  | zero => exact refl n p s
  | succ fuel ih =>
    unfold Machine.infer
    split
    · exact refl n p s
    · split
      · exact refl n p s
      · split
        · exact ((addMissed n _ p s).trans (expectLength n _ _ p _)).trans (ih _)
        · exact refl n p s

theorem acceptLength (n : LaneNo) (k t : Nat) (source : SplitSource) (p : Option Promotion) (s : State) :
    SplitsGrow n p s (Machine.acceptLength n k t source p s) := by
  have hinfer : ∀ u, SplitsGrow n p u (Machine.inferAll n u) := fun u => by
    unfold Machine.inferAll
    split
    · exact refl n p u
    · exact infer n _ p u
  unfold Machine.acceptLength
  split
  · exact refl n p s
  · split
    · exact refl n p s
    · refine (((addSplit s rfl).trans (modLane p _ fun l => ?_)).trans (expectLength n _ _ p _)).trans (hinfer _)
      rw [applyPending_eq, shiftDurations_eq]

/-- Behind the SPLIT notices come those of the judging, which brings no entry. -/
theorem noticed {v : State} {h g : Heat} (st : SplitsGrow n p s t) (hs : s.heat = some h)
    (hj : JudgedTo n t v) (hr : RaisesKinds judgingKinds t v) (hv : v.heat = some g) : SplitsNoticed n p s v h g := by
  obtain ⟨k, es, ms, hk, hes, hms, kms, sms⟩ := st h hs
  obtain ⟨g', hg', j⟩ := hj k hk
  obtain rfl : g = g' := Option.some.inj (hv.symm.trans hg')
  obtain ⟨ns, hns, kns⟩ := hr
  obtain ⟨xs, r, hlane, -⟩ := j.lane
  refine ⟨ms ++ ns, hms.append hns, ?_, fun q hq => ?_, ?_⟩
  · refine List.pairwise_append.mpr ⟨?_, (beforeFinish_judging n kns).splitsFirst, fun a ha b hb _ => ?_⟩
    · refine List.pairwise_of_forall_mem_list fun a ha b _ hx => ?_
      rcases kms a ha with e | e <;> rw [e] at hx <;> cases hx
    · exact ne_split_of_mem_judgingKinds (kns b hb)
  · rcases List.mem_append.mp hq with hq | hq
    · exact (kms q hq).imp_right .inr
    · exact (beforeFinish_judging n kns).kinds q hq
  · rw [ofKind_append, sms, (beforeFinish_judging n kns).splits, hlane, hes, List.map_nil, List.append_nil,
      List.drop_left]
    rfl

end SplitsGrow

/-! ## An acceptance and its judging -/

/-- A length accepted and judged: what R70 says of the race, SKIPPED_LENGTH kept, and the notices since the event's beginning `s`;
its inference goes by the service of `s'`. -/
theorem acceptLength_accepted {n : LaneNo} {k t : Nat} {source : SplitSource} {p : Option Promotion}
    {missed : List SplitEntry} {kept : List RejectedEntry} {x : Expectation} {s s' u : State} {h g0 : Heat} (count : Nat)
    (hs : s.heat = some h) (hst : (h.lanes.get n).state = .swimming) (hu : u.heat = some g0)
    (a : Accepting n missed kept x h g0) (hk : 1 ≤ k) (hgrow : SplitsGrow n p s u) (hf : u.faults = s'.faults) :
    ∃ g, (judgeFrom n count (acceptLength n k t source p u)).heat = some g ∧
      Accepted n k t source missed kept x s' h g ∧
      SplitsNoticed n p s (judgeFrom n count (acceptLength n k t source p u)) h g ∧
      ((g0.desks.get n).hold.reasons.skippedLength = true → (g.desks.get n).hold.reasons.skippedLength = true) := by
  obtain ⟨y, leg, hlane, href⟩ := a.lane
  have hdef : g0.definition = h.definition := by rw [a.rest]
  obtain ⟨v, heq, hv, hvf⟩ := acceptLength_eq n (t := t) source p hu (by rw [hlane]) hk
  rw [hdef, href] at hv
  obtain ⟨g1, hg1, i⟩ := inferAll_inferred n v _ hv
  have hjudged := judgeFrom_judged (inferAll n v) n count
  obtain ⟨g, hg, j⟩ := hjudged g1 hg1
  rw [← heq] at hg hjudged
  refine ⟨g, hg, a.accepted hst i j fun hexp => ?_, ?_, fun hr => ?_⟩
  · have hstay : inferAll n v = v := by
      refine inferAll_stays n v _ _ hv (by rw [modLane_get_self]; rfl) ?_
      rw [modLane_definition, hdef, State.inService, hvf, hf]
      exact hexp.symm
    rw [hstay, hv] at hg1
    exact (Option.some.inj hg1).symm
  · exact (hgrow.trans (.acceptLength n k t source p u)).noticed hs hjudged (judgeFrom_raises n count _) hg
  · rw [j.skippedLength]
    exact i.skippedLength hr

end Sys2Proof.Machine
end

section
/-! Touches accepted for the expected length and for a skip (R68, R70, R74). -/

namespace Sys2Proof.Machine

open Sys2Proof

/-! ## The rows of R68 that take a touch -/

section
variable {n : LaneNo} {h : Heat} {x : Expectation} {e : End} {t : Nat} (s : State)

theorem judgeTouch_expected (ht : t < halfRange) (hend : e = x.finish) (hw : x.window ≤ t) :
    judgeTouch n h x e t s =
      if x.length < h.definition.lengths then acceptLength n x.length t .pad none s else openCollect n t .pad t s := by
  rw [judgeTouch, if_neg (by simpa [beforeStart] using ht), if_pos hend, if_neg (Nat.not_lt.mpr hw)]

theorem judgeTouch_skip (ht : t < halfRange) (hend : e ≠ x.finish) (hlock : x.reference + h.definition.turnLockout ≤ t)
    (hlen : x.length < h.definition.lengths) (hskip : skipBound h.definition (h.lanes.get n) x ≤ t) :
    judgeTouch n h x e t s = takeSkip n h.definition x t s := by
  rw [judgeTouch, if_neg (by simpa [beforeStart] using ht), if_neg hend, if_neg (Nat.not_lt.mpr hlock), if_pos]
  rw [skipWindow_eq_skipBound]
  exact ⟨hlen, hskip⟩

end

/-- A touch of a SWIMMING lane is judged by the rows of R68. -/
theorem takeTouch_judged {n : LaneNo} {e : End} {since start : DeckTime} {t : Nat} {x : Expectation} {s : State} {h : Heat}
    (hs : s.heat = some h) (hstart : h.startTime = some start)
    (ht : t = (since + BitVec.ofInt 32 (s.params.padOffset e) - start).toNat)
    (hst : (h.lanes.get n).state = .swimming) (hx : (h.lanes.get n).expectation = some x) :
    takeTouch n e (correctedCapture s.params e since) (countedAt (.pad e n) .active since s) =
      judgeTouch n h x e t (countedAt (.pad e n) .active since s) := by
  rw [takeTouch_swimming (s := countedAt _ _ _ s) hs hst hx, raceTime_of_start hstart]
  exact congrArg (fun c => judgeTouch n h x e c _) ht.symm

/-! ## A length skipped (R74) -/

/-- The NONE entry of a length (R74, R77). -/
def missedEntry (d : Definition) (k : Nat) : SplitEntry := ⟨k, d.endOf k, d.legOf k, none, .none⟩

/-- The hub with the expected length written down as missed and the next one expected from the same reference (R74). -/
def skipExpected (n : LaneNo) (x : Expectation) (s : State) : State :=
  expectLength n (x.length + 1) x.reference (addMissed n x.length s)

/-- What that makes of the race (`skipExpected_heat`). -/
def Heat.skipExpected (h : Heat) (n : LaneNo) (x : Expectation) : Heat :=
  (h.missed n x.length).modLane n (Lane.expect h.definition (x.length + 1) x.reference)

theorem takeSkip_eq (n : LaneNo) (d : Definition) (x : Expectation) (t : Nat) (s : State) :
    takeSkip n d x t s =
      if x.length + 1 < d.lengths then acceptLength n (x.length + 1) t .pad none (skipExpected n x s)
      else openCollect n t .pad t (skipExpected n x s) := rfl

theorem skipExpected_heat (n : LaneNo) (x : Expectation) {s : State} {h : Heat} (hs : s.heat = some h) :
    (skipExpected n x s).heat = some (h.skipExpected n x) := by
  rw [skipExpected, expectLength_heat, addMissed_heat, hs]
  rfl

theorem skipExpected_faults (n : LaneNo) (x : Expectation) (s : State) : (skipExpected n x s).faults = s.faults :=
  (RaceOnly.addMissed n x.length s).faults

theorem skipExpected_splitsGrow (n : LaneNo) (x : Expectation) (p : Option Promotion) (s : State) :
    SplitsGrow n p s (skipExpected n x s) :=
  (SplitsGrow.addMissed n _ p s).trans (.expectLength n _ _ p _)

theorem skipExpected_skippedLength (h : Heat) (n : LaneNo) (x : Expectation) :
    ((h.skipExpected n x).desks.get n).hold.reasons.skippedLength = true := by
  simp [Heat.skipExpected, Heat.missed, Desk.addReason, ReasonSet.put]

theorem skipExpected_lane (h : Heat) (n : LaneNo) (x : Expectation) :
    (h.skipExpected n x).lanes.get n =
      Lane.expect h.definition (x.length + 1) x.reference
        { h.lanes.get n with splits := (h.lanes.get n).splits ++ [missedEntry h.definition x.length] } := by
  rw [Heat.skipExpected, modLane_get_self, Heat.missed, modDesk_lanes, modLane_get_self]
  rfl

theorem skipExpected_othersAsBefore (h : Heat) (n : LaneNo) (x : Expectation) :
    othersAsBefore n h (h.skipExpected n x) :=
  othersAsBefore_trans (othersAsBefore_trans (modLane_othersAsBefore n h _) (modDesk_othersAsBefore n _ _))
    (modLane_othersAsBefore n _ _)

theorem skipExpected_accepting (h : Heat) (n : LaneNo) (x : Expectation) :
    Accepting n [missedEntry h.definition x.length] (h.lanes.get n).rejected x h (h.skipExpected n x) where
  rest := rfl
  lane := ⟨_, _, skipExpected_lane h n x, rfl⟩
  untimed := by simp [missedEntry]
  others := skipExpected_othersAsBefore h n x

/-! ## The event of a touch its lane accepts -/

theorem Accepting.refl {n : LaneNo} {x : Expectation} {h : Heat} (hx : (h.lanes.get n).expectation = some x) :
    Accepting n [] (h.lanes.get n).rejected x h h where
  rest := rfl
  lane := ⟨x, (h.lanes.get n).leg, by rw [List.append_nil, ← hx], rfl⟩
  untimed := fun _ he => absurd he List.not_mem_nil
  others := fun _ _ => ⟨rfl, rfl⟩

/-- Before its judging an acceptance has left the other lanes and every exchange record alone. -/
theorem acceptLength_unjudged {n : LaneNo} {k : Nat} (t : Nat) (source : SplitSource) (p : Option Promotion)
    {missed : List SplitEntry} {kept : List RejectedEntry} {x : Expectation} {u : State} {h g0 : Heat}
    (hu : u.heat = some g0) (a : Accepting n missed kept x h g0) (hk : 1 ≤ k) :
    ∃ g, (acceptLength n k t source p u).heat = some g ∧ othersAsBefore n h g ∧
      (g.lanes.get n).exchanges = (h.lanes.get n).exchanges := by
  obtain ⟨y, leg, hlane, -⟩ := a.lane
  obtain ⟨v, heq, hv, -⟩ := acceptLength_eq n (t := t) source p hu (by rw [hlane]) hk
  obtain ⟨g, hg, i⟩ := inferAll_inferred n v _ hv
  obtain ⟨more, z, leg', hinferred, -, -, -⟩ := i.lane
  refine ⟨g, by rw [heq, hg],
    othersAsBefore_trans (othersAsBefore_trans a.others (modLane_othersAsBefore n g0 _)) i.others, ?_⟩
  rw [hinferred, modLane_get_self, hlane]
  rfl

theorem countedAt_splitsGrow (n : LaneNo) (p : Option Promotion) (l : Line) (new : Level) (since : DeckTime) (s : State) :
    SplitsGrow n p s (countedAt l new since s) :=
  .of_modHeat (f := id) rfl (by rw [Option.map_id]; rfl) fun _ => rfl

theorem exec_touch_accepted {e : End} {n : LaneNo} {since : DeckTime} {k t : Nat} {missed : List SplitEntry}
    {kept : List RejectedEntry} {x : Expectation} {s u : State} {h g0 : Heat}
    (hc : Completes (.pad e n) .idle .active since s) (hs : s.heat = some h) (hst : (h.lanes.get n).state = .swimming)
    (hu : u.heat = some g0) (a : Accepting n missed kept x h g0) (hk : 1 ≤ k) (hgrow : SplitsGrow n none s u)
    (hf : u.faults = s.faults)
    (htake : takeTouch n e (correctedCapture s.params e since) (countedAt (.pad e n) .active since s) =
      acceptLength n k t .pad none u) :
    ∃ v g, exec (.candidateCompletes (.pad e n)) s = .next (settle v) ∧ v.heat = some g ∧
      Accepted n k t .pad missed kept x s h g ∧ SplitsNoticed n none s v h g ∧
      ((g0.desks.get n).hold.reasons.skippedLength = true → (g.desks.get n).hold.reasons.skippedLength = true) := by
  obtain ⟨g1, hg1, hothers, hexch⟩ := acceptLength_unjudged t .pad none hu a hk
  obtain ⟨g, hg, hacc, hnoticed, hskip⟩ :=
    acceptLength_accepted (t := t) (source := .pad) (s.splitCount n) hs hst hu a hk hgrow hf
  refine ⟨_, g, ?_, hg, hacc, hnoticed, hskip⟩
  rw [exec_touch hc, htake,
    handServices_lane _ hs hg1 ((RaceOnly.acceptLength n k t .pad none u).faults.trans hf) hothers hexch]

/-- Settles O41: the rows of R68 that accept, for the expected length and, behind a NONE entry, for the one after it. -/
theorem touchesAccepted : Obligations.TouchesAccepted := by
  intro e n since start t x s h hc hs hstart ht hlt hst hx hk
  have htake := takeTouch_judged hs hstart ht hst hx
  refine ⟨fun hend hw hlen => ?_, fun hend hlock hskip hlen => ?_⟩
  · obtain ⟨v, g, hexec, hg, hacc, hnoticed, -⟩ :=
      exec_touch_accepted (u := countedAt (.pad e n) .active since s) (t := t) hc hs hst hs (Accepting.refl hx) hk
        (countedAt_splitsGrow n none _ _ _ s) rfl (by rw [htake, judgeTouch_expected _ hlt hend hw, if_pos hlen])
    exact ⟨v, g, hexec, hg, hacc, hnoticed⟩
  · obtain ⟨v, g, hexec, hg, hacc, hnoticed, hreason⟩ :=
      exec_touch_accepted (t := t) hc hs hst (skipExpected_heat n x (s := countedAt (.pad e n) .active since s) hs)
        (skipExpected_accepting h n x) (Nat.le_add_left 1 x.length)
        ((countedAt_splitsGrow n none _ _ _ s).trans (skipExpected_splitsGrow n x none _))
        (skipExpected_faults n x _)
        (by rw [htake, judgeTouch_skip _ hlt hend hlock (by omega) hskip, takeSkip_eq, if_pos hlen])
    exact ⟨v, g, hexec, hg, hreason (skipExpected_skippedLength h n x), hacc, hnoticed⟩

end Sys2Proof.Machine
end

section
/-! How COLLECT opens, and how its slots fill (R72, R74, R85 to R87). -/

namespace Sys2Proof.Machine

open Sys2Proof

/-! ## A press reaches its lane (R46, R85, R87) -/

/-- A press that reaches its lane: counted, taken, then the judging at the end of its event. -/
theorem exec_press {n : LaneNo} {slot : Slot} {since : DeckTime} {s : State}
    (h : Completes (.button n slot) .idle .active since s) :
    exec (.candidateCompletes (.button n slot)) s =
      .next (settle (handServices s s (Line.button n slot).input.toList
        (takePress n slot since (countedAt (.button n slot) .active since s)))) := by
  show Host.Outcome.next (event (completeLines [.button n slot]) s) = _
  rw [event_running h.running, completeLines_one s _ h.candidateDue, countLine_quiet h rfl rfl, deliverCounted_quiet h]
  rfl

/-- A press its lane does not take leaves its decoder's count alone. -/
theorem exec_press_ignored {n : LaneNo} {slot : Slot} {since : DeckTime} {s : State}
    (h : Completes (.button n slot) .idle .active since s)
    (ht : takePress n slot since (countedAt (.button n slot) .active since s) =
      countedAt (.button n slot) .active since s) :
    exec (.candidateCompletes (.button n slot)) s = .next (settle (countedAt (.button n slot) .active since s)) := by
  rw [exec_press h, ht, handServices_unjudged (s := s) (t := countedAt _ _ _ s) (n := n) _ rfl (fun _ _ => rfl) rfl rfl]

section
variable {n : LaneNo} {slot : Slot} {capture : DeckTime} {s : State} {h : Heat}

theorem takePress_idle
    (hidle : ∀ h, s.heat = some h → (h.lanes.get n).state ≠ .swimming ∧ (h.lanes.get n).state ≠ .collect) :
    takePress n slot capture s = s := by
  unfold takePress
  split
  · rfl
  · next h hs =>
    obtain ⟨hswim, hcollect⟩ := hidle h hs
    dsimp only
    split
    · next hst _ => exact absurd hst hswim
    · next hst => exact absurd hst hcollect
    · rfl

theorem takePress_collect (hs : s.heat = some h) (hst : (h.lanes.get n).state = .collect) :
    takePress n slot capture s = fillSlot n (.button slot) (h.raceTime capture) s := by
  simp only [takePress, hs, hst]

theorem takePress_swimming {x : Expectation} (hs : s.heat = some h) (hst : (h.lanes.get n).state = .swimming)
    (hx : (h.lanes.get n).expectation = some x) :
    takePress n slot capture s =
      if x.length = h.definition.lengths ∧ beforeStart (h.raceTime capture) = false ∧ x.window ≤ h.raceTime capture then
        openCollect n (h.raceTime capture) (.button slot) (h.raceTime capture) s
      else s := by
  simp only [takePress, hs, hst, hx]

end

/-! ## COLLECT opens (R72, R85, R86) -/

theorem openCollect_heat (n : LaneNo) (opening : Nat) (k : CollectionSlot) (t : Nat) {s : State} {h : Heat}
    (hs : s.heat = some h) :
    (openCollect n opening k t s).heat =
      some (h.modLane n (openedLane h.definition ((Collection.mk opening none none none none).write k t))) := by
  simp only [openCollect, queueLane_heat, State.modHeat_heat, hs, Option.map_some]
  rfl

theorem openCollect_faults (n : LaneNo) (opening : Nat) (k : CollectionSlot) (t : Nat) (s : State) :
    (openCollect n opening k t s).faults = s.faults := (RaceOnly.openCollect n opening k t s).faults

/-- No entry joins a list where COLLECT opens, so its event brings no judging. -/
theorem handServices_openCollect {n : LaneNo} (opening : Nat) (k : CollectionSlot) (t : Nat) {s u : State} {h : Heat}
    (is : List (Fin 71)) (hs : s.heat = some h) (hu : u.heat = s.heat) (hf : u.faults = s.faults) :
    handServices s s is (openCollect n opening k t u) = openCollect n opening k t u :=
  handServices_modLane is hs (openCollect_heat n opening k t (hu.trans hs)) ((openCollect_faults ..).trans hf) rfl rfl

/-! ## A slot fills (R87) -/

/-- A contact above the floor fills its empty slot. -/
theorem fillSlot_fills {n : LaneNo} {k : CollectionSlot} {t : Nat} {s : State} {h : Heat} {c : Collection}
    (hs : s.heat = some h) (hc : (h.lanes.get n).collection = some c) (ht : t < halfRange)
    (hfloor : lastTimedTime (h.lanes.get n).splits < t) (hempty : c.read k = none) :
    fillSlot n k t s = s.modLane n fun r => { r with collection := some (c.write k t) } := by
  refine State.modLane_congr hs ?_
  simp only [hc]
  rw [if_neg]
  simp [beforeStart, hempty, ht, hfloor]

/-- A slot written is no entry, so its event brings no judging. -/
theorem handServices_slot {n : LaneNo} (c : Collection) {s u : State} {h : Heat} (is : List (Fin 71))
    (hs : s.heat = some h) (hu : u.heat = s.heat) (hf : u.faults = s.faults) :
    handServices s s is (u.modLane n fun r => { r with collection := some c }) =
      u.modLane n fun r => { r with collection := some c } :=
  handServices_modLane (f := fun r => { r with collection := some c }) is hs
    (modLane_heat_of (hu.trans hs) n _) hf rfl rfl

/-! ## The skip of length N-1 (R74) -/

/-- The race in which length N-1 has been skipped and COLLECT opened, after its judging. -/
theorem skip_opens {n : LaneNo} (x : Expectation) (t count : Nat) {u : State} {h : Heat} (hu : u.heat = some h) :
    ∃ g, (judgeFrom n count (openCollect n t .pad t (skipExpected n x u))).heat = some g ∧
      (g.lanes.get n).state = .collect ∧ (g.lanes.get n).collection = some ⟨t, some t, none, none, none⟩ ∧
      (g.lanes.get n).expectation = none ∧ (g.lanes.get n).pendingTiming = none ∧
      (g.lanes.get n).leg = some h.definition.legs ∧ (g.lanes.get n).d1 = (h.lanes.get n).d1 ∧
      (g.lanes.get n).splits = (h.lanes.get n).splits ++ [missedEntry h.definition x.length] ∧
      (g.desks.get n).hold.reasons.skippedLength = true ∧ othersAsBefore n h g := by
  have hopened := openCollect_heat n t .pad t (skipExpected_heat n x hu)
  obtain ⟨g, hg, j⟩ := judgeFrom_judged _ n count _ hopened
  obtain ⟨xs, r, hlane, -⟩ := j.lane
  rw [modLane_get_self, skipExpected_lane] at hlane
  have hreason := j.skippedLength.trans (skipExpected_skippedLength h n x)
  have hothers := othersAsBefore_trans
    (othersAsBefore_trans (skipExpected_othersAsBefore h n x) (modLane_othersAsBefore n _ _)) j.others
  refine ⟨g, hg, ?_, ?_, ?_, ?_, ?_, ?_, ?_, hreason, hothers⟩ <;> rw [hlane] <;> rfl

/-- The judging of the entry that such a skip adds is its lane's alone. -/
theorem handServices_skip_opens {n : LaneNo} (x : Expectation) (t : Nat) {s u : State} {h : Heat} (is : List (Fin 71))
    (hs : s.heat = some h) (hu : u.heat = s.heat) (hf : u.faults = s.faults) :
    handServices s s is (openCollect n t .pad t (skipExpected n x u)) =
      judgeFrom n (s.splitCount n) (openCollect n t .pad t (skipExpected n x u)) := by
  refine handServices_lane is hs (openCollect_heat n t .pad t (skipExpected_heat n x (hu.trans hs)))
    ((openCollect_faults ..).trans ((skipExpected_faults n x u).trans hf))
    (othersAsBefore_trans (skipExpected_othersAsBefore h n x) (modLane_othersAsBefore n _ _)) ?_
  rw [modLane_get_self, skipExpected_lane]
  rfl

/-! ## The statement, by the line that opens or fills -/

section
variable {n : LaneNo} {since start : DeckTime} {s : State} {h : Heat} {t : Nat}

/-- A touch for length N at or after its window opens COLLECT (R72). -/
theorem touch_opens {e : End} {x : Expectation} (hs : s.heat = some h) (hstart : h.startTime = some start)
    (hc : Completes (.pad e n) .idle .active since s)
    (ht : t = (since + BitVec.ofInt 32 (s.params.padOffset e) - start).toNat) (hlt : t < halfRange)
    (hst : (h.lanes.get n).state = .swimming) (hx : (h.lanes.get n).expectation = some x) (hend : e = x.finish)
    (hlen : x.length = h.definition.lengths) (hw : x.window ≤ t) :
    exec (.candidateCompletes (.pad e n)) s =
      .next (settle (openCollect n t .pad t (countedAt (.pad e n) .active since s))) := by
  rw [exec_touch hc, takeTouch_judged hs hstart ht hst hx, judgeTouch_expected _ hlt hend hw,
    if_neg (Nat.not_lt.mpr hlen.ge), handServices_openCollect (u := countedAt _ _ _ s) _ _ _ _ hs rfl rfl]

/-- A touch at the other wall that skips length N-1 opens COLLECT behind its NONE entry (R74). -/
theorem touch_skip_opens {e : End} {x : Expectation} (hs : s.heat = some h) (hstart : h.startTime = some start)
    (hc : Completes (.pad e n) .idle .active since s)
    (ht : t = (since + BitVec.ofInt 32 (s.params.padOffset e) - start).toNat) (hlt : t < halfRange)
    (hst : (h.lanes.get n).state = .swimming) (hx : (h.lanes.get n).expectation = some x) (hend : e ≠ x.finish)
    (hlen : x.length + 1 = h.definition.lengths) (hlock : x.reference + h.definition.turnLockout ≤ t)
    (hskip : skipBound h.definition (h.lanes.get n) x ≤ t) :
    exec (.candidateCompletes (.pad e n)) s =
      .next (settle (judgeFrom n (s.splitCount n)
        (openCollect n t .pad t (skipExpected n x (countedAt (.pad e n) .active since s))))) := by
  rw [exec_touch hc, takeTouch_judged hs hstart ht hst hx, judgeTouch_skip _ hlt hend hlock (by omega) hskip, takeSkip_eq,
    if_neg (by omega), handServices_skip_opens (u := countedAt _ _ _ s) _ _ _ hs rfl rfl]

/-- A touch of the finish pad in COLLECT fills the pad's slot (R87). -/
theorem touch_fills {c : Collection} (hs : s.heat = some h) (hstart : h.startTime = some start)
    (hc : Completes (.pad h.definition.finishEnd n) .idle .active since s)
    (ht : t = (since + BitVec.ofInt 32 (s.params.padOffset h.definition.finishEnd) - start).toNat) (hlt : t < halfRange)
    (hst : (h.lanes.get n).state = .collect) (hcoll : (h.lanes.get n).collection = some c)
    (hfloor : lastTimedTime (h.lanes.get n).splits < t) (hempty : c.pad = none) :
    exec (.candidateCompletes (.pad h.definition.finishEnd n)) s =
      .next (settle ((countedAt (.pad h.definition.finishEnd n) .active since s).modLane n fun r =>
        { r with collection := some { c with pad := some t } })) := by
  have htime : h.raceTime (correctedCapture s.params h.definition.finishEnd since) = t :=
    (raceTime_of_start hstart _).trans ht.symm
  rw [exec_touch hc, takeTouch_collect (s := countedAt _ _ _ s) hs hst, htime, if_pos rfl,
    fillSlot_fills (s := countedAt _ _ _ s) (k := .pad) hs hcoll hlt hfloor hempty,
    handServices_slot (u := countedAt _ _ _ s) _ _ hs rfl rfl]
  rfl

variable {slot : Slot}

/-- A press while length N is expected, at or after its window, opens COLLECT (R85, R86). -/
theorem press_opens {x : Expectation} (hs : s.heat = some h) (hstart : h.startTime = some start)
    (hc : Completes (.button n slot) .idle .active since s) (ht : t = (since - start).toNat) (hlt : t < halfRange)
    (hst : (h.lanes.get n).state = .swimming) (hx : (h.lanes.get n).expectation = some x)
    (hlen : x.length = h.definition.lengths) (hw : x.window ≤ t) :
    exec (.candidateCompletes (.button n slot)) s =
      .next (settle (openCollect n t (.button slot) t (countedAt (.button n slot) .active since s))) := by
  have htime : h.raceTime since = t := (raceTime_of_start hstart _).trans ht.symm
  rw [exec_press hc, takePress_swimming (s := countedAt _ _ _ s) hs hst hx, htime,
    if_pos ⟨hlen, by simpa [beforeStart] using hlt, hw⟩,
    handServices_openCollect (u := countedAt _ _ _ s) _ _ _ _ hs rfl rfl]

/-- Another press of a SWIMMING lane leaves no trace (R85). -/
theorem press_swimming_ignored {x : Expectation} (hs : s.heat = some h) (hstart : h.startTime = some start)
    (hc : Completes (.button n slot) .idle .active since s) (ht : t = (since - start).toNat)
    (hst : (h.lanes.get n).state = .swimming) (hx : (h.lanes.get n).expectation = some x)
    (hno : x.length ≠ h.definition.lengths ∨ halfRange ≤ t ∨ t < x.window) :
    exec (.candidateCompletes (.button n slot)) s = .next (settle (countedAt (.button n slot) .active since s)) := by
  have htime : h.raceTime since = t := (raceTime_of_start hstart _).trans ht.symm
  refine exec_press_ignored hc ?_
  rw [takePress_swimming (s := countedAt _ _ _ s) hs hst hx, htime, if_neg]
  simp only [beforeStart, decide_eq_false_iff_not]
  omega

/-- A press in COLLECT above the floor fills its empty slot (R87). -/
theorem press_fills {c : Collection} (hs : s.heat = some h) (hstart : h.startTime = some start)
    (hc : Completes (.button n slot) .idle .active since s) (ht : t = (since - start).toNat) (hlt : t < halfRange)
    (hst : (h.lanes.get n).state = .collect) (hcoll : (h.lanes.get n).collection = some c)
    (hfloor : lastTimedTime (h.lanes.get n).splits < t) (hempty : c.read (.button slot) = none) :
    exec (.candidateCompletes (.button n slot)) s =
      .next (settle ((countedAt (.button n slot) .active since s).modLane n fun r =>
        { r with collection := some (c.write (.button slot) t) })) := by
  have htime : h.raceTime since = t := (raceTime_of_start hstart _).trans ht.symm
  rw [exec_press hc, takePress_collect (s := countedAt _ _ _ s) hs hst, htime,
    fillSlot_fills (s := countedAt _ _ _ s) hs hcoll hlt hfloor hempty,
    handServices_slot (u := countedAt _ _ _ s) _ _ hs rfl rfl]

/-- Another press in COLLECT leaves no trace (R87). -/
theorem press_collect_ignored {c : Collection} (hs : s.heat = some h) (hstart : h.startTime = some start)
    (hc : Completes (.button n slot) .idle .active since s) (ht : t = (since - start).toNat)
    (hst : (h.lanes.get n).state = .collect) (hcoll : (h.lanes.get n).collection = some c)
    (hno : halfRange ≤ t ∨ t ≤ lastTimedTime (h.lanes.get n).splits ∨ c.read (.button slot) ≠ none) :
    exec (.candidateCompletes (.button n slot)) s = .next (settle (countedAt (.button n slot) .active since s)) := by
  have htime : h.raceTime since = t := (raceTime_of_start hstart _).trans ht.symm
  refine exec_press_ignored hc ?_
  rw [takePress_collect (s := countedAt _ _ _ s) hs hst, htime]
  exact fillSlot_stays (s := countedAt _ _ _ s) hs hcoll hno

end

/-- Settles O42: COLLECT opened by touch, skip or press, and its slots filled, line by line. -/
theorem collectOpensAndFills : Obligations.CollectOpensAndFills := by
  refine ⟨fun n slot since s hc hidle => exec_press_ignored hc (takePress_idle hidle), ?_⟩
  intro n since start s h hs hstart
  refine ⟨fun e t x hc ht hlt hst hx => ⟨fun hend hlen hw => ?_, fun hend hlen hlock hskip => ?_⟩, ?_,
    fun slot t k hc ht hk => ?_⟩
  · exact ⟨_, _, touch_opens hs hstart hc ht hlt hst hx hend hlen hw,
      openCollect_heat (s := countedAt _ _ _ s) n t .pad t hs, modLane_get_self _ _ _, modLane_othersAsBefore n h _⟩
  · obtain ⟨g, hg, hopened⟩ := skip_opens x t (s.splitCount n) (u := countedAt (.pad e n) .active since s) hs
    exact ⟨_, g, touch_skip_opens hs hstart hc ht hlt hst hx hend hlen hlock hskip, hg, hopened⟩
  · intro t c hc ht hlt hst hcoll hfloor hempty
    exact touch_fills hs hstart hc ht hlt hst hcoll hfloor hempty
  · subst hk
    refine ⟨fun x hst hx => ⟨fun hlen hlt hw => ?_, press_swimming_ignored hs hstart hc ht hst hx⟩, fun c hst hcoll =>
      ⟨fun hlt hfloor hempty => press_fills hs hstart hc ht hlt hst hcoll hfloor hempty,
        press_collect_ignored hs hstart hc ht hst hcoll⟩, fun hswim hcollect => ?_⟩
    · exact ⟨_, _, press_opens hs hstart hc ht hlt hst hx hlen hw,
        openCollect_heat (s := countedAt _ _ _ s) n t (.button slot) t hs, modLane_get_self _ _ _,
        modLane_othersAsBefore n h _⟩
    · refine exec_press_ignored hc (takePress_idle fun g hg => ?_)
      obtain rfl : h = g := Option.some.inj (hs.symm.trans hg)
      exact ⟨hswim, hcollect⟩

end Sys2Proof.Machine
end

section
/-! PROMOTE TOUCH (R81 to R83): its checks, acceptance below N, COLLECT at N. -/

namespace Sys2Proof.Machine

open Sys2Proof

/-! ## The entry named -/

section
variable {before after : List RejectedEntry} {r : RejectedEntry} {number : Nat}

theorem find_rejection (hr : r.number = number) (hother : ∀ q ∈ before ++ after, q.number ≠ number) :
    (before ++ r :: after).find? (fun q => q.number == number) = some r := by
  have hnone : before.find? (fun q => q.number == number) = none := by
    simpa using fun q hq => hother q (List.mem_append_left after hq)
  simp [List.find?_append, hnone, hr]

/-- The entry promoted leaves the rejected list (R82, R83). -/
theorem filter_rejection (hr : r.number = number) (hother : ∀ q ∈ before ++ after, q.number ≠ number) :
    (before ++ r :: after).filter (fun q => q.number != number) = before ++ after := by
  have hkeep : (before ++ after).filter (fun q => q.number != number) = before ++ after :=
    List.filter_eq_self.mpr fun q hq => by simpa using hother q hq
  rw [List.filter_append, List.filter_cons_of_neg (by simp [hr]), ← List.filter_append, hkeep]

end

/-! ## The checks of R81 -/

section
variable (link : Link) {number : Nat} (n : LaneNo) {h : Heat} {l : Lane} {x : Expectation} {r : RejectedEntry} (s : State)

theorem promote_notFound (hno : ∀ q ∈ l.rejected, q.number ≠ number) :
    promote link number n h l s = refuse .notFound s := by
  have hnone : l.rejected.find? (fun q => q.number == number) = none := by simpa using hno
  unfold promote
  split
  · next hfound =>
    rw [hnone] at hfound
    cases hfound
  · rfl

theorem promote_stale (hx : l.expectation = some x) (hfound : l.rejected.find? (fun q => q.number == number) = some r)
    (hstale : r.finish ≠ x.finish ∨ r.time ≤ x.reference) : promote link number n h l s = refuse .stale s := by
  simp only [promote, hx, hfound, if_pos hstale]

theorem promote_taken (hx : l.expectation = some x) (hfound : l.rejected.find? (fun q => q.number == number) = some r)
    (hend : r.finish = x.finish) (htime : x.reference < r.time) :
    promote link number n h l s = promoteAnswer n x.length (promoteEntry link n h x r s) := by
  simp only [promote, hx, hfound]
  rw [if_neg]
  rintro (hother | hle)
  · exact hother hend
  · exact Nat.not_le.mpr htime hle

end

theorem performPromote_zero (l : Link) (b : Byte) (s : State) : performPromote l b 0 s = malformed s := if_pos rfl

theorem performPromote_swimming (l : Link) {b : Byte} {number : Word16} {s : State} {n : LaneNo} {h : Heat}
    (hnumber : number ≠ 0) (hb : b.toNat = n.val) (hs : s.heat = some h) (hst : (h.lanes.get n).state = .swimming) :
    performPromote l b number s = promote l number.toNat n h (h.lanes.get n) s := by
  rw [performPromote, if_neg hnumber]
  exact laneRequest_taken (laneOfByte_of_toNat hb) hs (by rw [hst]; rfl)

theorem promoteAnswer_of_heat (n : LaneNo) (k : Nat) {s : State} {g : Heat} (hs : s.heat = some g) :
    promoteAnswer n k s =
      done (byteOf k :: optionalGroup [(g.lanes.get n).expectation.map Expectation.bytes] ++
        [byteOf (g.lanes.get n).rejected.length]) s := by
  simp only [promoteAnswer, hs]

/-! ## The entry promoted (R82, R83) -/

/-- A lane with the rejection of a number gone. -/
def Lane.dropRejection (number : Nat) (l : Lane) : Lane :=
  { l with rejected := l.rejected.filter fun q => q.number != number }

theorem dropRejection_accepting {n : LaneNo} {x : Expectation} {h : Heat} {kept : List RejectedEntry} {number : Nat}
    (hx : (h.lanes.get n).expectation = some x)
    (hkept : (h.lanes.get n).rejected.filter (fun q => q.number != number) = kept) :
    Accepting n [] kept x h (h.modLane n (Lane.dropRejection number)) where
  rest := rfl
  lane := ⟨x, (h.lanes.get n).leg, by rw [modLane_get_self, List.append_nil, ← hx, ← hkept]; rfl, rfl⟩
  untimed := fun _ he => absurd he List.not_mem_nil
  others := modLane_othersAsBefore n h _

section
variable (link : Link) {n : LaneNo} {h : Heat} {x : Expectation} {r : RejectedEntry} {kept : List RejectedEntry} {s : State}

/-- Below N the touch is accepted with source PROMOTED and judged (R82). -/
theorem promoteEntry_accepts (hs : s.heat = some h) (hst : (h.lanes.get n).state = .swimming)
    (hx : (h.lanes.get n).expectation = some x)
    (hkept : (h.lanes.get n).rejected.filter (fun q => q.number != r.number) = kept) (hk : 1 ≤ x.length)
    (hlen : x.length < h.definition.lengths) :
    ∃ g, (promoteEntry link n h x r s).heat = some g ∧ Accepted n x.length r.time .promoted [] kept x s h g ∧
      SplitsNoticed n (some ⟨link, r.number⟩) s (promoteEntry link n h x r s) h g := by
  have heq : promoteEntry link n h x r s =
      judgeFrom n (h.lanes.get n).splits.length
        (acceptLength n x.length r.time .promoted (some ⟨link, r.number⟩) (s.modLane n (Lane.dropRejection r.number))) :=
    if_pos hlen
  obtain ⟨g, hg, hacc, hnoticed, -⟩ := acceptLength_accepted (t := r.time) (source := .promoted)
    (p := some ⟨link, r.number⟩) (s' := s) (h.lanes.get n).splits.length hs hst (modLane_heat_of hs n _)
    (dropRejection_accepting hx hkept) hk (SplitsGrow.modLane _ s fun _ => rfl) rfl
  exact ⟨g, by rw [heq, hg], hacc, by rw [heq]; exact hnoticed⟩

/-- At N it opens COLLECT from the present race time, without a notice (R83). -/
theorem promoteEntry_opens (hs : s.heat = some h) (hlen : x.length = h.definition.lengths)
    (hkept : (h.lanes.get n).rejected.filter (fun q => q.number != r.number) = kept) :
    ∃ g, (promoteEntry link n h x r s).heat = some g ∧
      g.lanes.get n =
        openedLane h.definition ⟨h.raceTime s.deckTime, some r.time, none, none, none⟩
          { h.lanes.get n with rejected := kept } ∧
      othersAsBefore n h g ∧ n ∈ (promoteEntry link n h x r s).board.laneQueue ∧
      (promoteEntry link n h x r s).links = s.links := by
  have heq : promoteEntry link n h x r s =
      openCollect n (h.raceTime s.deckTime) .pad r.time (s.modLane n (Lane.dropRejection r.number)) :=
    if_neg (Nat.not_lt.mpr hlen.ge)
  have hheat := openCollect_heat n (h.raceTime s.deckTime) .pad r.time
    (modLane_heat_of hs n (Lane.dropRejection r.number))
  rw [heq]
  refine ⟨_, hheat, ?_, othersAsBefore_trans (modLane_othersAsBefore n h _) (modLane_othersAsBefore n _ _),
    mem_queueLane n _, rfl⟩
  rw [modLane_get_self, modLane_get_self, ← hkept]
  rfl

end

/-- What an acceptance leaves is judged by the inputs' service alone, which counting a request does not move. -/
theorem Accepted.of_counted {n : LaneNo} {k t : Nat} {source : SplitSource} {missed : List SplitEntry}
    {kept : List RejectedEntry} {x : Expectation} {l : Link} {s : State} {h g : Heat}
    (a : Accepted n k t source missed kept x (counted l s) h g) : Accepted n k t source missed kept x s h g := { a with }

/-- Settles O36: the checks of R81 in their order, then the entry accepted below N or opening COLLECT at N. -/
theorem promoteTouch : Obligations.PromoteTouch := by
  intro l tag b number n s h x htakes hb hs hst hx
  have hcounted : (counted l s).heat = some h := hs
  have hreply : ∀ {t r data}, performPromote l b number (counted l s) = ⟨t, r, data⟩ →
      exec (.promoteTouch l tag b number) s = .next (answered l tag 0x0B r data t) := fun hr =>
    exec_laneRequest_of_reply (c := .promoteTouch l tag b number) rfl rfl htakes hr
  refine ⟨fun hzero => hreply ?_, fun hnumber hno => hreply ?_, fun before r after hnumber hrej hr hother => ?_⟩
  · rw [hzero, performPromote_zero]
    rfl
  · rw [performPromote_swimming l hnumber hb hcounted hst, promote_notFound l n _ hno]
    rfl
  · have hperform := performPromote_swimming l hnumber hb hcounted hst
    have hfound : (h.lanes.get n).rejected.find? (fun q => q.number == number.toNat) = some r := by
      rw [hrej, find_rejection hr hother]
    have hkept : (h.lanes.get n).rejected.filter (fun q => q.number != r.number) = before ++ after := by
      rw [hrej, filter_rejection rfl (hr ▸ hother)]
    refine ⟨fun hstale => hreply ?_, fun hend htime hk hlen => ?_, fun hend htime hlen => ?_⟩
    · rw [hperform, promote_stale l n _ hx hfound hstale]
      rfl
    · obtain ⟨g, hg, hacc, hnoticed⟩ := promoteEntry_accepts l hcounted hst hx hkept hk hlen
      refine ⟨_, g, hg, hacc.of_counted, hnoticed, hreply ?_⟩
      rw [hperform, promote_taken l n _ hx hfound hend htime, promoteAnswer_of_heat n _ hg, hacc.rejected.1]
      rfl
    · obtain ⟨g, hg, hlane, hothers, hqueued, hlinks⟩ := promoteEntry_opens l hcounted hlen hkept
      refine ⟨_, g, hg, hlane, hothers, hqueued, hlinks, hreply ?_⟩
      rw [hperform, promote_taken l n _ hx hfound hend htime, promoteAnswer_of_heat n _ hg, hlane]
      rfl

end Sys2Proof.Machine
end

section
/-! ADJUST FINISH (R97, R98): its checks, then the race with the final entry and the result core replaced. -/

namespace Sys2Proof.Machine

open Sys2Proof

/-! ## The checks of R97 -/

/-- The race clock of R97: the race time in RUNNING, the stop race time in REVIEW. -/
theorem raceClock_eq_some {h : Heat} {now : DeckTime} {clock : Nat}
    (hc : (h.phase = .running ∧ h.startTime ≠ none ∧ clock = h.raceTime now) ∨
      (h.phase = .review ∧ h.stopTime = some clock)) : h.raceClock now = some clock := by
  rcases hc with ⟨hphase, hstart, rfl⟩ | ⟨hphase, hstop⟩
  · obtain ⟨start, hs⟩ := Option.ne_none_iff_exists'.mp hstart
    simp [Heat.raceClock, Heat.raceTime, hphase, hs]
  · simp [Heat.raceClock, hphase, hstop]

section
variable {n : LaneNo} {h : Heat} {l : Lane} {t old clock : Nat} {source : SplitSource} {backup replaced : Option Nat}
variable (link : Link) (s : State)

theorem adjustFinish_noFinish (hres : l.result = some .noFinish) : adjustFinish link t n h l s = wrongLane l s := by
  simp only [adjustFinish, hres]

theorem adjustFinish_order (hres : l.result = some (.time old source backup replaced))
    (hclock : h.raceClock s.deckTime = some clock)
    (hout : t ≤ lastTimedTime (l.splits.filter fun e => e.length != h.definition.lengths) ∨ clock < t) :
    adjustFinish link t n h l s = refuse .order s := by
  simp only [adjustFinish, hres, hclock, Option.any_some, decide_eq_true_eq, if_pos hout]

theorem adjustFinish_taken (hres : l.result = some (.time old source backup replaced))
    (hclock : h.raceClock s.deckTime = some clock)
    (hlo : lastTimedTime (l.splits.filter fun e => e.length != h.definition.lengths) < t) (hhi : t ≤ clock) :
    adjustFinish link t n h l s =
      done (le4 t ++ le4 old ++ placeAnswer n (replaceFinish link t old backup n s))
        (replaceFinish link t old backup n s) := by
  simp only [adjustFinish, hres, hclock, Option.any_some, decide_eq_true_eq]
  exact if_neg (not_or.mpr ⟨Nat.not_le.mpr hlo, Nat.not_lt.mpr hhi⟩)

end

theorem performAdjustFinish_finished (l : Link) {b : Byte} (w : Word32) {s : State} {n : LaneNo} {h : Heat}
    (hb : b.toNat = n.val) (hs : s.heat = some h) (hst : (h.lanes.get n).state = .finished) :
    performAdjustFinish l b w s = adjustFinish l w.toNat n h (h.lanes.get n) s :=
  laneRequest_taken (laneOfByte_of_toNat hb) hs (by rw [hst]; rfl)

/-! ## The finish replaced (R98) -/

/-- A lane with another official time: source MANUAL, the replaced time and the backup value kept, the final entry rewritten. -/
def Lane.adjust (d : Definition) (t old : Nat) (backup : Option Nat) (l : Lane) : Lane :=
  { l with result := some (.time t .manual backup (some old)), splits := adjustSplits d t l.splits }

/-- The race with a finish replaced, before the release check. -/
def Heat.adjusted (h : Heat) (n : LaneNo) (t old : Nat) (backup : Option Nat) : Heat :=
  ((h.modLane n (Lane.adjust h.definition t old backup)).modDesk n (Desk.dropReasons finishReasons)).replaced

theorem replaceFinish_heat (link : Link) (t old : Nat) (backup : Option Nat) (n : LaneNo) {s : State} {h : Heat}
    (hs : s.heat = some h) :
    (replaceFinish link t old backup n s).heat = some ((h.adjusted n t old backup).checked n s.params s.deckTime) := by
  simp only [replaceFinish, releaseCheck_heat, recomputePlaces_heat, changeDesk_heat, queueLane_heat, raise_heat,
    State.modHeat_heat, hs, Option.map_some, (RaceOnly.recomputePlaces _).params, (RaceOnly.recomputePlaces _).deckTime,
    (RaceOnly.changeDesk _ _ _ _ _).params, (RaceOnly.changeDesk _ _ _ _ _).deckTime, queueLane_params, raise_params,
    State.modHeat_params, queueLane_deckTime, raise_deckTime, State.modHeat_deckTime]
  rfl

theorem dropReasons_finishReasons (k : Desk) :
    k.dropReasons finishReasons =
      { k with hold := { k.hold with reasons := { k.hold.reasons with discrepant := false, padMissed := false } } } := by
  simp [Desk.dropReasons, ReasonSet.without, finishReasons, ReasonSet.put, ReasonSet.empty]

section
variable (h : Heat) (n : LaneNo) (t old : Nat) (backup : Option Nat)

theorem adjusted_lane : (h.adjusted n t old backup).lanes.get n = (h.lanes.get n).adjust h.definition t old backup := by
  simp [Heat.adjusted]

theorem adjusted_desk :
    (h.adjusted n t old backup).desks.get n =
      { (h.desks.get n).dropReasons finishReasons with place := ((h.adjusted n t old backup).desks.get n).place } := by
  simp [Heat.adjusted, replaced_get]

theorem adjusted_other {m : LaneNo} (hm : m ≠ n) :
    (h.adjusted n t old backup).lanes.get m = h.lanes.get m ∧
      (h.adjusted n t old backup).desks.get m =
        { h.desks.get m with place := ((h.adjusted n t old backup).desks.get m).place } := by
  simp [Heat.adjusted, replaced_get, modLane_get, modDesk_get, hm]

end

theorem checked_stopTime (h : Heat) (n : LaneNo) (p : Params) (now : DeckTime) :
    (h.checked n p now).stopTime = h.stopTime := by
  unfold Heat.checked Heat.releasedLane
  split
  · split
    · rfl
    · exact (finalised_fields _ p now).2.2.2.1
  · rfl

/-- The release check makes of a FINISHED lane what R127 says of the race it leaves. -/
theorem checked_lane_finished {h : Heat} {n : LaneNo} {core : ResultCore} (p : Params) (now : DeckTime)
    (hst : (h.lanes.get n).state = .finished) (hres : (h.lanes.get n).result = some core) :
    (h.checked n p now).lanes.get n = { h.lanes.get n with state := finishedState n (h.checked n p now) } := by
  rw [checked_lane, if_pos ⟨hst, hres ▸ Option.some_ne_none core⟩, finishedState, checked_definition, checked_desks]

/-- The reply of R97's own checks, on the counted request, is what the hub answers. -/
theorem exec_adjustFinish_of_reply {l : Link} {tag b : Byte} {w : Word32} {n : LaneNo} {s t : State} {h : Heat} {r : Result}
    {data : List Byte} (htakes : Takes l s) (hb : b.toNat = n.val) (hs : s.heat = some h)
    (hst : (h.lanes.get n).state = .finished)
    (hr : adjustFinish l w.toNat n h (h.lanes.get n) (counted l s) = ⟨t, r, data⟩) :
    exec (.adjustFinish l tag b w) s = .next (answered l tag 0x0E r data t) :=
  exec_laneRequest_of_reply (c := .adjustFinish l tag b w) rfl rfl htakes
    ((performAdjustFinish_finished l w (s := counted l s) hb hs hst).trans hr)

end Sys2Proof.Machine

namespace Sys2Proof

open Machine

/-- Settles O38: the checks of R97 against the race clock, then the finish of R98 and the release check. -/
theorem adjustFinish : Obligations.AdjustFinish := by
  intro l tag b w n s h clock htakes hb hs hst hclock
  have hcounted : (counted l s).heat = some h := hs
  have hnow : h.raceClock (counted l s).deckTime = some clock := raceClock_eq_some hclock
  refine ⟨fun hres => exec_adjustFinish_of_reply htakes hb hs hst ?_, fun old source backup replaced hres =>
    ⟨fun hout => exec_adjustFinish_of_reply htakes hb hs hst (adjustFinish_order l _ hres hnow hout), fun hlo hhi => ?_⟩⟩
  · rw [adjustFinish_noFinish l _ hres, wrongLane, hst]
    rfl
  · have hheat := replaceFinish_heat l w.toNat old backup n hcounted
    have hlane := adjusted_lane h n w.toNat old backup
    refine ⟨_, _, hheat, exec_adjustFinish_of_reply htakes hb hs hst ?_, ?_, ?_, ?_, fun m hm => ?_,
      checked_definition .., (checked_fields ..).1, checked_stopTime ..⟩
    · rw [adjustFinish_taken l _ hres hnow hlo hhi, placeAnswer_of_heat n hheat]
      rfl
    · rw [checked_lane_finished _ _ (by rw [hlane]; exact hst) (by rw [hlane]; rfl), hlane]
      rfl
    · rw [checked_desks, adjusted_desk, dropReasons_finishReasons]
    · rw [checked_desks, adjusted_desk]
      rfl
    · obtain ⟨hother, hdesk⟩ := adjusted_other h n w.toNat old backup hm
      rw [checked_other _ _ _ _ _ hm, checked_desks, hother, hdesk]
      exact ⟨rfl, rfl, rfl⟩

end Sys2Proof
end

section
/-! The CollectTime expiry (R86, R90 to R94, R170): the resolution of a collection, the clock freeze, the finish with its system
reasons. -/

namespace Sys2Proof.Machine

open Sys2Proof

/-! ## The resolution of a collection (R90 to R93) -/

theorem median3_eq_of_isMedian {m a b c : Nat} (h : isMedian m [a, b, c]) : m = median3 a b c := by
  obtain ⟨lo, hi, hlo, hhi, hperm⟩ := h
  have horders := List.mem_permutations'.mpr hperm
  simp only [List.permutations', List.permutations'Aux, List.map_cons, List.map_nil, List.flatMap_cons, List.flatMap_nil,
    List.append_nil, List.cons_append, List.nil_append, List.mem_cons, List.cons.injEq, and_true, List.not_mem_nil,
    or_false] at horders
  unfold median3
  omega

theorem length_buttons_le (c : Collection) : c.buttons.length ≤ 3 := List.length_filterMap_le id _

/-- The backup value that R90 gives the filled buttons is the one the collection computes. -/
theorem backup_of_backupIs {c : Collection} {v : Option Nat} (h : backupIs c.buttons v) : c.backup = v := by
  obtain ⟨hnone, hone, htwo, hthree⟩ := h
  have hle := length_buttons_le c
  unfold Collection.backup
  match hc : c.buttons with
  | [] => exact (hnone hc).symm
  | [a] => exact (hone a hc).symm
  | [a, b] => exact (htwo a b hc).symm
  | [a, b, d] =>
    obtain ⟨m, rfl, hm⟩ := hthree (by rw [hc]; rfl)
    exact congrArg some (median3_eq_of_isMedian (hc ▸ hm)).symm
  | a :: b :: d :: e :: rest =>
    rw [hc] at hle
    exact absurd hle (by simp)

theorem buttonSource_eq (c : Collection) : c.buttonSource = sourceByButtons c.buttons.length := by
  have hle := length_buttons_le c
  unfold Collection.buttonSource
  match hc : c.buttons with
  | [] => rfl
  | [_] => rfl
  | [_, _] => rfl
  | [_, _, _] => rfl
  | _ :: _ :: _ :: _ :: _ =>
    rw [hc] at hle
    exact absurd hle (by simp)

theorem lt_timeGap_iff (tolerance a b : Nat) : tolerance < timeGap a b ↔ tolerance < a - b ∨ tolerance < b - a := by
  unfold timeGap
  omega

theorem discrepant_eq_true_iff (c : Collection) (tolerance pad : Nat) :
    c.discrepant tolerance pad = true ↔
      2 ≤ c.buttons.length ∧ ∃ v, c.backup = some v ∧ (tolerance < pad - v ∨ tolerance < v - pad) := by
  simp only [Collection.discrepant, Bool.and_eq_true, decide_eq_true_eq, Option.any_eq_true, lt_timeGap_iff]

/-- The system reasons of a collection resolved to a time (R92, R93). -/
structure SystemReasons (c : Collection) (tolerance : Nat) (padInService : Bool) (t : Nat) (rs : List Reason) : Prop where
  only : ∀ x ∈ rs, x = .discrepant ∨ x = .padMissed
  discrepant : .discrepant ∈ rs ↔ c.pad = some t ∧ 2 ≤ c.buttons.length ∧
    ∃ v, c.backup = some v ∧ (tolerance < t - v ∨ tolerance < v - t)
  padMissed : .padMissed ∈ rs ↔ c.pad = none ∧ padInService = true

/-- With a pad time that time and PAD, else the backup value and the source of the buttons, with their reasons. -/
theorem resolve_resolves {c : Collection} {t : Nat} {source : SplitSource} (tolerance : Nat) (padInService : Bool)
    (h : (c.pad = some t ∧ source = .pad) ∨
      (c.pad = none ∧ c.backup = some t ∧ source = sourceByButtons c.buttons.length)) :
    ∃ rs, c.resolve tolerance padInService = some (t, source, rs) ∧ SystemReasons c tolerance padInService t rs := by
  rcases h with ⟨hpad, rfl⟩ | ⟨hpad, hbackup, rfl⟩
  · refine ⟨_, by simp only [Collection.resolve, hpad]; rfl, ?_⟩
    by_cases hd : c.discrepant tolerance t = true
    · simp only [if_pos hd]
      exact ⟨by simp, by simp [hpad, (discrepant_eq_true_iff c tolerance t).mp hd], by simp [hpad]⟩
    · simp only [if_neg hd]
      rw [discrepant_eq_true_iff] at hd
      exact ⟨by simp, by simp [hpad, hd], by simp [hpad]⟩
  · refine ⟨_, by simp only [Collection.resolve, hpad, hbackup, buttonSource_eq]; rfl, ?_⟩
    cases padInService <;> exact ⟨by simp, by simp [hpad], by simp [hpad]⟩

/-! ## The board of a finish (R166, R169, R170) -/

/-- A board that has been given lane updates and events to show, and nothing else. -/
def QueuesOnly (b c : Board) : Prop := c = { b with laneQueue := c.laneQueue, events := c.events }

namespace QueuesOnly

theorem refl (b : Board) : QueuesOnly b b := rfl

theorem of_eq {b c : Board} (h : c = b) : QueuesOnly b c := h ▸ refl b

theorem trans {a b c : Board} (h : QueuesOnly a b) (k : QueuesOnly b c) : QueuesOnly a c := by
  unfold QueuesOnly at h k ⊢
  rw [h] at k
  exact k

theorem queueLane (n : LaneNo) (b : Board) : QueuesOnly b (b.queueLane n) := by
  unfold Board.queueLane
  split <;> rfl

theorem queueEvent (i : EventItem) (b : Board) : QueuesOnly b (b.queueEvent i) := by
  unfold Board.queueEvent
  split <;> rfl

theorem foldl {α : Type} {f : State → α → State} (hf : ∀ s a, QueuesOnly s.board (f s a).board) (as : List α) (s : State) :
    QueuesOnly s.board (as.foldl f s).board := by
  induction as generalizing s with
  | nil => exact refl _
  | cons a as ih => exact (hf s a).trans (ih (f s a))

theorem freeze {b c : Board} (h : QueuesOnly b c) : c.freeze = b.freeze := by
  rw [QueuesOnly] at h
  rw [h]

theorem freezeUsed {b c : Board} (h : QueuesOnly b c) : c.freezeUsed = b.freezeUsed := by
  rw [QueuesOnly] at h
  rw [h]

end QueuesOnly

@[simp] theorem addReason_board (n : LaneNo) (r : Reason) (s : State) : (addReason n r s).board = s.board :=
  changeDesk_board ..

theorem addReasons_queuesOnly (n : LaneNo) (rs : List Reason) (s : State) :
    QueuesOnly s.board (addReasons n rs s).board :=
  .foldl (fun s r => .of_eq (addReason_board n r s)) rs s

@[simp] theorem completeExchange_board (n : LaneNo) (x : Exchange) (r : Option Reason) (s : State) :
    (completeExchange n x r s).board = s.board := by
  cases r <;> simp [completeExchange]

@[simp] theorem giveVerdict_board (n : LaneNo) (x : Exchange) (v : Verdict) (s : State) :
    (giveVerdict n x v s).board = s.board := completeExchange_board ..

@[simp] theorem judgeMargin_board (n : LaneNo) (a : Nat) (x : Exchange) (s : State) :
    (judgeMargin n a x s).board = s.board := by
  unfold judgeMargin
  split <;> simp

@[simp] theorem settleTouch_board (n : LaneNo) (e : SplitEntry) (s : State) : (settleTouch n e s).board = s.board := by
  unfold settleTouch
  split
  · rfl
  · split
    · rfl
    · split <;> simp

@[simp] theorem settleTakeoff_board (n : LaneNo) (e : SplitEntry) (s : State) : (settleTakeoff n e s).board = s.board := by
  unfold settleTakeoff
  split
  · rfl
  · split
    · rfl
    · split <;> simp

@[simp] theorem armExchange_board (n : LaneNo) (m : Nat) (s : State) : (armExchange n m s).board = s.board := by
  unfold armExchange
  split
  · rfl
  · split
    · rfl
    · split <;> simp

@[simp] theorem endReactionArming_board (n : LaneNo) (s : State) : (endReactionArming n s).board = s.board := rfl

theorem judgeEntry_board (n : LaneNo) (s : State) (e : SplitEntry) : (judgeEntry n s e).board = s.board := by
  unfold judgeEntry
  split <;> simp

theorem judgeFrom_queuesOnly (n : LaneNo) (k : Nat) (s : State) : QueuesOnly s.board (judgeFrom n k s).board := by
  unfold judgeFrom
  split
  · exact .refl _
  · exact .foldl (fun s e => .of_eq (judgeEntry_board n s e)) _ s

theorem addSplit_queuesOnly (n : LaneNo) (e : SplitEntry) (p : Option Promotion) (s : State) :
    QueuesOnly s.board (addSplit n e p s).board := by
  unfold addSplit
  split
  · exact .refl _
  · dsimp only
    split
    · exact .queueLane n _
    · exact .refl _

theorem addFinalSplit_queuesOnly (n : LaneNo) (t : Nat) (source : SplitSource) (s : State) :
    QueuesOnly s.board (addFinalSplit n t source s).board := by
  unfold addFinalSplit
  split
  · exact .refl _
  · exact (addSplit_queuesOnly n _ none s).trans (judgeFrom_queuesOnly n _ _)

theorem placeLane_queuesOnly (s : State) (n : LaneNo) : QueuesOnly s.board (placeLane s n).board := by
  unfold placeLane
  split
  · exact .refl _
  · split
    · exact .refl _
    · exact .queueLane n _

theorem recomputePlaces_queuesOnly (s : State) : QueuesOnly s.board (recomputePlaces s).board :=
  .foldl placeLane_queuesOnly allLanes (s.modHeat _)

theorem heatEvent_queuesOnly (code : EventCode) (v : Nat) (s : State) :
    QueuesOnly s.board (heatEvent code v s).board := by
  unfold heatEvent
  split
  · exact .refl _
  · exact .queueEvent _ _

theorem testFinal_queuesOnly (s : State) : QueuesOnly s.board (testFinal s).board := by
  unfold testFinal
  split
  · exact .refl _
  · split
    · dsimp only
      split <;> exact heatEvent_queuesOnly .final 0 (s.modHeat _)
    · exact .refl _

theorem releaseLane_queuesOnly (n : LaneNo) (cause : Option Link) (s : State) :
    QueuesOnly s.board (releaseLane n cause s).board := by
  unfold releaseLane
  split
  · exact .refl _
  · split
    · exact .refl _
    · exact (QueuesOnly.queueLane n s.board).trans (testFinal_queuesOnly _)

theorem releaseCheck_queuesOnly (n : LaneNo) (s : State) : QueuesOnly s.board (releaseCheck n s).board := by
  unfold releaseCheck
  split
  · exact .refl _
  · split
    · exact releaseLane_queuesOnly n none s
    · exact .refl _

/-- With a lane still READY, SWIMMING or COLLECT the race stays as it is (R35). -/
theorem testReview_unfinished {s : State} {h : Heat} {m : LaneNo} (hs : s.heat = some h)
    (hm : (h.lanes.get m).unfinished = true) : testReview s = s := by
  have hlanes : h.lanesWhere Lane.unfinished ≠ [] := fun hnil =>
    Bool.false_ne_true (((lanesWhere_nil h _).mp hnil m).symm.trans hm)
  simp only [testReview, hs, hlanes, and_false, if_false]

theorem endedLane_get_other (h : Heat) {n m : LaneNo} (core : ResultCore) (rs : List Reason) (hm : m ≠ n) :
    (h.endedLane n core rs).lanes.get m = h.lanes.get m := by
  unfold Heat.endedLane
  dsimp only
  split <;> simp [modLane_get, hm]

/-- A finish with a time, its tests of the race left: FINISH notice, reasons and places. -/
def finishTimed (n : LaneNo) (core : ResultCore) (link : Option Link) (rs : List Reason) (s : State) : State :=
  recomputePlaces (addReasons n rs (queueLane n (raise (.finish n core link) (s.modLane n (Lane.finish core)))))

theorem finishLane_timed {core : ResultCore} (n : LaneNo) (link : Option Link) (rs : List Reason) (s : State)
    (ho : core.official.isSome = true) :
    finishLane n core link rs s = testFinal (testReview (releaseCheck n (finishTimed n core link rs s))) := by
  simp only [finishLane, ho, if_true, finishTimed]

theorem finishTimed_heat {core : ResultCore} (n : LaneNo) (link : Option Link) (rs : List Reason) {s : State} {h : Heat}
    (hs : s.heat = some h) (ho : core.official.isSome = true) :
    (finishTimed n core link rs s).heat = some (h.endedLane n core rs) := by
  simp [finishTimed, hs, Heat.endedLane, ho]

theorem finishTimed_queuesOnly (n : LaneNo) (core : ResultCore) (link : Option Link) (rs : List Reason) (s : State) :
    QueuesOnly s.board (finishTimed n core link rs s).board :=
  ((QueuesOnly.queueLane n s.board).trans (addReasons_queuesOnly n rs _)).trans (recomputePlaces_queuesOnly _)

/-- A finish with a time that is not the last one queues work on the board, and its clock runs on (R169). -/
theorem finishLane_queuesOnly {n m : LaneNo} {core : ResultCore} (link : Option Link) (rs : List Reason) {s : State}
    {h : Heat} (hs : s.heat = some h) (ho : core.official.isSome = true) (hm : m ≠ n)
    (hu : (h.lanes.get m).unfinished = true) : QueuesOnly s.board (finishLane n core link rs s).board := by
  have hchecked : (releaseCheck n (finishTimed n core link rs s)).heat =
      some ((h.endedLane n core rs).checked n (finishTimed n core link rs s).params
        (finishTimed n core link rs s).deckTime) := by
    rw [releaseCheck_heat, finishTimed_heat n link rs hs ho, Option.map_some]
  rw [finishLane_timed n link rs s ho, testReview_unfinished hchecked (m := m)
    (by rw [checked_other _ _ _ _ _ hm, endedLane_get_other _ _ _ hm, hu])]
  exact ((finishTimed_queuesOnly n core link rs s).trans (releaseCheck_queuesOnly n _)).trans (testFinal_queuesOnly _)

theorem beginFreeze_freeze (p : Params) (now : DeckTime) (t : Nat) (b : Board) :
    (b.beginFreeze p now t).freeze =
      if b.freezeUsed = true ∨ p.freezeHold = 0 then b.freeze else some ⟨⟨now, p.freezeHold⟩, t / 100⟩ := by
  unfold Board.beginFreeze
  by_cases hused : b.freezeUsed = true
  · simp only [hused, if_true, true_or]
  · by_cases hhold : p.freezeHold = 0
    · simp only [hused, hhold, if_true, or_true]
      rfl
    · simp only [hused, hhold, if_false]
      rfl

theorem beginFreeze_freezeUsed (p : Params) (now : DeckTime) (t : Nat) (b : Board) :
    (b.beginFreeze p now t).freezeUsed = true := by
  unfold Board.beginFreeze
  split
  · assumption
  · split <;> rfl

/-! ## The finish resolved (R94) -/

/-- A collection due: its opening race time plus CollectTime is reached (R86). -/
theorem collectDue_eq_true_iff {n : LaneNo} {s : State} :
    collectDue n s = true ↔
      ∃ h c, s.heat = some h ∧ (h.lanes.get n).state = .collect ∧ (h.lanes.get n).collection = some c ∧
        c.opening + h.definition.collectTime ≤ h.raceTime s.deckTime := by
  cases hs : s.heat with
  | none => simp [collectDue, hs]
  | some h => simp [collectDue, hs, Option.any_eq_true]

theorem exec_collecttimeExpiry {n : LaneNo} {s : State} (hrun : s.phase = .running) :
    exec (.collecttimeExpiry n) s = .next (settle (if collectDue n s then resolveFinish n s else s)) := by
  show Host.Outcome.next (event (fun s => if collectDue n s then resolveFinish n s else s) s) = _
  rw [event_running hrun]

/-- The state in which a resolved lane is finished: the final entry judged, the clock freeze begun. -/
def resolving (n : LaneNo) (t : Nat) (source : SplitSource) (s : State) : State :=
  (addFinalSplit n t source s).modBoard (Board.beginFreeze s.params s.deckTime t)

theorem resolving_raceOnly (n : LaneNo) (t : Nat) (source : SplitSource) (s : State) : RaceOnly s (resolving n t source s) :=
  (RaceOnly.addFinalSplit n t source s).trans (.modBoard _ _ (Board.beginFreeze_worked ..))

/-- The freeze leaves race and notices to the judging of the final entry. -/
theorem resolving_finishing (n : LaneNo) (t : Nat) (source : SplitSource) {s : State} {h : Heat} (hs : s.heat = some h) :
    ∃ g before, (resolving n t source s).heat = some g ∧
      Finishing n h g ((h.lanes.get n).splits ++ [finalEntry h.definition t source]) (g.lanes.get n).exchanges ∧
      BeforeFinish n [finalEntry h.definition t source] before ∧ Raised before s (resolving n t source s) :=
  addFinalSplit_finishing n t source hs

theorem resolveFinish_eq {n : LaneNo} {s : State} {h : Heat} {c : Collection} {t : Nat} {source : SplitSource}
    {rs : List Reason} (hs : s.heat = some h) (hc : (h.lanes.get n).collection = some c)
    (hr : c.resolve h.definition.backupTolerance (s.inService (padInput n h.definition.finishEnd)) = some (t, source, rs)) :
    resolveFinish n s = finishLane n (.time t source c.backup none) none rs (resolving n t source s) := by
  simp only [resolveFinish, hs, hc, hr, resolving, (RaceOnly.addFinalSplit n t source s).params,
    (RaceOnly.addFinalSplit n t source s).deckTime]

/-- The freeze of the first resolution of a start, while another lane keeps the race in RUNNING (R170). -/
theorem finishLane_resolving_freeze {n m : LaneNo} {core : ResultCore} (t : Nat) (source : SplitSource) (rs : List Reason)
    {s : State} {g : Heat} (hg : (resolving n t source s).heat = some g) (ho : core.official.isSome = true) (hm : m ≠ n)
    (hu : (g.lanes.get m).unfinished = true) :
    (finishLane n core none rs (resolving n t source s)).board.freeze =
        (if s.board.freezeUsed = true ∨ s.params.freezeHold = 0 then s.board.freeze
          else some ⟨⟨s.deckTime, s.params.freezeHold⟩, t / 100⟩) ∧
      (finishLane n core none rs (resolving n t source s)).board.freezeUsed = true := by
  have hfinish := finishLane_queuesOnly none rs hg ho hm hu
  have hsplit := addFinalSplit_queuesOnly n t source s
  refine ⟨hfinish.freeze.trans ?_, hfinish.freezeUsed.trans (beginFreeze_freezeUsed ..)⟩
  rw [resolving, State.modBoard_board, beginFreeze_freeze, hsplit.freeze, hsplit.freezeUsed]

/-- The system reasons a finish leaves in the hold set are those that stood and those it brings (R92, R93). -/
theorem finishLane_reasons {n : LaneNo} {core : ResultCore} {link : Option Link} {rs : List Reason} {s : State}
    {h g0 g : Heat} {sp : List SplitEntry} {xs : List Exchange} (hs : s.heat = some g0) (hp : Finishing n h g0 sp xs)
    (hrs : ∀ x ∈ rs, x = .discrepant ∨ x = .padMissed) (hg : (finishLane n core link rs s).heat = some g) {x : Reason}
    (hx : x = .discrepant ∨ x = .padMissed) :
    (g.desks.get n).hold.reasons.has x = true ↔ (h.desks.get n).hold.reasons.has x = true ∨ x ∈ rs := by
  obtain ⟨g', hg', -, -, -, hreasons⟩ := finishes n s h g0 sp xs core rs hp hrs
  rw [finishLane_heat, hs, Option.map_some, ← hg'] at hg
  exact Option.some.inj hg ▸ hreasons x hx

/-- Settles O39: the collection resolved by R90 to R93, then the finish of R94 behind the judging of its entry; no collection that
is due, nothing. -/
theorem collecttimeExpiryResolves : Obligations.CollecttimeExpiryResolves := by
  intro n s hrun
  refine ⟨fun h c buttons backup t source hs hst hc hdue hbuttons hbackup hsource => ?_, fun hearly => ?_⟩
  · obtain rfl : buttons = c.buttons := hbuttons
    obtain rfl := backup_of_backupIs hbackup
    obtain ⟨rs, hresolve, honly, hdiscrepant, hmissed⟩ := resolve_resolves h.definition.backupTolerance
      (s.inService (padInput n h.definition.finishEnd)) hsource
    obtain ⟨g0, before, hg0, hp, hbefore, hraised⟩ := resolving_finishing n t source hs
    obtain ⟨g, hg, hfin, hnoticed, hsplits, -⟩ := finishLane_finishes (.time t source c.backup none) none
      (resolving_raceOnly n t source s) hg0 hp honly hbefore hraised
    have hreasons := fun x => finishLane_reasons (x := x) hg0 hp honly hg
    refine ⟨_, g, ?_, hg, hfin, hnoticed, hsplits, (hreasons .discrepant (.inl rfl)).trans (or_congr_right hdiscrepant),
      (hreasons .padMissed (.inr rfl)).trans (or_congr_right hmissed), fun _ ⟨m, hm, hu⟩ =>
        finishLane_resolving_freeze t source rs hg0 rfl hm ((hp.others m hm).1 ▸ hu)⟩
    rw [exec_collecttimeExpiry hrun, if_pos (collectDue_eq_true_iff.mpr ⟨h, c, hs, hst, hc, hdue⟩),
      resolveFinish_eq hs hc hresolve]
  · rw [exec_collecttimeExpiry hrun, if_neg]
    rw [collectDue_eq_true_iff]
    rintro ⟨h, c, hs, hst, hc, hdue⟩
    exact absurd (hearly h c hs hst hc) (Nat.not_lt.mpr hdue)

end Sys2Proof.Machine
end

section
/-! A platform's release (R104, R106, R108, R111, R112): the record it is offered to, what a reaction record makes of it, and the
takeoff of an exchange record with the verdict at the end of its event. -/

namespace Sys2Proof.Machine

open Sys2Proof

/-! ## A release reaches its lane (R104) -/

/-- A release that reaches its lane: counted, taken, then the judging at the end of its event. -/
theorem exec_release {e : End} {n : LaneNo} {since : DeckTime} {s : State}
    (h : Completes (.platform e n) .active .idle since s) :
    exec (.candidateCompletes (.platform e n)) s =
      .next (settle (handServices s s (Line.platform e n).input.toList
        (takeRelease n e since (countedAt (.platform e n) .idle since s)))) := by
  show Host.Outcome.next (event (completeLines [.platform e n]) s) = _
  rw [event_running h.running, completeLines_one s _ h.candidateDue, countLine_quiet h rfl rfl, deliverCounted_quiet h]
  rfl

/-- A release its lane ignores leaves its decoder's count alone. -/
theorem exec_release_ignored {e : End} {n : LaneNo} {since : DeckTime} {s : State}
    (h : Completes (.platform e n) .active .idle since s)
    (ht : takeRelease n e since (countedAt (.platform e n) .idle since s) = countedAt (.platform e n) .idle since s) :
    exec (.candidateCompletes (.platform e n)) s = .next (settle (countedAt (.platform e n) .idle since s)) := by
  rw [exec_release h, ht, handServices_unjudged (s := s) (t := countedAt _ _ _ s) (n := n) _ rfl (fun _ _ => rfl) rfl rfl]

/-! ## The record a platform is armed for (R104) -/

section
variable {n : LaneNo} {e : End} {h : Heat}

theorem reactionAt_armed {r : Reaction} (he : e = h.definition.startEnd) (hr : (h.lanes.get n).reaction = some r)
    (harmed : r.armed = true) : h.reactionAt n e = some r := by
  simp [Heat.reactionAt, he, hr, harmed]

theorem reactionAt_unarmed
    (hno : e ≠ h.definition.startEnd ∨ (∀ r, (h.lanes.get n).reaction = some r → r.armed = false)) :
    h.reactionAt n e = none := by
  unfold Heat.reactionAt
  split
  · next he =>
    have hunarmed := hno.resolve_left (not_not_intro he)
    exact Option.filter_eq_none_iff.mpr fun r hr => by simp [hunarmed r hr]
  · rfl

theorem exchangeAt_unarmed (hno : ∀ y ∈ (h.lanes.get n).exchanges, y.finish ≠ e ∨ y.armed = false) :
    h.exchangeAt n e = none := by
  refine List.find?_eq_none.mpr fun y hy => ?_
  rcases hno y hy with hend | harmed <;> simp [*]

/-- The first armed record of an end, its takeoff awaited, is the one its platform is armed for. -/
theorem exchangeAt_armed {before after : List Exchange} {x : Exchange}
    (hxs : (h.lanes.get n).exchanges = before ++ x :: after) (hend : x.finish = e) (harmed : x.armed = true)
    (hfirst : ∀ y ∈ before, y.finish ≠ e ∨ y.armed = false) : h.exchangeAt n e = some x := by
  have hbefore : before.find? (fun y => y.armed && y.finish == e) = none :=
    List.find?_eq_none.mpr fun y hy => by rcases hfirst y hy with hend | harmed <;> simp [*]
  simp [Heat.exchangeAt, hxs, List.find?_append, hbefore, harmed, hend]

variable {capture : DeckTime} {s : State}

theorem takeRelease_reaction {r : Reaction} (hs : s.heat = some h) (hu : (h.lanes.get n).unfinished = true)
    (hr : h.reactionAt n e = some r) : takeRelease n e capture s = offerToReaction n h r capture s := by
  simp only [takeRelease, hs, if_pos hu, hr]

theorem takeRelease_exchange {x : Exchange} (hs : s.heat = some h) (hu : (h.lanes.get n).unfinished = true)
    (hr : h.reactionAt n e = none) (hx : h.exchangeAt n e = some x) :
    takeRelease n e capture s = offerToExchange n h x capture s := by
  simp only [takeRelease, hs, if_pos hu, hr, hx]

theorem takeRelease_unarmed (hs : s.heat = some h) (hr : h.reactionAt n e = none) (hx : h.exchangeAt n e = none) :
    takeRelease n e capture s = s := by
  simp only [takeRelease, hs, hr, hx, ite_self]

end

/-- A capture lies at or after an arming time when their difference is below half the range (log 12). -/
theorem atOrAfter_iff (d ref : DeckTime) : atOrAfter d ref = true ↔ (d - ref).toNat < halfRange := by
  simp [atOrAfter, beforeStart]

/-! ## The reaction record (R106, R108) -/

section
variable {n : LaneNo} {h : Heat} {r : Reaction} {capture : DeckTime} (s : State)

theorem offerToReaction_ignored (hno : halfRange ≤ (capture - r.arming).toNat) : offerToReaction n h r capture s = s := by
  rw [offerToReaction, if_neg]
  rw [atOrAfter_iff]
  exact Nat.not_lt.mpr hno

theorem offerToReaction_early (hat : (capture - r.arming).toNat < halfRange)
    (hearly : h.startTime = none ∨ halfRange ≤ h.raceTime capture) :
    offerToReaction n h r capture s = earlyRelease n r capture s := by
  rw [offerToReaction, if_pos ((atOrAfter_iff ..).mpr hat)]
  split
  · rfl
  · next start hstart =>
    have hbefore : halfRange ≤ raceTimeFrom start capture := by
      simpa [Heat.raceTime, hstart] using hearly
    simp only [beforeStart, hbefore, decide_true, if_true]

theorem offerToReaction_timed (hat : (capture - r.arming).toNat < halfRange) (hstart : h.startTime ≠ none)
    (ht : h.raceTime capture < halfRange) :
    offerToReaction n h r capture s =
      writeReaction n
        { r with release := some (h.raceTime capture), reaction := some (h.raceTime capture), armed := false } none s := by
  obtain ⟨start, hstart⟩ := Option.ne_none_iff_exists'.mp hstart
  have htime : raceTimeFrom start capture = h.raceTime capture := by simp [Heat.raceTime, hstart]
  simp only [offerToReaction, (atOrAfter_iff ..).mpr hat, if_true, hstart, htime, beforeStart, Nat.not_le.mpr ht,
    decide_false, Bool.false_eq_true, if_false]

variable {s}

theorem writeReaction_heat (hs : s.heat = some h) (c : Option DeckTime) :
    (writeReaction n r c s).heat = some (h.modLane n fun l => { l with reaction := some r }) :=
  modLane_heat_of hs n _

/-- The race after an early release: the first sets PLATFORM_EARLY and brings FALSE_START, a further one finds it set. -/
theorem earlyRelease_heat (hs : s.heat = some h) (hr : (h.lanes.get n).reaction = some r) :
    ∃ g, (earlyRelease n r capture s).heat = some g ∧
      g.lanes.get n = { h.lanes.get n with reaction := some { r with early := true } } ∧
      (r.early = false → (g.desks.get n).hold.reasons.falseStart = true) ∧
      (r.early = true → g.desks.get n = h.desks.get n) ∧ othersAsBefore n h g := by
  cases hearly : r.early with
  | true =>
    have hsame : ({ r with early := true } : Reaction) = r := by rw [← hearly]
    exact ⟨h, by rw [earlyRelease, if_pos hearly, hs], by rw [hsame, ← hr], nofun, fun _ => rfl, fun _ _ => ⟨rfl, rfl⟩⟩
  | false =>
    refine ⟨(h.modLane n fun l => { l with reaction := some { r with early := true } }).modDesk n
      (Desk.addReason .falseStart), ?_, by simp, fun _ => by simp [Desk.addReason, ReasonSet.put], nofun,
      othersAsBefore_trans (modLane_othersAsBefore n h _) (modDesk_othersAsBefore n _ _)⟩
    simp only [earlyRelease, hearly, Bool.false_eq_true, if_false, addReason_heat, writeReaction_heat hs, Option.map_some]

/-- A release that changes its lane's reaction record leaves its event nothing to judge. -/
theorem exec_release_reaction {e : End} {since : DeckTime} {g : Heat} {u : State} {q : Option Reaction}
    (hc : Completes (.platform e n) .active .idle since s) (hs : s.heat = some h)
    (ht : takeRelease n e since (countedAt (.platform e n) .idle since s) = u) (hu : u.heat = some g)
    (hf : u.faults = s.faults) (hlane : g.lanes.get n = { h.lanes.get n with reaction := q })
    (ho : othersAsBefore n h g) : exec (.candidateCompletes (.platform e n)) s = .next (settle u) := by
  rw [exec_release hc, ht, handServices_lane _ hs hu hf ho (by rw [hlane]), judgeFrom_splitCount]
  simp [State.splitCount, hs, hu, hlane]

end

/-! ## One exchange record of a lane (R109) -/

/-- A lane's exchange records around one of them, whose leg no other has (R109). -/
structure RecordAmong (n : LaneNo) (before after : List Exchange) (x : Exchange) (h : Heat) : Prop where
  exchanges : (h.lanes.get n).exchanges = before ++ x :: after
  alone : ∀ y ∈ before ++ after, y.leg ≠ x.leg

/-- A race in which one lane has these exchange records. -/
def Heat.withExchanges (h : Heat) (n : LaneNo) (xs : List Exchange) : Heat := h.modLane n fun l => { l with exchanges := xs }

@[simp] theorem withExchanges_get_self (h : Heat) (n : LaneNo) (xs : List Exchange) :
    (h.withExchanges n xs).lanes.get n = { h.lanes.get n with exchanges := xs } := modLane_get_self ..

@[simp] theorem withExchanges_desks (h : Heat) (n : LaneNo) (xs : List Exchange) : (h.withExchanges n xs).desks = h.desks := rfl

@[simp] theorem withExchanges_definition (h : Heat) (n : LaneNo) (xs : List Exchange) :
    (h.withExchanges n xs).definition = h.definition := rfl

theorem withExchanges_withExchanges (h : Heat) (n : LaneNo) (xs ys : List Exchange) :
    (h.withExchanges n xs).withExchanges n ys = h.withExchanges n ys := modLane_modLane ..

theorem withExchanges_othersAsBefore (n : LaneNo) (h : Heat) (xs : List Exchange) :
    othersAsBefore n h (h.withExchanges n xs) := modLane_othersAsBefore n h _

theorem withExchanges_same {h : Heat} {n : LaneNo} {xs : List Exchange} (hxs : (h.lanes.get n).exchanges = xs) :
    h.withExchanges n xs = h := by
  rw [Heat.withExchanges, Heat.modLane, updAt_same _ _ _ (by rw [← hxs])]

namespace RecordAmong

variable {n : LaneNo} {before after : List Exchange} {x : Exchange} {h : Heat}

theorem written (hx : RecordAmong n before after x h) {y : Exchange} (hleg : y.leg = x.leg) :
    RecordAmong n before after y (h.withExchanges n (before ++ y :: after)) :=
  ⟨by simp, hleg ▸ hx.alone⟩

/-- Writing a record by its leg writes that one alone. -/
theorem modExchange_heat (hx : RecordAmong n before after x h) {s : State} (hs : s.heat = some h) (y : Exchange) :
    (s.modExchange n x.leg fun _ => y).heat = some (h.withExchanges n (before ++ y :: after)) := by
  have hkeep : ∀ ys : List Exchange, (∀ z ∈ ys, z.leg ≠ x.leg) →
      ys.map (fun z => if z.leg = x.leg then y else z) = ys := fun ys hys =>
    (List.map_congr_left fun z hz => if_neg (hys z hz)).trans (List.map_id ys)
  obtain ⟨hb, ha⟩ := List.forall_mem_append.mp hx.alone
  rw [State.modExchange, modLane_heat_of hs]
  refine congrArg some (modLane_congr ?_)
  simp only [hx.exchanges, List.map_append, List.map_cons, hkeep before hb, hkeep after ha, if_true]

end RecordAmong

/-! ## The takeoff (R111, R112) -/

section
variable {n : LaneNo} {before after : List Exchange} {x : Exchange} {h : Heat} {s : State}

theorem offerToExchange_ignored {a : Nat} {capture : DeckTime} (ha : x.arming = some a)
    (hno : halfRange ≤ (capture - (h.startTime.getD 0 + BitVec.ofNat 32 a)).toNat) :
    offerToExchange n h x capture s = s := by
  simp only [offerToExchange, ha]
  rw [if_neg]
  rw [atOrAfter_iff]
  exact Nat.not_lt.mpr hno

theorem offerToExchange_takeoff {a : Nat} {capture : DeckTime} (ha : x.arming = some a)
    (hat : (capture - (h.startTime.getD 0 + BitVec.ofNat 32 a)).toNat < halfRange) :
    offerToExchange n h x capture s =
      s.modExchange n x.leg fun _ => { x with release := some (h.raceTime capture) } := by
  simp only [offerToExchange, ha, if_pos ((atOrAfter_iff ..).mpr hat)]

/-- The one record that has its takeoff now and had none before is the lane's new takeoff. -/
theorem newTakeoffs_one {u : State} {y : Exchange} (hs : s.heat = some h) (hx : RecordAmong n before after x h)
    (hu : u.heat = some (h.withExchanges n (before ++ y :: after))) (hleg : y.leg = x.leg) (hnone : x.release = none)
    (hsome : y.release.isSome = true) (hpend : y.verdict = .pending) : newTakeoffs s u n = [y] := by
  have hold : s.exchangesOf n = before ++ x :: after := by simp [State.exchangesOf, hs, hx.exchanges]
  have hnow : u.exchangesOf n = before ++ y :: after := by simp [State.exchangesOf, hu]
  have hne : y ≠ x := fun heq => by simp [heq, hnone] at hsome
  have hnew : y ∉ before ++ x :: after := fun hy => by
    rcases List.mem_append.mp hy with hb | ha
    · exact hx.alone y (List.mem_append_left _ hb) hleg
    · exact hx.alone y (List.mem_append_right _ ((List.mem_cons.mp ha).resolve_left hne)) hleg
  have hstood : ∀ zs : List Exchange, (∀ z ∈ zs, z ∈ before ++ x :: after) →
      zs.filter (fun z => z.release.isSome && z.verdict == .pending && !(before ++ x :: after).contains z) = [] :=
    fun zs hzs => List.filter_eq_nil_iff.mpr fun z hz => by
      rw [List.contains_iff_mem.mpr (hzs z hz)]
      simp
  rw [newTakeoffs, hold, hnow, List.filter_append, hstood before fun z hz => List.mem_append_left _ hz,
    List.filter_cons_of_pos, hstood after fun z hz => List.mem_append_right _ (List.mem_cons_of_mem _ hz), List.nil_append]
  rw [Bool.eq_false_iff.mpr fun hc => hnew (List.contains_iff_mem.mp hc), hsome, hpend]
  rfl

/-- At the end of the event of a takeoff its margin is judged, and nothing else (R111, R115). -/
theorem handServices_takeoff {u : State} {y : Exchange} (is : List (Fin 71)) (hs : s.heat = some h)
    (hx : RecordAmong n before after x h) (hu : u.heat = some (h.withExchanges n (before ++ y :: after)))
    (hf : u.faults = s.faults) (hleg : y.leg = x.leg) (hnone : x.release = none) (hsome : y.release.isSome = true)
    (hpend : y.verdict = .pending) :
    handServices s s is u = judgeMargin n h.definition.exchangeAllowance y u := by
  have hothers : ∀ m, m ≠ n → laneView u m = laneView s m := fun m hm => by
    simp only [laneView, hs, hu, Option.map_some, (withExchanges_othersAsBefore n h _ m hm).1]
  have hjudge : judgeTakeoffs s n u = judgeMargin n h.definition.exchangeAllowance y u := by
    rw [judgeTakeoffs, newTakeoffs_one hs hx hu hleg hnone hsome hpend, List.foldl_cons, List.foldl_nil]
    simp only [judgeTakeoff, hu, withExchanges_definition]
  obtain ⟨g, hg, hex⟩ := judgeMargin_exchanged u n h.definition.exchangeAllowance y _ hu
  obtain ⟨xs, hlane⟩ := hex.lane
  rw [handServices_judges s s u is n (leftService_nil is hf) hothers, hjudge, judgeFrom_splitCount]
  simp [State.splitCount, hs, hg, hlane]

/-- Without a touch time the record waits as it is (R111). -/
theorem judgeMargin_waits (hx : RecordAmong n before after x h) (hs : s.heat = some h) (allowance : Nat)
    (htouch : x.touch = none) : (judgeMargin n allowance x s).heat = some h := by
  simp only [judgeMargin, htouch, hx.modExchange_heat hs x, withExchanges_same hx.exchanges]

theorem judgeMargin_known (n : LaneNo) (allowance : Nat) (s : State) {x : Exchange} {p t : Nat} (htouch : x.touch = some p)
    (hrelease : x.release = some t) :
    judgeMargin n allowance x s =
      giveVerdict n { x with margin := some ((t : Int) - (p : Int)) } (marginVerdict allowance ((t : Int) - (p : Int))) s := by
  simp only [judgeMargin, htouch, hrelease]

/-- With both times known the record has its margin, and the verdict with its reason (R112). -/
theorem judgeMargin_heat (hx : RecordAmong n before after x h) (hs : s.heat = some h) (allowance : Nat) {p t : Nat}
    {margin : Int} (htouch : x.touch = some p) (hrelease : x.release = some t) (hm : margin = (t : Int) - (p : Int)) :
    ∃ g, (judgeMargin n allowance x s).heat = some g ∧
      g.lanes.get n =
        { h.lanes.get n with
          exchanges :=
            before ++ { x with margin := some margin, verdict := marginVerdict allowance margin } :: after } ∧
      (margin < -(allowance : Int) → (g.desks.get n).hold.reasons.exchangeEarly = true) ∧
      (-(allowance : Int) ≤ margin → g.desks.get n = h.desks.get n) ∧ othersAsBefore n h g := by
  subst hm
  have hwritten := hx.modExchange_heat hs
    { x with margin := some ((t : Int) - p), verdict := marginVerdict allowance ((t : Int) - p) }
  rw [judgeMargin_known n allowance s htouch hrelease, giveVerdict]
  by_cases hearly : (t : Int) - p < -(allowance : Int)
  · have hverdict : marginVerdict allowance ((t : Int) - p) = .early := if_pos hearly
    rw [hverdict] at hwritten ⊢
    refine ⟨(h.withExchanges n _).modDesk n (Desk.addReason .exchangeEarly), ?_, withExchanges_get_self .., fun _ => ?_,
      fun hle => absurd hearly (Int.not_lt.mpr hle),
      othersAsBefore_trans (withExchanges_othersAsBefore n h _) (modDesk_othersAsBefore n _ _)⟩
    · simp only [completeExchange, Verdict.reason, addReason_heat, raise_heat, hwritten, Option.map_some]
    · simp [Desk.addReason, ReasonSet.put]
  · have hverdict : marginVerdict allowance ((t : Int) - p) = .ok := if_neg hearly
    rw [hverdict] at hwritten ⊢
    exact ⟨_, hwritten, withExchanges_get_self .., fun hlt => absurd hlt hearly, fun _ => rfl,
      withExchanges_othersAsBefore n h _⟩

end

/-! ## The statement, by the record the platform is armed for -/

section
variable {e : End} {n : LaneNo} {since : DeckTime} {s : State} {h : Heat}

/-- A release of an armed exchange record at or after its arming: the record with its takeoff, then its margin judged (R104,
R111). -/
theorem exec_takeoff {before after : List Exchange} {x : Exchange} {a : Nat}
    (hc : Completes (.platform e n) .active .idle since s) (hs : s.heat = some h)
    (hu : (h.lanes.get n).unfinished = true) (hr : h.reactionAt n e = none) (hx : h.exchangeAt n e = some x)
    (hamong : RecordAmong n before after x h) (ha : x.arming = some a) (hnone : x.release = none)
    (hpend : x.verdict = .pending)
    (hat : (since - (h.startTime.getD 0 + BitVec.ofNat 32 a)).toNat < halfRange) :
    ∃ u, u.heat = some (h.withExchanges n (before ++ { x with release := some (h.raceTime since) } :: after)) ∧
      exec (.candidateCompletes (.platform e n)) s =
        .next (settle (judgeMargin n h.definition.exchangeAllowance { x with release := some (h.raceTime since) } u)) := by
  have hwritten := hamong.modExchange_heat (s := countedAt (.platform e n) .idle since s) hs
    { x with release := some (h.raceTime since) }
  refine ⟨_, hwritten, ?_⟩
  rw [exec_release hc, takeRelease_exchange (s := countedAt _ _ _ s) hs hu hr hx, offerToExchange_takeoff ha hat,
    handServices_takeoff (y := { x with release := some (h.raceTime since) }) _ hs hamong hwritten rfl rfl hnone rfl hpend]

/-- An early release of an armed reaction record (R106). -/
theorem exec_release_early {r : Reaction} (hc : Completes (.platform e n) .active .idle since s) (hs : s.heat = some h)
    (hu : (h.lanes.get n).unfinished = true) (hr : (h.lanes.get n).reaction = some r) (hat : h.reactionAt n e = some r)
    (harming : (since - r.arming).toNat < halfRange) (hearly : h.startTime = none ∨ halfRange ≤ h.raceTime since) :
    ∃ u g, exec (.candidateCompletes (.platform e n)) s = .next (settle u) ∧ u.heat = some g ∧
      g.lanes.get n = { h.lanes.get n with reaction := some { r with early := true } } ∧
      (r.early = false → (g.desks.get n).hold.reasons.falseStart = true) ∧
      (r.early = true → g.desks.get n = h.desks.get n) ∧ othersAsBefore n h g := by
  obtain ⟨g, hg, hlane, hfirst, hagain, ho⟩ :=
    earlyRelease_heat (s := countedAt (.platform e n) .idle since s) (capture := since) hs hr
  refine ⟨_, g, exec_release_reaction hc hs ?_ hg (RaceOnly.earlyRelease n r since _).faults hlane ho, hg, hlane, hfirst,
    hagain, ho⟩
  rw [takeRelease_reaction (s := countedAt _ _ _ s) hs hu hat, offerToReaction_early _ harming hearly]

/-- The release of an armed reaction record after the start (R108). -/
theorem exec_release_timed {r : Reaction} (hc : Completes (.platform e n) .active .idle since s) (hs : s.heat = some h)
    (hu : (h.lanes.get n).unfinished = true) (hat : h.reactionAt n e = some r)
    (harming : (since - r.arming).toNat < halfRange) (hstart : h.startTime ≠ none) (ht : h.raceTime since < halfRange) :
    ∃ u g, exec (.candidateCompletes (.platform e n)) s = .next (settle u) ∧ u.heat = some g ∧
      g.lanes.get n =
        { h.lanes.get n with
          reaction :=
            some { r with release := some (h.raceTime since), reaction := some (h.raceTime since), armed := false } } ∧
      g.desks.get n = h.desks.get n ∧ othersAsBefore n h g := by
  have hg := writeReaction_heat (s := countedAt (.platform e n) .idle since s) (n := n) hs
    (r := { r with release := some (h.raceTime since), reaction := some (h.raceTime since), armed := false }) none
  refine ⟨_, _, exec_release_reaction hc hs ?_ hg rfl (modLane_get_self ..) (modLane_othersAsBefore n h _), hg,
    modLane_get_self .., rfl, modLane_othersAsBefore n h _⟩
  rw [takeRelease_reaction (s := countedAt _ _ _ s) hs hu hat, offerToReaction_timed _ harming hstart ht]

end

/-- Settles O43: by the record the platform is armed for, then by the time of the capture. -/
theorem platformReleases : Obligations.PlatformReleases := by
  intro e n since s h hc hs hst
  have hu := (unfinished_iff _).mpr hst
  refine ⟨fun r he hr harmed => ?_, fun before x after a hno hxs hend ha hnone hpend hfirst halone => ?_, fun hno hnone => ?_⟩
  · have hat := reactionAt_armed he hr harmed
    refine ⟨fun hbefore => exec_release_ignored hc ?_, fun harming =>
      ⟨exec_release_early hc hs hu hr hat harming, exec_release_timed hc hs hu hat harming⟩⟩
    rw [takeRelease_reaction (s := countedAt _ _ _ s) hs hu hat, offerToReaction_ignored _ hbefore]
  · have harmed : x.armed = true := by simp [Exchange.armed, ha, hnone, hpend]
    have hr := reactionAt_unarmed hno
    have hx := exchangeAt_armed hxs hend harmed hfirst
    have hamong : RecordAmong n before after x h := ⟨hxs, halone⟩
    have htaken := hamong.written (y := { x with release := some (h.raceTime since) }) rfl
    refine ⟨fun hbefore => exec_release_ignored hc ?_, fun hat => ?_⟩
    · rw [takeRelease_exchange (s := countedAt _ _ _ s) hs hu hr hx, offerToExchange_ignored ha hbefore]
    · obtain ⟨u, hheat, hexec⟩ := exec_takeoff hc hs hu hr hx hamong ha hnone hpend hat
      refine ⟨fun htouch => ⟨_, _, hexec, judgeMargin_waits htaken hheat _ htouch, withExchanges_get_self .., rfl,
        withExchanges_othersAsBefore n h _⟩, fun p margin htouch hmargin => ?_⟩
      obtain ⟨g, hg, hlane, hearly, hok, ho⟩ := judgeMargin_heat htaken hheat h.definition.exchangeAllowance htouch rfl hmargin
      refine ⟨_, g, hexec, hg, ?_, hearly, hok, othersAsBefore_trans (withExchanges_othersAsBefore n h _) ho⟩
      rw [hlane, withExchanges_get_self, marginVerdict]
  · refine exec_release_ignored hc ?_
    rw [takeRelease_unarmed (s := countedAt _ _ _ s) hs (reactionAt_unarmed hno) (exchangeAt_unarmed hnone)]

end Sys2Proof.Machine
end

section
/-! Hold sets and release (R119, R122, R124 to R129): what a change of one lane's hold set makes of the race once the release check
has run, and the requests HOLD LANE, UNHOLD LANE, CLEAR SYSTEM HOLD and RELEASE LANE. -/

namespace Sys2Proof.Machine

open Sys2Proof

/-! ## Reasons and holders (R119) -/

theorem ReasonSet.has_common (r t : ReasonSet) (x : Reason) : (r.common t).has x = (r.has x && t.has x) := by
  cases x <;> rfl

theorem ReasonSet.has_without (r t : ReasonSet) (x : Reason) : (r.without t).has x = (r.has x && !t.has x) := by
  cases x <;> rfl

theorem ReasonSet.isEmpty_iff (r : ReasonSet) : r.isEmpty = true ↔ ∀ x, r.has x = false := by
  constructor
  · intro h x
    simp only [ReasonSet.isEmpty, Bool.not_eq_true', Bool.or_eq_false_iff] at h
    obtain ⟨⟨⟨⟨⟨hfalse, hearly⟩, hunjudged⟩, hdiscrepant⟩, hmissed⟩, hskipped⟩ := h
    cases x <;> assumption
  · intro h
    simp only [ReasonSet.isEmpty, Bool.not_eq_true', Bool.or_eq_false_iff]
    exact ⟨⟨⟨⟨⟨h .falseStart, h .exchangeEarly⟩, h .exchangeUnjudged⟩, h .discrepant⟩, h .padMissed⟩, h .skippedLength⟩

theorem reasonSetOfByte_has (b : Byte) (x : Reason) : (reasonSetOfByte b).has x = b.getLsbD x.code := by
  cases x <;> rfl

@[simp] theorem HoldSet.holds_put_self (k : HoldSet) (l : Link) (v : Bool) : (k.put l v).holds l = v := by
  cases l <;> rfl

theorem HoldSet.put_ne {k : HoldSet} {l : Link} {v : Bool} (h : k.holds l ≠ v) : k.put l v ≠ k := fun e =>
  h (by rw [← e, HoldSet.holds_put_self])

/-! ## A hold set changed (R122) -/

/-- A change of a lane's hold set is written with its HOLD_CHANGE notice. -/
theorem changeDesk_hold (n : LaneNo) (cause : HoldCause) (link : Option Link) {f : Desk → Desk} {hold : HoldSet} {s : State}
    {h : Heat} (hs : s.heat = some h) (hf : f (h.desks.get n) = { h.desks.get n with hold := hold })
    (hne : hold ≠ (h.desks.get n).hold) :
    changeDesk n cause link f s =
      raise (.holdChange n cause link hold (h.desks.get n).dq) (s.modDesk n fun k => { k with hold := hold }) := by
  have hwritten : s.modDesk n f = s.modDesk n fun k => { k with hold := hold } := by
    simp only [State.modDesk, State.modHeat, hs, Option.map_some, Heat.modDesk,
      updAt_congr h.desks n f (fun k => { k with hold := hold }) hf]
  rw [changeDesk_some n cause link f s h hs _ hf, if_neg fun e => hne (congrArg Desk.hold e), hwritten]

/-! ## A desk changed, then the release check (R125 to R127) -/

/-- The state of a lane the release check leaves, in the words of R127. -/
theorem checked_lane_state (h : Heat) (n : LaneNo) (p : Params) (now : DeckTime) :
    (h.checked n p now).lanes.get n =
      { h.lanes.get n with
        state :=
          if (h.lanes.get n).state = .finished ∧ (h.lanes.get n).result ≠ none then finishedState n (h.checked n p now)
          else (h.lanes.get n).state } := by
  rw [checked_lane, finishedState, checked_definition, checked_desks]

/-- What a change of one desk and the release check of its lane leave: that desk written, the lane's state alone settled by R127,
the other lanes and desks as they were. -/
structure DeskChecked (n : LaneNo) (k : Desk) (h g : Heat) : Prop where
  lane : g.lanes.get n =
    { h.lanes.get n with
      state := if (h.lanes.get n).state = .finished ∧ (h.lanes.get n).result ≠ none then finishedState n g
        else (h.lanes.get n).state }
  desk : g.desks.get n = k
  definition : g.definition = h.definition
  others : othersAsBefore n h g

theorem checked_othersAsBefore (h : Heat) (n : LaneNo) (p : Params) (now : DeckTime) :
    othersAsBefore n h (h.checked n p now) := fun m hm =>
  ⟨checked_other h n p now m hm, by rw [checked_desks]⟩

theorem modDesk_checked (h : Heat) (n : LaneNo) (f : Desk → Desk) (p : Params) (now : DeckTime) :
    DeskChecked n (f (h.desks.get n)) h ((h.modDesk n f).checked n p now) where
  lane := checked_lane_state (h.modDesk n f) n p now
  desk := by rw [checked_desks, modDesk_get_self]
  definition := checked_definition ..
  others := othersAsBefore_trans (modDesk_othersAsBefore n h f) (checked_othersAsBefore _ n p now)

theorem changeDesk_releaseCheck (n : LaneNo) (cause : HoldCause) (link : Option Link) (f : Desk → Desk) {s : State} {h : Heat}
    (hs : s.heat = some h) :
    ∃ g, (releaseCheck n (changeDesk n cause link f s)).heat = some g ∧ DeskChecked n (f (h.desks.get n)) h g :=
  ⟨_, by rw [releaseCheck_heat, changeDesk_heat, hs, Option.map_some, Option.map_some], modDesk_checked h n f _ _⟩

/-- A lane that is not FINISHED, or still held, is left alone by the release check. -/
theorem releaseCheck_stays {n : LaneNo} {s : State} {h : Heat} (hs : s.heat = some h)
    (hstay : (h.lanes.get n).state ≠ .finished ∨ (h.desks.get n).hold.isEmpty = false) : releaseCheck n s = s := by
  have hno : ¬ (h.definition.releaseMode = .auto ∧ (h.lanes.get n).state = .finished ∧
      (h.desks.get n).hold.isEmpty = true) := by
    rintro ⟨-, hfinished, hempty⟩
    exact hstay.elim (· hfinished) fun hheld => Bool.false_ne_true (hheld.symm.trans hempty)
  simp only [releaseCheck, hs, if_neg hno]

/-! ## The answers -/

theorem holdAnswer_of_heat (n : LaneNo) {s : State} {h : Heat} (hs : s.heat = some h) :
    holdAnswer n s = (h.desks.get n).hold.bytes := by
  simp only [holdAnswer, hs]

theorem stateAnswer_of_heat (n : LaneNo) {s : State} {h : Heat} (hs : s.heat = some h) :
    stateAnswer n s = [byteOf (h.lanes.get n).state.code] := by
  simp only [stateAnswer, hs]

theorem reasonAnswer_of_heat (n : LaneNo) {s : State} {h : Heat} (hs : s.heat = some h) :
    reasonAnswer n s = [(h.desks.get n).hold.reasons.byte] := by
  simp only [reasonAnswer, hs]

/-! ## HOLD LANE and UNHOLD LANE (R124, R125) -/

theorem holdRow_taken {st : LaneState} (hvacant : st ≠ .vacant) (hreleased : st ≠ .released) : holdRow st = .taken := by
  cases st
  case vacant => exact absurd rfl hvacant
  case released => exact absurd rfl hreleased
  all_goals rfl

section
variable {b : Byte} {s : State} {n : LaneNo} {h : Heat} (l : Link) (hb : b.toNat = n.val) (hs : s.heat = some h)
  (hrow : holdRow (h.lanes.get n).state = .taken)
include hb hs hrow

theorem performHoldLane_taken :
    performHoldLane l b s =
      if (h.desks.get n).hold.holds l then refuse .already s
      else
        done (holdAnswer n (changeDesk n .hold (some l) (Desk.setHolder l true) s))
          (changeDesk n .hold (some l) (Desk.setHolder l true) s) :=
  laneRequest_taken (laneOfByte_of_toNat hb) hs hrow

theorem performUnholdLane_taken :
    performUnholdLane l b s =
      if (h.desks.get n).hold.holds l then
        done (holdAnswer n (releaseCheck n (changeDesk n .unhold (some l) (Desk.setHolder l false) s)) ++
            stateAnswer n (releaseCheck n (changeDesk n .unhold (some l) (Desk.setHolder l false) s)))
          (releaseCheck n (changeDesk n .unhold (some l) (Desk.setHolder l false) s))
      else refuse .notHeld s :=
  laneRequest_taken (laneOfByte_of_toNat hb) hs hrow

end

/-- Settles O44: the holders decide; a HOLD writes the set, an UNHOLD writes it and runs the release check. -/
theorem linkHolds : Obligations.LinkHolds := by
  intro l tag b n s h htakes hb hs hvacant hreleased
  have hcounted : (counted l s).heat = some h := hs
  have hrow := holdRow_taken hvacant hreleased
  have hhold : ∀ {t r data}, performHoldLane l b (counted l s) = ⟨t, r, data⟩ →
      exec (.holdLane l tag b) s = .next (answered l tag 0x11 r data t) :=
    exec_laneRequest_of_reply (c := .holdLane l tag b) rfl rfl htakes
  have hunhold : ∀ {t r data}, performUnholdLane l b (counted l s) = ⟨t, r, data⟩ →
      exec (.unholdLane l tag b) s = .next (answered l tag 0x12 r data t) :=
    exec_laneRequest_of_reply (c := .unholdLane l tag b) rfl rfl htakes
  have hperform := performHoldLane_taken l hb hcounted hrow
  have hrelease := performUnholdLane_taken l hb hcounted hrow
  refine ⟨fun hheld => hhold ?_, fun hfree => hunhold ?_, fun hold hfree hjoined => hhold ?_, fun hold hheld hleft => ?_⟩
  · rw [hperform, if_pos hheld]
    rfl
  · rw [hrelease, if_neg (by simp [hfree])]
    rfl
  · have hnew : hold ≠ (h.desks.get n).hold := hjoined ▸ HoldSet.put_ne (by simp [hfree])
    rw [hperform, if_neg (by simp [hfree]), changeDesk_hold n .hold (some l) hcounted (by rw [hjoined]; rfl) hnew,
      holdAnswer_of_heat n (h := h.modDesk n fun k => { k with hold := hold }) (by simp [hs]), modDesk_get_self]
    rfl
  · have hnew : hold ≠ (h.desks.get n).hold := hleft ▸ HoldSet.put_ne (by simp [hheld])
    have hset : (h.desks.get n).setHolder l false = { h.desks.get n with hold := hold } := by
      rw [hleft]
      rfl
    obtain ⟨g, hg, hchecked⟩ := changeDesk_releaseCheck n .unhold (some l) (Desk.setHolder l false) hcounted
    have hdesk := hchecked.desk.trans hset
    refine ⟨_, g, hg, hunhold ?_, hchecked.lane, hdesk, hchecked.definition, hchecked.others, fun hstay => ?_⟩
    · rw [hrelease, if_pos hheld, holdAnswer_of_heat n hg, stateAnswer_of_heat n hg, hdesk]
      rfl
    · rw [changeDesk_hold n .unhold (some l) hcounted hset hnew]
      exact releaseCheck_stays (h := h.modDesk n fun k => { k with hold := hold }) (by simp [hs])
        (by simpa using hstay)

/-! ## CLEAR SYSTEM HOLD (R126) -/

/-- A set of the six reasons that is not empty decodes to itself (R190). -/
theorem decodeReasons_these {rs : Byte} (hlo : 1 ≤ rs.toNat) (hhi : rs.toNat ≤ 63) :
    decodeReasons rs = some (.these (reasonSetOfByte rs)) := by
  have hall : rs ≠ 0xFF := by
    rintro rfl
    exact absurd hhi (by decide)
  have hzero : (rs == 0) = false := by
    rw [beq_eq_false_iff_ne]
    rintro rfl
    exact absurd hlo (by decide)
  have hbit : ∀ i, 6 ≤ i → rs.getLsbD i = false := fun i hi => by
    have hpow := Nat.pow_le_pow_right (n := 2) (by decide) hi
    exact Nat.testBit_lt_two_pow (by omega)
  rw [decodeReasons, if_neg hall, hbit 6 (by decide), hbit 7 (by decide), if_neg]
  simpa using hzero

/-- A reasons byte that is ALL, or a set of the six reasons that is not empty, names its reasons among those that stand. -/
theorem decodeReasons_named {rs : Byte} (hrs : rs = 0xFF ∨ (1 ≤ rs.toNat ∧ rs.toNat ≤ 63)) :
    ∃ c, decodeReasons rs = some c ∧ ∀ (standing : ReasonSet) (x : Reason),
      (c.named standing).has x = true ↔ standing.has x = true ∧ (rs = 0xFF ∨ rs.getLsbD x.code = true) := by
  by_cases hall : rs = 0xFF
  · exact ⟨.all, if_pos hall, fun standing x => by simp only [ReasonChoice.named, hall, true_or, and_true]⟩
  · obtain ⟨hlo, hhi⟩ := hrs.resolve_left hall
    refine ⟨.these (reasonSetOfByte rs), decodeReasons_these hlo hhi, fun standing x => ?_⟩
    simp only [ReasonChoice.named, ReasonSet.has_common, reasonSetOfByte_has, Bool.and_eq_true, hall, false_or]

theorem dropReasons_has (r : ReasonSet) (k : Desk) (x : Reason) :
    (k.dropReasons r).hold.reasons.has x = true ↔ k.hold.reasons.has x = true ∧ ¬ r.has x = true := by
  simp [Desk.dropReasons, ReasonSet.has_without]

theorem dropReasons_holds (r : ReasonSet) (k : Desk) (l : Link) : (k.dropReasons r).hold.holds l = k.hold.holds l := by
  cases l <;> rfl

theorem performClearSystemHold_taken (l : Link) {b rs : Byte} {c : ReasonChoice} {s : State} {n : LaneNo} {h : Heat}
    (hc : decodeReasons rs = some c) (hb : b.toNat = n.val) (hs : s.heat = some h)
    (hrow : holdRow (h.lanes.get n).state = .taken) :
    performClearSystemHold l b rs s =
      if (c.named (h.desks.get n).hold.reasons).isEmpty then refuse .notHeld s
      else
        done
          (reasonAnswer n (releaseCheck n
              (changeDesk n .clear (some l) (Desk.dropReasons (c.named (h.desks.get n).hold.reasons)) s)) ++
            stateAnswer n (releaseCheck n
              (changeDesk n .clear (some l) (Desk.dropReasons (c.named (h.desks.get n).hold.reasons)) s)))
          (releaseCheck n (changeDesk n .clear (some l) (Desk.dropReasons (c.named (h.desks.get n).hold.reasons)) s)) := by
  simp only [performClearSystemHold, hc]
  exact laneRequest_taken (laneOfByte_of_toNat hb) hs hrow

/-! ## RELEASE LANE (R128, R129) -/

theorem performReleaseLane_finished (l : Link) {b : Byte} {s : State} {n : LaneNo} {h : Heat} (hb : b.toNat = n.val)
    (hs : s.heat = some h) (hst : (h.lanes.get n).state = .finished) :
    performReleaseLane l b s =
      if h.definition.releaseMode = .manual ∧ (h.desks.get n).hold.isEmpty = true then
        done [] (releaseLane n (some l) s)
      else ⟨s, .held, (h.desks.get n).hold.bytes⟩ :=
  laneRequest_taken (laneOfByte_of_toNat hb) hs (by rw [hst]; rfl)

/-- A release queues the lane's board update (R129, R166). -/
theorem mem_releaseLane_laneQueue (cause : Option Link) {n : LaneNo} {s : State} {h : Heat} (hs : s.heat = some h)
    (hres : (h.lanes.get n).result ≠ none) : n ∈ (releaseLane n cause s).board.laneQueue := by
  obtain ⟨core, hcore⟩ := Option.ne_none_iff_exists'.mp hres
  simp only [releaseLane, hs, hcore, testFinal_laneQueue]
  exact mem_queueLane n _

theorem releasedLane_eq {h : Heat} {n : LaneNo} (p : Params) (now : DeckTime) (hres : (h.lanes.get n).result ≠ none) :
    h.releasedLane n p now = (h.modLane n fun x => { x with state := .released }).finalised p now := if_neg hres

/-- R36: a race in REVIEW with no lane left to release becomes FINAL. -/
theorem finalised_phase_final {h : Heat} (p : Params) (now : DeckTime) (hphase : h.phase = .review)
    (hnone : ∀ m, (h.lanes.get m).unreleased = false) : (h.finalised p now).phase = .final := by
  rw [Heat.finalised, if_pos ⟨hphase, (lanesWhere_nil h _).mpr hnone⟩]

theorem unreleased_eq_false {x : Lane} (h : x.state = .vacant ∨ x.state = .released) : x.unreleased = false := by
  rcases h with h | h <;> simp [Lane.unreleased, h]

section
variable {h : Heat} {n : LaneNo} (p : Params) (now : DeckTime)

/-- The last lane released ends a race in REVIEW. -/
theorem releasedLane_final (hres : (h.lanes.get n).result ≠ none) (hphase : h.phase = .review)
    (hothers : ∀ m, m ≠ n → (h.lanes.get m).state = .vacant ∨ (h.lanes.get m).state = .released) :
    (h.releasedLane n p now).phase = .final := by
  rw [releasedLane_eq p now hres]
  refine finalised_phase_final p now hphase fun m => unreleased_eq_false ?_
  by_cases hm : m = n
  · rw [hm, modLane_get_self]
    exact .inr rfl
  · rw [modLane_get, if_neg hm]
    exact hothers m hm

/-- A race in RUNNING, or with another lane unreleased, keeps its state. -/
theorem releasedLane_phase (hres : (h.lanes.get n).result ≠ none)
    (hstay : h.phase = .running ∨
      ∃ m, m ≠ n ∧ (h.lanes.get m).state ≠ .vacant ∧ (h.lanes.get m).state ≠ .released) :
    (h.releasedLane n p now).phase = h.phase := by
  rw [releasedLane_eq p now hres, finalised_stays, modLane_phase]
  rcases hstay with hrunning | ⟨m, hm, hstate⟩
  · exact .inl (by simp [hrunning])
  · exact .inr ⟨m, by rw [modLane_get, if_neg hm]; exact (unreleased_iff _).mpr hstate⟩

end

/-- Settles O45: CLEAR SYSTEM HOLD drops the reasons named and runs the release check; RELEASE LANE releases in MANUAL with an empty
hold set. -/
theorem clearAndRelease : Obligations.ClearAndRelease := by
  intro l tag b n s h htakes hb hs
  have hcounted : (counted l s).heat = some h := hs
  refine ⟨fun rs hrs hvacant hreleased => ?_, fun hst => ?_⟩
  · obtain ⟨c, hc, hnamed⟩ := decodeReasons_named hrs
    have hreply : ∀ {t r data}, performClearSystemHold l b rs (counted l s) = ⟨t, r, data⟩ →
        exec (.clearSystemHold l tag b rs) s = .next (answered l tag 0x13 r data t) :=
      exec_laneRequest_of_reply (c := .clearSystemHold l tag b rs) rfl rfl htakes
    have hperform := performClearSystemHold_taken l hc hb hcounted (holdRow_taken hvacant hreleased)
    refine ⟨fun hnone => hreply ?_, fun ⟨x, hstands, hbyte⟩ => ?_⟩
    · have hempty : (c.named (h.desks.get n).hold.reasons).isEmpty = true := by
        rw [ReasonSet.isEmpty_iff]
        intro x
        rw [← Bool.not_eq_true, hnamed]
        rintro ⟨hstands, hall | hset⟩
        · exact (hnone x hstands).1 hall
        · exact Bool.false_ne_true ((hnone x hstands).2.symm.trans hset)
      rw [hperform, if_pos hempty]
      rfl
    · have hsome : ¬ (c.named (h.desks.get n).hold.reasons).isEmpty = true := fun hempty =>
        Bool.false_ne_true (((ReasonSet.isEmpty_iff _).mp hempty x).symm.trans ((hnamed _ x).mpr ⟨hstands, hbyte⟩))
      obtain ⟨g, hg, hchecked⟩ := changeDesk_releaseCheck n .clear (some l)
        (Desk.dropReasons (c.named (h.desks.get n).hold.reasons)) hcounted
      refine ⟨_, g, hg, hreply ?_, fun y => ?_, ?_, ?_, ?_, hchecked.lane, hchecked.definition, hchecked.others⟩
      · rw [hperform, if_neg hsome, reasonAnswer_of_heat n hg, stateAnswer_of_heat n hg]
        rfl
      · rw [hchecked.desk, dropReasons_has, hnamed]
        simp +contextual
      · exact fun k => by rw [hchecked.desk, dropReasons_holds]
      · rw [hchecked.desk]
        rfl
      · rw [hchecked.desk]
        rfl
  · have hreply : ∀ {t r data}, performReleaseLane l b (counted l s) = ⟨t, r, data⟩ →
        exec (.releaseLane l tag b) s = .next (answered l tag 0x14 r data t) :=
      exec_laneRequest_of_reply (c := .releaseLane l tag b) rfl rfl htakes
    have hperform := performReleaseLane_finished l hb hcounted hst
    refine ⟨fun hheld => hreply ?_, fun hmanual hempty hres => ?_⟩
    · rw [hperform, if_neg]
      rintro ⟨hmanual, hempty⟩
      rcases hheld with hauto | hheld
      · rw [hauto] at hmanual
        cases hmanual
      · exact Bool.false_ne_true (hheld.symm.trans hempty)
    · have hheat : (releaseLane n (some l) (counted l s)).heat = some (h.releasedLane n s.params s.deckTime) := by
        rw [releaseLane_heat, hcounted]
        rfl
      have hreleased := releasedLane_eq s.params s.deckTime hres
      refine ⟨_, _, hheat, hreply ?_, ?_, mem_releaseLane_laneQueue _ hcounted hres, ?_, fun m hm => ?_,
        releasedLane_final _ _ hres, releasedLane_phase _ _ hres⟩
      · rw [hperform, if_pos ⟨hmanual, hempty⟩]
        rfl
      · rw [hreleased, finalised_lanes, modLane_get_self]
      · rw [hreleased, finalised_desks, modLane_desks]
      · rw [hreleased, finalised_lanes, modLane_get, if_neg hm]

end Sys2Proof.Machine
end

section
/-! DISQUALIFY and REINSTATE (R130, R131): the mark written with its notice, its board update and the places it moves. -/

namespace Sys2Proof.Machine

open Sys2Proof

/-! ## What a change of the places keeps (R101) -/

theorem mem_queueLane_of_mem {m : LaneNo} {s : State} (n : LaneNo) (hm : m ∈ s.board.laneQueue) :
    m ∈ (queueLane n s).board.laneQueue := by
  simp only [queueLane, State.modBoard_board, queueLane_laneQueue]
  split
  · exact hm
  · exact List.mem_append_left _ hm

theorem mem_placeLane_of_mem {m : LaneNo} {s : State} (n : LaneNo) (hm : m ∈ s.board.laneQueue) :
    m ∈ (placeLane s n).board.laneQueue := by
  unfold placeLane
  split
  · exact hm
  · split
    · exact hm
    · exact mem_queueLane_of_mem n hm

theorem mem_placeLanes_of_mem {m : LaneNo} (ns : List LaneNo) {s : State} (hm : m ∈ s.board.laneQueue) :
    m ∈ (ns.foldl placeLane s).board.laneQueue := by
  induction ns generalizing s with
  | nil => exact hm
  | cons n ns ih => exact ih (mem_placeLane_of_mem n hm)

theorem mem_replaceIfTimed_of_mem {m : LaneNo} {s : State} (x : Lane) (hm : m ∈ s.board.laneQueue) :
    m ∈ (replaceIfTimed x s).board.laneQueue := by
  unfold replaceIfTimed
  split
  · exact mem_placeLanes_of_mem allLanes hm
  · exact hm

theorem replaceIfTimed_raises (x : Lane) (s : State) : RaisesKinds [.placeChange] s (replaceIfTimed x s) := by
  unfold replaceIfTimed
  split
  · exact recomputePlaces_raises s
  · exact .refl _ s

/-- The places recomputed or not, every lane record, hold set and DQ mark stays. -/
theorem replaceIfTimed_heat (x : Lane) {s : State} {h : Heat} (hs : s.heat = some h) :
    ∃ g, (replaceIfTimed x s).heat = some g ∧ g.lanes = h.lanes ∧ g.phase = h.phase ∧
      ∀ m, (g.desks.get m).hold = (h.desks.get m).hold ∧ (g.desks.get m).dq = (h.desks.get m).dq := by
  unfold replaceIfTimed
  split
  · exact ⟨h.replaced, by rw [recomputePlaces_heat, hs, Option.map_some], rfl, rfl, fun m => by simp [replaced_get]⟩
  · exact ⟨h, hs, rfl, rfl, fun _ => ⟨rfl, rfl⟩⟩

/-! ## A mark written (R130, R131) -/

/-- A lane's DQ mark written with its effects: HOLD_CHANGE, the board update, the places when the lane's outcome is TIME. -/
def writeMark (n : LaneNo) (cause : HoldCause) (link : Link) (mark : Option Byte) (x : Lane) (s : State) : State :=
  replaceIfTimed x (queueLane n (changeDesk n cause (some link) (fun k => { k with dq := mark }) s))

/-- A mark that changes raises HOLD_CHANGE and then PLACE_CHANGE alone, queues the board update, and leaves every lane record, hold
set and other mark. -/
theorem writeMark_changes {n : LaneNo} {mark : Option Byte} {s : State} {h : Heat} (cause : HoldCause) (link : Link) (x : Lane)
    (hs : s.heat = some h) (hne : (h.desks.get n).dq ≠ mark) :
    ∃ g, (writeMark n cause link mark x s).heat = some g ∧
      NoticesThenPlaces (.holdChange n cause (some link) (h.desks.get n).hold mark) s (writeMark n cause link mark x s) ∧
      (g.desks.get n).dq = mark ∧ g.lanes = h.lanes ∧ g.phase = h.phase ∧
      n ∈ (writeMark n cause link mark x s).board.laneQueue ∧
      ∀ m, (g.desks.get m).hold = (h.desks.get m).hold ∧ (m ≠ n → (g.desks.get m).dq = (h.desks.get m).dq) := by
  have hchange := changeDesk_some n cause (some link) (fun k => { k with dq := mark }) s h hs _ rfl
  rw [if_neg fun e => hne (congrArg Desk.dq e).symm] at hchange
  obtain ⟨g, hg, hlanes, hphase, hdesks⟩ := replaceIfTimed_heat x
    (s := queueLane n (changeDesk n cause (some link) (fun k => { k with dq := mark }) s))
    (h := h.modDesk n fun k => { k with dq := mark })
    (by rw [queueLane_heat, changeDesk_heat, hs, Option.map_some])
  refine ⟨g, hg, ?_, ?_, hlanes, hphase, mem_replaceIfTimed_of_mem x (mem_queueLane n _), fun m => ⟨?_, fun hm => ?_⟩⟩
  · obtain ⟨more, hraised, hkinds⟩ := replaceIfTimed_raises x
      (queueLane n (changeDesk n cause (some link) (fun k => { k with dq := mark }) s))
    have hfirst : Raised [.holdChange n cause (some link) (h.desks.get n).hold mark] s
        (queueLane n (changeDesk n cause (some link) (fun k => { k with dq := mark }) s)) := by
      rw [hchange]
      rfl
    exact ⟨more, hfirst.append hraised, fun q hq => List.mem_singleton.mp (hkinds q hq)⟩
  · rw [(hdesks n).2, modDesk_get_self]
  · rw [(hdesks m).1, modDesk_get]
    split
    · next e => rw [e]
    · rfl
  · rw [(hdesks m).2, modDesk_get, if_neg hm]

/-! ## The statement -/

section
variable {b : Byte} {s : State} {n : LaneNo} {h : Heat} (l : Link) (hb : b.toNat = n.val) (hs : s.heat = some h)
  (hst : (h.lanes.get n).state = .swimming ∨ (h.lanes.get n).state = .finished)
include hb hs hst

theorem performDisqualify_taken (code : Byte) :
    performDisqualify l b code s =
      if (h.desks.get n).dq = some code then refuse .already s
      else
        done (code :: placeAnswer n (writeMark n .disqualify l (some code) (h.lanes.get n) s))
          (writeMark n .disqualify l (some code) (h.lanes.get n) s) :=
  laneRequest_taken (laneOfByte_of_toNat hb) hs (by rcases hst with e | e <;> rw [e] <;> rfl)

theorem performReinstate_taken :
    performReinstate l b s =
      if (h.desks.get n).dq = none then refuse .already s
      else
        done (placeAnswer n (writeMark n .reinstate l none (h.lanes.get n) s))
          (writeMark n .reinstate l none (h.lanes.get n) s) :=
  laneRequest_taken (laneOfByte_of_toNat hb) hs (by rcases hst with e | e <;> rw [e] <;> rfl)

end

/-- Settles O46: a mark already as asked for is ALREADY; else it is written with its effects. -/
theorem disqualifyAndReinstate : Obligations.DisqualifyAndReinstate := by
  intro l tag b n s h htakes hb hs hst
  have hcounted : (counted l s).heat = some h := hs
  have hdisqualify : ∀ {code t r data}, performDisqualify l b code (counted l s) = ⟨t, r, data⟩ →
      exec (.disqualify l tag b code) s = .next (answered l tag 0x15 r data t) := fun {code _ _ _} hr =>
    exec_laneRequest_of_reply (c := .disqualify l tag b code) rfl rfl htakes hr
  have hreinstate : ∀ {t r data}, performReinstate l b (counted l s) = ⟨t, r, data⟩ →
      exec (.reinstate l tag b) s = .next (answered l tag 0x16 r data t) :=
    exec_laneRequest_of_reply (c := .reinstate l tag b) rfl rfl htakes
  have hmark := performDisqualify_taken l hb hcounted hst
  have hunmark := performReinstate_taken l hb hcounted hst
  refine ⟨fun code hdq => hdisqualify ?_, fun hdq => hreinstate ?_, fun code hdq => ?_, fun hdq => ?_⟩
  · rw [hmark, if_pos hdq]
    rfl
  · rw [hunmark, if_pos hdq]
    rfl
  · obtain ⟨g, hg, hchanges⟩ := writeMark_changes .disqualify l (h.lanes.get n) hcounted hdq
    refine ⟨_, g, hg, hdisqualify ?_, hchanges⟩
    rw [hmark, if_neg hdq, placeAnswer_of_heat n hg]
    rfl
  · obtain ⟨g, hg, hchanges⟩ := writeMark_changes .reinstate l (h.lanes.get n) hcounted hdq
    refine ⟨_, g, hg, hreinstate ?_, hchanges⟩
    rw [hunmark, if_neg hdq, placeAnswer_of_heat n hg]
    rfl

end Sys2Proof.Machine
end

section
/-! CLEAR FAULTS (R155, R157): the records named are cleared one by one, each with its notice, and nothing else of the hub moves. -/

namespace Sys2Proof.Machine

open Sys2Proof

/-! ## One record cleared -/

/-- The model's rule for a named record is the one the statements use. -/
theorem FaultRecord.cleared_eq (r : FaultRecord) : r.cleared = clearedRecord r := by
  obtain ⟨state, present, -, -, -, -⟩ := r
  cases present <;> cases state <;> rfl

/-- A clear takes no record out of service. -/
theorem FaultRecord.cleared_inService {r : FaultRecord} (h : r.state.inService = true) :
    r.cleared.state.inService = true := by
  unfold FaultRecord.cleared
  split
  · exact h
  · split
    · rfl
    · exact h

/-- A clear is reported whenever it changes the record (R155): it never changes the present condition alone. -/
theorem raisesFault_cleared (p : Params) (cls : FaultClass) (r : FaultRecord) :
    raisesFault p cls r r.cleared = decide (r.cleared ≠ r) := by
  obtain ⟨state, present, last, seen, serviceClass, retryStart⟩ := r
  unfold FaultRecord.cleared
  split
  · simp [raisesFault, FaultRecord.sameButPresent]
  · split
    · next hlatched =>
      obtain rfl : state = .latched := hlatched
      simp [raisesFault, FaultRecord.sameButPresent, FaultRecord.toClear]
    · cases seen <;> simp [raisesFault, FaultRecord.sameButPresent]

/-- The class a CLEARED notice names is one that R155 allows for the record (log 14). -/
theorem clearedClass_under (now : DeckTime) (i : Fin 71) (r : FaultRecord) : clearedUnder i r (clearedClass now i r) := by
  unfold clearedUnder clearedClass classesOf conditionClass
  cases r.serviceClass with
  | some c => rfl
  | none => cases lineOfInput i <;> simp

theorem LinkFault.unseen_eq_iff (f : LinkFault) : ({ f with seen := false } : LinkFault) = f ↔ f.seen = false := by
  obtain ⟨last, seen⟩ := f
  simp [eq_comm]

theorem FaultState.inService_eq (q : FaultState) : q.inService = (q == .clear || q == .reporting) := by
  cases q <;> rfl

/-! ## Records that move with their notices -/

/-- An operation that writes fault records and raises these notices, and does nothing else. -/
structure FaultsMoved (ns : List Notice) (s t : State) : Prop where
  notices : Raised ns s t
  rest : t = { s with faults := t.faults, linkFaults := t.linkFaults, links := t.links }

namespace FaultsMoved

variable {ms ns : List Notice} {s t u : State}

theorem refl (s : State) : FaultsMoved [] s s := ⟨Raised.nil rfl, rfl⟩

theorem trans (h : FaultsMoved ms s t) (k : FaultsMoved ns t u) : FaultsMoved (ms ++ ns) s u where
  notices := h.notices.append k.notices
  rest := k.rest.trans
    (congrArg (fun v : State => { v with faults := u.faults, linkFaults := u.linkFaults, links := u.links }) h.rest)

theorem deckTime (h : FaultsMoved ms s t) : t.deckTime = s.deckTime := by rw [h.rest]

/-- A chain of operations, none of which moves what the notices of another report. -/
theorem foldl {α : Type} {step : State → α → State} {notices : State → α → List Notice}
    (hstep : ∀ s a, FaultsMoved (notices s a) s (step s a))
    (hothers : ∀ s a b, b ≠ a → notices (step s a) b = notices s b) {as : List α} (hd : as.Nodup) (s : State) :
    FaultsMoved (as.flatMap (notices s)) s (as.foldl step s) := by
  induction as generalizing s with
  | nil => exact refl s
  | cons a as ih =>
    obtain ⟨ha, hd⟩ := List.nodup_cons.mp hd
    have hsame : as.flatMap (notices (step s a)) = as.flatMap (notices s) :=
      List.flatMap_congr fun b hb => hothers s a b fun e => ha (e ▸ hb)
    rw [List.flatMap_cons, List.foldl_cons, ← hsame]
    exact (hstep s a).trans (ih hd (step s a))

end FaultsMoved

/-! ## The inputs -/

theorem writeFault_linkFaults (i : Fin 71) (c : FaultClass) (k : FaultCause) (l : Option Link) (q : FaultRecord)
    (s : State) : (writeFault i c k l q s).linkFaults = s.linkFaults := by
  unfold writeFault
  dsimp only
  split <;> rfl

theorem writeFaults_linkFaults (is : List (Fin 71)) (f : Fin 71 → FaultRecord → FaultRecord)
    (cls : Fin 71 → FaultRecord → FaultClass) (k : FaultCause) (l : Option Link) (s : State) :
    (is.foldl (fun s i => writeFault i (cls i (s.faults.get i)) k l (f i (s.faults.get i)) s) s).linkFaults =
      s.linkFaults := by
  induction is generalizing s with
  | nil => rfl
  | cons i is ih => rw [List.foldl_cons, ih, writeFault_linkFaults]

/-- Records that stay in service, or were out of it before, are written and no more: no service change follows. -/
theorem moveFaults_eq_writes (is : List (Fin 71)) (hd : is.Nodup) (f : Fin 71 → FaultRecord → FaultRecord)
    (cls : Fin 71 → FaultRecord → FaultClass) (k : FaultCause) (l : Option Link) (s : State)
    (hs : ∀ i ∈ is, s.inService i = true → (f i (s.faults.get i)).state.inService = true) :
    moveFaults is f cls k l s =
      is.foldl (fun s i => writeFault i (cls i (s.faults.get i)) k l (f i (s.faults.get i)) s) s := by
  refine handServices_none _ _ _ _ (List.filter_eq_nil_iff.mpr fun i hi hleft => ?_)
    fun n => by simp only [laneView, writeFaults_heat]
  simp only [Bool.and_eq_true, Bool.not_eq_true'] at hleft
  obtain ⟨hbefore, hafter⟩ := hleft
  rw [State.inService, writeFaults_get is hd, if_pos hi, hs i hi hbefore] at hafter
  cases hafter

/-- The notice of one input's record when it is cleared, its class judged at the deck time `now`. -/
def inputClearedNotices (now : DeckTime) (link : Option Link) (s : State) (i : Fin 71) : List Notice :=
  let r := s.faults.get i
  if r.cleared = r then [] else [r.cleared.notice i (clearedClass now i r) .cleared link s.deckTime]

/-- One input's record cleared, as `moveFaults` writes it. -/
def clearInput (now : DeckTime) (link : Option Link) (s : State) (i : Fin 71) : State :=
  writeFault i (clearedClass now i (s.faults.get i)) .cleared link (s.faults.get i).cleared s

theorem clearInput_moved (now : DeckTime) (link : Option Link) (s : State) (i : Fin 71) :
    FaultsMoved (inputClearedNotices now link s i) s (clearInput now link s i) := by
  simp only [inputClearedNotices, clearInput, writeFault, raisesFault_cleared, decide_eq_true_eq, ite_not]
  split
  · exact ⟨Raised.nil rfl, rfl⟩
  · exact ⟨rfl, rfl⟩

theorem clearInputs_moved (now : DeckTime) (link : Option Link) {is : List (Fin 71)} (hd : is.Nodup) (s : State) :
    FaultsMoved (is.flatMap (inputClearedNotices now link s)) s (is.foldl (clearInput now link) s) := by
  refine FaultsMoved.foldl (clearInput_moved now link) (fun s i j hj => ?_) hd s
  have hget : (clearInput now link s i).faults.get j = s.faults.get j := by rw [clearInput, writeFault_get, if_neg hj]
  simp only [inputClearedNotices, hget, (clearInput_moved now link s i).deckTime]

/-! ## The links -/

/-- The notice of one link's record when it is cleared. -/
def linkClearedNotices (link : Option Link) (s : State) (l : Link) : List Notice :=
  let f := s.linkFaults.get l
  if f.seen then [LinkFault.notice l .cleared link s.deckTime { f with seen := false }] else []

theorem clearLink_moved (link : Option Link) (s : State) (l : Link) :
    FaultsMoved (linkClearedNotices link s l) s (clearLink link s l) := by
  simp only [linkClearedNotices, clearLink]
  split
  · exact ⟨rfl, rfl⟩
  · exact FaultsMoved.refl s

theorem clearLink_faults (link : Option Link) (s : State) (l : Link) : (clearLink link s l).faults = s.faults := by
  unfold clearLink
  dsimp only
  split <;> rfl

theorem clearLink_get (link : Option Link) (s : State) (l k : Link) :
    (clearLink link s l).linkFaults.get k =
      if k = l then { s.linkFaults.get k with seen := false } else s.linkFaults.get k := by
  unfold clearLink
  dsimp only
  split
  · rw [raise_linkFaults, PerLink.get_put]
    split
    · next e => rw [e]
    · rfl
  · next hunseen =>
    split
    · next e =>
      rw [e]
      exact ((LinkFault.unseen_eq_iff _).mpr (Bool.not_eq_true _ ▸ hunseen)).symm
    · rfl

theorem clearLinks_faults (link : Option Link) (ls : List Link) (s : State) :
    (ls.foldl (clearLink link) s).faults = s.faults := by
  induction ls generalizing s with
  | nil => rfl
  | cons l ls ih => rw [List.foldl_cons, ih, clearLink_faults]

theorem clearLinks_get (link : Option Link) (ls : List Link) (s : State) (k : Link) :
    (ls.foldl (clearLink link) s).linkFaults.get k =
      if k ∈ ls then { s.linkFaults.get k with seen := false } else s.linkFaults.get k := by
  induction ls generalizing s with
  | nil => rfl
  | cons l ls ih =>
    rw [List.foldl_cons, ih, clearLink_get]
    by_cases h : k = l <;> simp [h]

theorem clearLinks_moved (link : Option Link) {ls : List Link} (hd : ls.Nodup) (s : State) :
    FaultsMoved (ls.flatMap (linkClearedNotices link s)) s (ls.foldl (clearLink link) s) := by
  refine FaultsMoved.foldl (clearLink_moved link) (fun s l k hk => ?_) hd s
  simp only [linkClearedNotices, clearLink_get, if_neg hk, (clearLink_moved link s l).deckTime]

/-! ## Some records cleared -/

theorem clearFaults_eq_folds {is : List (Fin 71)} (hd : is.Nodup) (ls : List Link) (link : Option Link) (s : State) :
    clearFaults is ls link s = ls.foldl (clearLink link) (is.foldl (clearInput s.deckTime link) s) := by
  rw [clearFaults, moveFaults_eq_writes is hd]
  · rfl
  · exact fun i _ h => FaultRecord.cleared_inService h

theorem clearFaults_get {is : List (Fin 71)} (hd : is.Nodup) (ls : List Link) (link : Option Link) (s : State)
    (i : Fin 71) :
    (clearFaults is ls link s).faults.get i = if i ∈ is then (s.faults.get i).cleared else s.faults.get i := by
  rw [clearFaults, clearLinks_faults, moveFaults_get is hd]

theorem clearFaults_linkFaults_get {is : List (Fin 71)} (hd : is.Nodup) (ls : List Link) (link : Option Link)
    (s : State) (k : Link) :
    (clearFaults is ls link s).linkFaults.get k =
      if k ∈ ls then { s.linkFaults.get k with seen := false } else s.linkFaults.get k := by
  have hinputs : (is.foldl (clearInput s.deckTime link) s).linkFaults = s.linkFaults :=
    writeFaults_linkFaults is (fun _ r => r.cleared) (clearedClass s.deckTime) .cleared link s
  rw [clearFaults_eq_folds hd, clearLinks_get, hinputs]

theorem clearFaults_moved {is : List (Fin 71)} (hd : is.Nodup) {ls : List Link} (hl : ls.Nodup) (link : Option Link)
    (s : State) :
    FaultsMoved (is.flatMap (inputClearedNotices s.deckTime link s) ++ ls.flatMap (linkClearedNotices link s)) s
      (clearFaults is ls link s) := by
  have hinputs := clearInputs_moved s.deckTime link hd s
  have hrecords : (is.foldl (clearInput s.deckTime link) s).linkFaults = s.linkFaults :=
    writeFaults_linkFaults is (fun _ r => r.cleared) (clearedClass s.deckTime) .cleared link s
  have hnotices : linkClearedNotices link (is.foldl (clearInput s.deckTime link) s) = linkClearedNotices link s :=
    funext fun l => by simp only [linkClearedNotices, hrecords, hinputs.deckTime]
  rw [clearFaults_eq_folds hd, ← hnotices]
  exact hinputs.trans (clearLinks_moved link hl _)

theorem allLinks_nodup : allLinks.Nodup := by decide

theorem mem_allLinks (l : Link) : l ∈ allLinks := by cases l <;> decide

theorem flatMap_filter {α β : Type} (p : α → Bool) (f : α → List β) (as : List α) :
    (as.filter p).flatMap f = as.flatMap fun a => if p a = true then f a else [] := by
  induction as with
  | nil => rfl
  | cons a as ih => by_cases h : p a = true <;> simp [h, ih]

/-- The notices of the records named are those of the records changed: one not named, or left as it was, raises none. -/
theorem clearedNotices_eq (named : Fin 71 → Bool) (namedLink : Link → Bool) (link : Option Link) (s : State) :
    clearedNotices (fun i => clearedClass s.deckTime i (s.faults.get i)) link s
        (clearFaults (allInputs.filter named) (allLinks.filter namedLink) link s) =
      (allInputs.filter named).flatMap (inputClearedNotices s.deckTime link s) ++
        (allLinks.filter namedLink).flatMap (linkClearedNotices link s) := by
  have hd := allInputs_nodup.filter named
  rw [clearedNotices, flatMap_filter, flatMap_filter]
  congr 1
  · refine List.flatMap_congr fun i hi => ?_
    rw [clearFaults_get hd]
    by_cases hn : named i = true
    · simp [hn, hi, inputClearedNotices, FaultRecord.notice, FaultState.inService_eq]
    · simp [hn]
  · refine List.flatMap_congr fun k hk => ?_
    rw [clearFaults_linkFaults_get hd]
    by_cases hn : namedLink k = true
    · have hmem : k ∈ allLinks.filter namedLink := List.mem_filter.mpr ⟨hk, hn⟩
      simp only [hmem, hn, if_true, LinkFault.unseen_eq_iff, linkClearedNotices, LinkFault.notice]
      cases (s.linkFaults.get k).seen <;> rfl
    · simp [hn]

/-- CLEAR FAULTS of the records named, by whomever (R157, R158). -/
theorem clearFaults_cleared (named : Fin 71 → Bool) (namedLink : Link → Bool) (link : Option Link) (s : State) :
    FaultsCleared named namedLink link s
      (clearFaults (allInputs.filter named) (allLinks.filter namedLink) link s) := by
  have hd := allInputs_nodup.filter named
  have hmoved := clearFaults_moved hd (allLinks_nodup.filter namedLink) link s
  refine ⟨fun i => ?_, fun k => ?_, ⟨_, fun i => clearedClass_under s.deckTime i (s.faults.get i), ?_⟩, hmoved.rest⟩
  · simp only [clearFaults_get hd, List.mem_filter, mem_allInputs, true_and, FaultRecord.cleared_eq]
  · simp only [clearFaults_linkFaults_get hd, List.mem_filter, mem_allLinks, true_and]
  · rw [clearedNotices_eq]
    exact hmoved.notices

/-! ## The records a request names (R157, R190) -/

/-- In a list without repetitions a test that one member alone meets picks it. -/
theorem filter_eq_singleton {α : Type} [DecidableEq α] {as : List α} (hd : as.Nodup) {a : α} (ha : a ∈ as)
    {p : α → Bool} (hp : ∀ x, p x = true ↔ x = a) : as.filter p = [a] := by
  have hbeq : p = fun x => x == a := funext fun x => by rw [Bool.eq_iff_iff, hp, beq_iff_eq]
  rw [hbeq, List.filter_beq, List.count_eq_one_of_mem hd ha, List.replicate_one]

theorem ne_all_of_le {b : Byte} (hb : b.toNat ≤ 73) : b ≠ 0xFF := by
  rintro rfl
  exact absurd hb (by decide)

theorem decodeRecord_input {b : Byte} (hb : b.toNat < 71) : decodeRecord b = some (.input ⟨b.toNat, hb⟩) := by
  rw [decodeRecord, if_neg (ne_all_of_le (by omega)), dif_pos hb]

theorem decodeRecord_link {b : Byte} {k : Link} (hb : b.toNat = 71 + k.code) : decodeRecord b = some (.link k) := by
  cases k <;> simp only [Link.code] at hb <;> rw [decodeRecord, if_neg (ne_all_of_le (by omega))] <;> simp [hb]

theorem namesInput_iff {b : Byte} (hb : b.toNat ≤ 73) (i : Fin 71) : namesInput b i = true ↔ b.toNat = i.val := by
  rw [namesInput, beq_eq_false_iff_ne.mpr (ne_all_of_le hb), Bool.false_or, beq_iff_eq]

theorem namesLink_iff {b : Byte} (hb : b.toNat ≤ 73) (k : Link) : namesLink b k = true ↔ b.toNat = 71 + k.code := by
  rw [namesLink, beq_eq_false_iff_ne.mpr (ne_all_of_le hb), Bool.false_or, beq_iff_eq]

theorem Link.code_inj {k l : Link} (h : k.code = l.code) : k = l := by
  cases k <;> cases l <;> simp [Link.code] at h ⊢

/-- An input number is one input and no link, a link's number one link and no input, 0xFF all of both. -/
theorem decodeRecord_names {b : Byte} (hb : b.toNat ≤ 73 ∨ b = 0xFF) :
    ∃ c, decodeRecord b = some c ∧ c.inputs = allInputs.filter (namesInput b) ∧
      c.links = allLinks.filter (namesLink b) := by
  rcases hb with hb | rfl
  · by_cases hi : b.toNat < 71
    · refine ⟨_, decodeRecord_input hi, (filter_eq_singleton allInputs_nodup (mem_allInputs _) fun j => ?_).symm,
        (List.filter_eq_nil_iff.mpr fun k _ hk => ?_).symm⟩
      · rw [namesInput_iff hb, Fin.ext_iff, eq_comm]
      · rw [namesLink_iff hb] at hk
        omega
    · obtain ⟨k, hk⟩ : ∃ k : Link, b.toNat = 71 + k.code := by
        obtain h | h | h : b.toNat = 71 ∨ b.toNat = 72 ∨ b.toNat = 73 := by omega
        exacts [⟨.cl0, h⟩, ⟨.cl1, h⟩, ⟨.cl2, h⟩]
      refine ⟨_, decodeRecord_link hk, (List.filter_eq_nil_iff.mpr fun i _ hin => ?_).symm,
        (filter_eq_singleton allLinks_nodup (mem_allLinks k) fun l => ?_).symm⟩
      · rw [namesInput_iff hb] at hin
        omega
      · rw [namesLink_iff hb, hk]
        exact ⟨fun h => Link.code_inj (by omega), fun h => by rw [h]⟩
  · exact ⟨.all, rfl, (List.filter_true _).symm, (List.filter_true _).symm⟩

/-- The inputs out of service before are those that return and those still out: a clear takes none out. -/
theorem outOfService_sub {s t : State} (h : ∀ i, s.inService i = true → t.inService i = true) :
    s.outOfService - t.outOfService = allInputs.countP fun i => !s.inService i && t.inService i := by
  have hstill : t.outOfService = (allInputs.filter fun i => !t.inService i).countP fun i => !s.inService i := by
    rw [List.countP_filter, State.outOfService]
    refine List.countP_congr fun i _ => ?_
    have := h i
    cases hs : s.inService i <;> simp_all
  have hsplit : s.outOfService =
      (allInputs.filter fun i => t.inService i).countP (fun i => !s.inService i) + t.outOfService := by
    rw [hstill]
    exact List.countP_eq_countP_filter_add _ _ _
  rw [hsplit, Nat.add_sub_cancel, List.countP_filter]

theorem performClearFaults_named (l : Link) {b : Byte} (hb : b.toNat ≤ 73 ∨ b = 0xFF) (s : State) :
    ∃ t, performClearFaults l b s =
        ⟨t, .done,
          [byteOf (allInputs.countP fun i => !s.inService i && t.inService i),
            byteOf (allInputs.countP fun i => !t.inService i)]⟩ ∧
      FaultsCleared (namesInput b) (namesLink b) (some l) s t := by
  obtain ⟨c, hc, hinputs, hlinks⟩ := decodeRecord_names hb
  have hcleared := clearFaults_cleared (namesInput b) (namesLink b) (some l) s
  rw [← hinputs, ← hlinks] at hcleared
  refine ⟨clearFaults c.inputs c.links (some l) s, ?_, hcleared⟩
  have hstays : ∀ i, s.inService i = true → (clearFaults c.inputs c.links (some l) s).inService i = true := by
    intro i hi
    rw [State.inService, hcleared.records]
    split
    · rw [← FaultRecord.cleared_eq]
      exact FaultRecord.cleared_inService hi
    · exact hi
  rw [← outOfService_sub hstays, performClearFaults, hc]
  rfl

/-- Settles O51: the request's record number decoded, its records cleared, the counts answered. -/
theorem Supervision.clearFaults : Obligations.ClearFaults := by
  intro l tag b s htakes hb
  obtain ⟨t, hreply, hcleared⟩ := performClearFaults_named l hb (counted l s)
  exact ⟨t, congrArg Host.Outcome.next (arrive_of_reply htakes hreply), hcleared⟩

end Sys2Proof.Machine
end

section
/-! RESETn (R158, R187): the pin, the long pulse, and what the end of a low level does by its length. -/

namespace Sys2Proof.Machine

open Sys2Proof

/-! ## What a reset leaves -/

theorem resetDecoders_get (v : Vector Decoder 73) (i : Fin 73) :
    (resetDecoders v).get i = Decoder.reset (v.get i).sensed := by
  simp [resetDecoders, Vector.get_eq_getElem]

theorem resetState_resetTo (p : Params) (m : PerLink (List NoticeKind)) (phase : Phase) (s : State) :
    ResetTo p m.get s (resetState p m phase s) where
  params := rfl
  links := PerLink.get_map m Clu.reset
  board := rfl
  heat := rfl
  queue := rfl
  resetPending := rfl
  faults := fun i => by simp [resetState, State.reset, Vector.get_eq_getElem]
  linkFaults := fun l => by cases l <;> rfl
  decoders := resetDecoders_get s.decoders

theorem fullMasks_get (l : Link) : fullMasks.get l = NoticeKind.maskable := by cases l <;> rfl

theorem fullReset_resetTo (phase : Phase) (s : State) :
    ResetTo Params.default (fun _ => NoticeKind.maskable) s (fullReset phase s) :=
  (funext fullMasks_get : fullMasks.get = _) ▸ resetState_resetTo Params.default fullMasks phase s

/-! ## The long pulse -/

theorem longPulseDue_low {s : State} {n : Nat} (hn : s.resetn = some n) (hp : s.phase ≠ .held) :
    longPulseDue s = decide (50 ≤ n) := by
  rw [longPulseDue, bne_iff_ne.mpr hp, hn, Bool.true_and]
  rfl

theorem longPulseDue_idle {s : State} (h : s.resetn = none ∨ s.phase = .held) : longPulseDue s = false := by
  rcases h with h | h <;> simp [longPulseDue, h]

theorem exec_longResetnPulse_due {s : State} (h : longPulseDue s = true) :
    exec .longResetnPulse s = .next (fullReset .held s) := if_pos h

theorem exec_longResetnPulse_early {s : State} (h : longPulseDue s = false) : exec .longResetnPulse s = .next s :=
  if_neg (Bool.eq_false_iff.mp h)

/-! ## The end of a low level, by its length -/

theorem exec_resetnHigh_held {s : State} {n : Nat} (hn : s.resetn = some n) (hp : s.phase = .held) (micros : Nat) :
    exec (.resetnHigh micros) s = .next { s with resetn := none, phase := .startUp 2000 .resetn } := by
  change execResetnHigh micros s = _
  simp only [execResetnHigh, hn, if_pos hp]
  rfl

theorem exec_resetnHigh_low {s : State} {n : Nat} (hn : s.resetn = some n) (hp : s.phase ≠ .held) (micros : Nat) :
    exec (.resetnHigh micros) s = .next (endPulse (100 * n + micros) s) := by
  change execResetnHigh micros s = _
  simp only [execResetnHigh, hn, if_neg hp]
  rfl

theorem endPulse_eq (micros : Nat) (s : State) :
    endPulse micros s =
      if micros < 20 then { s with resetn := none }
      else if micros < 5000 then event shortPulse { s with resetn := none }
      else fullReset (.startUp 2000 .resetn) { s with resetn := none } := rfl

theorem endPulse_ignored {micros : Nat} (h : micros < 20) (s : State) : endPulse micros s = { s with resetn := none } := by
  rw [endPulse_eq, if_pos h]

theorem endPulse_short {micros : Nat} (hlo : 20 ≤ micros) (hhi : micros < 5000) (s : State) :
    endPulse micros s = event shortPulse { s with resetn := none } := by
  rw [endPulse_eq, if_neg (Nat.not_lt.mpr hlo), if_pos hhi]

theorem endPulse_long {micros : Nat} (h : 5000 ≤ micros) (s : State) :
    endPulse micros s = fullReset (.startUp 2000 .resetn) { s with resetn := none } := by
  rw [endPulse_eq, if_neg (by omega), if_neg (Nat.not_lt.mpr h)]

/-- Below 5 ms a hub that does not run has the pin alone changed. -/
theorem endPulse_idle {micros : Nat} (h : micros < 5000) {s : State} (hp : s.phase ≠ .running) :
    endPulse micros s = { s with resetn := none } := by
  by_cases hlo : micros < 20
  · exact endPulse_ignored hlo s
  · rw [endPulse_short (Nat.not_lt.mp hlo) h]
    exact event_idle (s := { s with resetn := none }) hp shortPulse

theorem shortPulse_cleared (s : State) : FaultsCleared (fun _ => true) (fun _ => true) none s (shortPulse s) := by
  have hcleared := clearFaults_cleared (fun _ => true) (fun _ => true) none s
  rwa [List.filter_true, List.filter_true] at hcleared

/-- Settles O7: the pin's fall, the long pulse, then the pin's rise by phase and by the length of the low level. -/
theorem resetnPulses : Obligations.ResetnPulses := by
  refine ⟨fun s hn => ?_, fun s n hn => ?_, fun s n hn hp h => ?_, fun s n hn h => ?_, fun s h => ?_, fun s micros hn => ?_,
    fun s n micros hn hp => exec_resetnHigh_held hn hp micros, fun s n micros hn hp h => ?_,
    fun s n micros hn hp hlo hhi => ?_, fun s n micros left cause hn hp h => ?_, fun s n micros hn hp h => ?_⟩
  · change execResetnLow s = _
    rw [execResetnLow, hn]
  · change execResetnLow s = _
    rw [execResetnLow, hn]
  · exact ⟨_, exec_longResetnPulse_due (by rw [longPulseDue_low hn hp, decide_eq_true h]), rfl, hn, rfl,
      fullReset_resetTo .held s⟩
  · refine exec_longResetnPulse_early ?_
    by_cases hp : s.phase = .held
    · exact longPulseDue_idle (.inr hp)
    · rw [longPulseDue_low hn hp, decide_eq_false (Nat.not_le.mpr h)]
  · exact exec_longResetnPulse_early (longPulseDue_idle h)
  · change execResetnHigh micros s = _
    rw [execResetnHigh, hn]
  · rw [exec_resetnHigh_low hn hp, endPulse_ignored h]
  · have hlow : s.phase ≠ .held := by rw [hp]; exact nofun
    refine ⟨shortPulse { s with resetn := none }, ?_, shortPulse_cleared _⟩
    rw [exec_resetnHigh_low hn hlow, endPulse_short hlo hhi]
    exact congrArg Host.Outcome.next (event_running (s := { s with resetn := none }) hp shortPulse)
  · have hlow : s.phase ≠ .held := by rw [hp]; exact nofun
    rw [exec_resetnHigh_low hn hlow, endPulse_idle h (by rw [hp]; exact nofun)]
  · refine ⟨fullReset (.startUp 2000 .resetn) { s with resetn := none }, ?_, rfl, rfl, ?_⟩
    · rw [exec_resetnHigh_low hn hp, endPulse_long h]
    exact { fullReset_resetTo (.startUp 2000 .resetn) { s with resetn := none } with
      decoders := resetDecoders_get s.decoders }

end Sys2Proof.Machine
end

section
/-! The board arbiter rule by rule (R163), and what both arbiters leave (R162, R180): a frame in flight, or nothing to send. -/

namespace Sys2Proof.Machine

open Sys2Proof

/-! ## The rules of R163 in their order -/

namespace Board

variable {b : Board} {h : Heat} {heat : Option Heat} {p : Params} {now : DeckTime}

theorem arbitrate_sending {f : BoardFlight} (hf : b.flight = some f) : b.arbitrate heat p now = b := by
  rw [arbitrate, hf]

theorem arbitrate_event {i : EventItem} {is : List EventItem} (hf : b.flight = none) (he : b.events = i :: is) :
    b.arbitrate heat p now = send (.event i) { b with events := is } := by
  rw [arbitrate, hf, he]

theorem arbitrate_eventless (hf : b.flight = none) (he : b.events = []) :
    b.arbitrate heat p now = b.headerOrClock heat p now := by
  rw [arbitrate, hf, he]

theorem headerOrClock_owed (hh : b.headerPending = true) :
    b.headerOrClock (some h) p now = send (.header (headerFrame h)) { b with headerPending := false } := if_pos hh

theorem headerOrClock_clock (hh : b.headerPending = false) (hc : b.clockGoes = true) :
    b.headerOrClock (some h) p now = send (clockFrame h b.freeze now) { b with clockDue := false } :=
  (if_neg (Bool.eq_false_iff.mp hh)).trans (if_pos hc)

theorem headerOrClock_passed (hh : b.headerPending = false) (hc : b.clockGoes = false) :
    b.headerOrClock (some h) p now = b.laneOrIdle (some h) p :=
  (if_neg (Bool.eq_false_iff.mp hh)).trans (if_neg (Bool.eq_false_iff.mp hc))

theorem headerOrClock_raceless : b.headerOrClock none p now = b.laneOrIdle none p := rfl

theorem laneOrIdle_lane {n : LaneNo} {ns : List LaneNo} (hq : b.laneQueue = n :: ns) :
    b.laneOrIdle (some h) p = send (.lane (laneFrame h n)) { b with laneQueue := ns } := by
  simp only [laneOrIdle, hq]

theorem laneOrIdle_laneless (hq : heat = none ∨ b.laneQueue = []) :
    b.laneOrIdle heat p = if b.idleDue then send (.idle p.idlePattern) { b with idleDue := false } else b := by
  rcases hq with rfl | hq
  · rfl
  · cases heat with
    | none => rfl
    | some h => simp only [laneOrIdle, hq]

theorem clockGoes_eq_true (hd : b.clockDue = true) (h : b.lastKind ≠ some .clock ∨ b.laneQueue = []) :
    b.clockGoes = true := by
  rcases h with h | h <;> simp [clockGoes, hd, h]

theorem clockGoes_eq_false_of_waiting {n : LaneNo} {ns : List LaneNo} (h : b.clockDue = false ∨ b.lastKind = some .clock)
    (hq : b.laneQueue = n :: ns) : b.clockGoes = false := by
  rcases h with h | h <;> simp [clockGoes, h, hq]

theorem clockGoes_eq_false_of_notDue (hd : b.clockDue = false) : b.clockGoes = false := by
  simp [clockGoes, hd]

/-! ## What the arbiters leave -/

theorem laneOrIdle_quiet (hq : (b.laneOrIdle heat p).flight = none) :
    b.laneOrIdle heat p = b ∧ b.idleDue = false ∧ (heat.isSome = true → b.laneQueue = []) := by
  have noLane : heat = none ∨ b.laneQueue = [] := by
    cases heat with
    | none => exact .inl rfl
    | some h =>
      cases hl : b.laneQueue with
      | nil => exact .inr rfl
      | cons n ns =>
        rw [laneOrIdle_lane hl] at hq
        cases hq
  rw [laneOrIdle_laneless noLane] at hq ⊢
  cases hi : b.idleDue with
  | true =>
    rw [if_pos hi] at hq
    cases hq
  | false =>
    refine ⟨rfl, rfl, fun hs => noLane.resolve_left fun hn => ?_⟩
    rw [hn] at hs
    cases hs

theorem headerOrClock_quiet (hq : (b.headerOrClock heat p now).flight = none) :
    b.headerOrClock heat p now = b ∧ b.idleDue = false ∧
      (heat.isSome = true → b.headerPending = false ∧ b.clockGoes = false ∧ b.laneQueue = []) := by
  cases heat with
  | none =>
    obtain ⟨hsame, hidle, -⟩ := laneOrIdle_quiet hq
    exact ⟨hsame, hidle, nofun⟩
  | some h =>
    cases hh : b.headerPending with
    | true =>
      rw [headerOrClock_owed hh] at hq
      cases hq
    | false =>
      cases hc : b.clockGoes with
      | true =>
        rw [headerOrClock_clock hh hc] at hq
        cases hq
      | false =>
        rw [headerOrClock_passed hh hc] at hq ⊢
        obtain ⟨hsame, hidle, hlanes⟩ := laneOrIdle_quiet hq
        exact ⟨hsame, hidle, fun hs => ⟨rfl, rfl, hlanes hs⟩⟩

theorem arbitrate_quiet (hq : (b.arbitrate heat p now).flight = none) :
    b.arbitrate heat p now = b ∧ b.events = [] ∧ b.idleDue = false ∧
      (heat.isSome = true → b.headerPending = false ∧ b.clockGoes = false ∧ b.laneQueue = []) := by
  cases hf : b.flight with
  | some f =>
    rw [arbitrate_sending hf, hf] at hq
    cases hq
  | none =>
    cases he : b.events with
    | cons i is =>
      rw [arbitrate_event hf he] at hq
      cases hq
    | nil =>
      rw [arbitrate_eventless hf he] at hq ⊢
      obtain ⟨hsame, hrest⟩ := headerOrClock_quiet hq
      exact ⟨hsame, rfl, hrest⟩

end Board

theorem settle_boardSettled (s : State) : boardSettled (settle s) := by
  intro hq
  obtain ⟨hsame, hrest⟩ := Board.arbitrate_quiet hq
  rw [settle_board, hsame]
  exact hrest

theorem Clu.arbitrate_settled (c : Clu) : c.arbitrate.settled := by
  unfold Clu.arbitrate
  split
  · next hf => exact fun hq => absurd (hf.symm.trans hq) nofun
  · exact nofun
  · exact nofun
  · next ha hn => exact fun _ => ⟨ha, hn⟩

theorem settle_settled (s : State) : Settled (settle s) :=
  fun _ => ⟨fun l => by simpa using Clu.arbitrate_settled (s.links.get l), settle_boardSettled s⟩

end Sys2Proof.Machine
end

section
/-! Every step leaves the transmitters settled and what a reset clears cleared (R162, R174, R180, R187): an event ends in the
arbiters, a reset leaves what `ResetTo` lists, and every other step moves neither. -/

namespace Sys2Proof.Machine

open Sys2Proof

/-- What every step keeps of transmitters and resets. -/
structure Steady (s : State) : Prop where
  settled : Settled s
  resetStands : ResetStands s

/-! ## Events and resets -/

theorem Steady.of_running {s : State} (hrun : s.phase = .running) (h : Settled s) : Steady s :=
  ⟨h, fun hidle => absurd hrun hidle⟩

theorem Steady.of_idle {s : State} (hidle : s.phase ≠ .running)
    (h : ResetTo s.params (fun l => (s.links.get l).mask) s s) : Steady s :=
  ⟨fun hrun => absurd hrun hidle, fun _ => h⟩

theorem settle_steady {s : State} (hrun : s.phase = .running) : Steady (settle s) :=
  .of_running hrun (settle_settled s)

theorem event_steady {f : State → State} {s : State} (hs : Steady s) (hf : ∀ u, (f u).phase = u.phase) :
    Steady (event f s) := by
  by_cases hrun : s.phase = .running
  · rw [event_running hrun]
    exact settle_steady ((hf s).trans hrun)
  · rwa [event_idle hrun]

/-- A state that any reset left, whatever the state before it. -/
theorem ResetTo.steady {p : Params} {m : Link → List NoticeKind} {s t : State} (h : ResetTo p m s t)
    (hidle : t.phase ≠ .running) : Steady t :=
  .of_idle hidle
    { h with
      params := rfl
      links := fun l => by rw [h.links l]; rfl
      decoders := fun i => by rw [h.decoders i]; rfl }

/-- The fields that neither the transmitters nor a reset are about. -/
theorem Steady.write {s : State} (hs : Steady s) (resetn : Option Nat) (choices : Nat) (pending : List Instr) :
    Steady { s with resetn := resetn, choices := choices, pending := pending } :=
  ⟨hs.settled, fun hidle => { hs.resetStands hidle with }⟩

/-! ## Requests and received bytes -/

theorem judgeArrival_phase {perform : State → Reply} (l : Link) (tag kind : Byte) (hp : ∀ u, Served u (perform u))
    (s : State) : (judgeArrival l tag kind perform s).phase = s.phase := by
  unfold judgeArrival
  split
  · unfold refuseBusy
    split <;> rfl
  · exact (hp _).owned.phase

theorem arrive_steady {perform : State → Reply} {s : State} (hs : Steady s) (l : Link) (tag kind : Byte)
    (hp : ∀ u, Served u (perform u)) : Steady (arrive l tag kind perform s) :=
  event_steady hs (judgeArrival_phase l tag kind hp)

theorem followedByOvertime_steady {t : State} (s : State) (ht : Steady t) : Steady (followedByOvertime s t) := by
  unfold followedByOvertime
  split
  · exact event_steady ht fun u => (RaceOnly.overtimeIfDue u).phase
  · exact ht

theorem discard_phase (l : Link) (d : Discard) (s : State) : (discard l d s).phase = s.phase :=
  (Owned.reportDiscard l d (setFramer l .hunt s)).phase

theorem arriveFrame_phase (l : Link) (len : Nat) (buffer : List Byte) (s : State) :
    (arriveFrame l len buffer s).phase = s.phase := by
  unfold arriveFrame
  split
  · exact judgeArrival_phase l _ _ (Served.serve l _ _) s
  · rfl

theorem frameByte_phase (l : Link) (buffer : List Byte) (b : Byte) (s : State) :
    (frameByte l buffer b s).phase = s.phase := by
  unfold frameByte
  split
  · split
    · exact discard_phase l .length s
    · rfl
  · dsimp only
    split
    · rfl
    · split
      · exact arriveFrame_phase l _ _ _
      · exact discard_phase l .crc s

theorem receive_phase (l : Link) (b : Byte) (s : State) : (receive l b s).phase = s.phase := by
  unfold receive
  split
  · split <;> rfl
  · exact frameByte_phase l _ b s

/-! ## Transmissions, levels, RESETn and start-up -/

theorem completeLink_steady {s : State} (hs : Steady s) (l : Link) : Steady (completeLink l s) := by
  unfold completeLink
  split
  · exact (resetState_resetTo s.params s.masks _ s).steady nofun
  · exact event_steady hs fun _ => rfl

theorem senseLevel_steady {s : State} (hs : Steady s) (l : Line) (v : Level) : Steady (senseLevel l v s) := by
  unfold senseLevel
  split
  · next hrun => exact settle_steady hrun
  · next hidle =>
    have h := hs.resetStands hidle
    refine .of_idle hidle { h with decoders := fun i => ?_ }
    simp only [State.modDecoder_decoders, updAt_get]
    split
    · rw [h.decoders]
      rfl
    · exact h.decoders i

theorem resetnReleased_steady {s : State} (hs : Steady s) : Steady (resetnReleased s) := hs.write none s.choices s.pending

theorem endPulse_steady {s : State} (hs : Steady s) (micros : Nat) : Steady (endPulse micros s) := by
  unfold endPulse
  split
  · exact resetnReleased_steady hs
  · split
    · exact event_steady (resetnReleased_steady hs) fun u => (Owned.clearFaults _ _ _ u).phase
    · exact (fullReset_resetTo _ _).steady nofun

/-! ## What a command answers -/

/-- A command's outcome, steady where it is a state. -/
def EndsSteady : Host.Outcome State Fault Refusal → Prop
  | .next t => Steady t
  | .fault _ => True
  | .refused _ => True

variable {s : State}

theorem execUnknownRequest_steady (hs : Steady s) (l : Link) (tag kind : Byte) :
    EndsSteady (execUnknownRequest l tag kind s) := by
  unfold execUnknownRequest
  split
  · trivial
  · exact arrive_steady hs l tag kind fun u => Served.refuse .unknownRequest u nofun

theorem execDeviceResetBegins_steady (hs : Steady s) : EndsSteady (execDeviceResetBegins s) := by
  unfold execDeviceResetBegins
  split
  · exact hs
  · split
    · exact completeLink_steady hs _
    · exact hs

theorem execSensedLevelChange_steady (hs : Steady s) (l : Line) (v : Level) : EndsSteady (execSensedLevelChange l v s) := by
  unfold execSensedLevelChange
  split
  · trivial
  · split
    · exact hs
    · exact senseLevel_steady hs l v

theorem execPowerOnReset_steady (s : State) : EndsSteady (execPowerOnReset s) :=
  ((fullReset_resetTo (.startUp Config.startUpUnits .powerOn) s).steady nofun).write (s.resetn.map fun _ => 0) s.choices
    s.pending

theorem execResetnLow_steady (hs : Steady s) : EndsSteady (execResetnLow s) := by
  unfold execResetnLow
  split
  · exact hs.write (some 0) s.choices s.pending
  · exact hs

theorem execLongResetnPulse_steady (hs : Steady s) : EndsSteady (execLongResetnPulse s) := by
  unfold execLongResetnPulse
  split
  · exact (fullReset_resetTo .held s).steady nofun
  · exact hs

theorem execResetnHigh_steady (hs : Steady s) (micros : Nat) : EndsSteady (execResetnHigh micros s) := by
  unfold execResetnHigh
  split
  · exact hs
  · split
    · next hheld => exact .of_idle nofun { hs.resetStands (by rw [hheld]; nofun) with }
    · exact endPulse_steady hs _

theorem execStartUpEnd_steady (hs : Steady s) : EndsSteady (execStartUpEnd s) := by
  unfold execStartUpEnd
  split
  · exact settle_steady rfl
  · exact hs
  · exact hs

/-- The phase after an operation that acts only while it is due. -/
theorem ite_phase (due : State → Bool) {f : State → State} (hf : ∀ u, (f u).phase = u.phase) (u : State) :
    (if due u then f u else u).phase = u.phase := by
  split
  · exact hf u
  · rfl

/-- Every command: a request by its owner, an event by what it leaves of the phase, a reset by what it clears. -/
theorem exec_steady (hs : Steady s) : ∀ c : Instr, EndsSteady (exec c s)
  | .stageHeat l tag b => arrive_steady hs l tag 0x01 (Served.stageHeat l b)
  | .withdrawHeat l tag e h => arrive_steady hs l tag 0x02 (Served.withdrawHeat l ⟨e, h⟩)
  | .listQueue l tag => arrive_steady hs l tag 0x03 fun u => Served.read _ u
  | .advance l tag => arrive_steady hs l tag 0x04 (Served.advance l)
  | .abandon l tag => arrive_steady hs l tag 0x05 (Served.abandon l)
  | .startRace l tag => arrive_steady hs l tag 0x06 (Served.startRace l)
  | .readRace l tag part => arrive_steady hs l tag 0x07 (Served.readRace part)
  | .scratchLane l tag b => arrive_steady hs l tag 0x08 (Served.scratchLane l b)
  | .assignEntrant l tag b is => arrive_steady hs l tag 0x09 (Served.assignEntrant b is)
  | .setLaneTiming l tag b t => arrive_steady hs l tag 0x0A (Served.setLaneTiming b t)
  | .promoteTouch l tag b k => arrive_steady hs l tag 0x0B (Served.promoteTouch l b k)
  | .declareNoFinish l tag b => arrive_steady hs l tag 0x0C (Served.declareNoFinish l b)
  | .enterFinish l tag b t => arrive_steady hs l tag 0x0D (Served.enterFinish l b t)
  | .adjustFinish l tag b t => arrive_steady hs l tag 0x0E (Served.adjustFinish l b t)
  | .readLane l tag b => arrive_steady hs l tag 0x0F (Served.readLane b)
  | .readSplits l tag b f => arrive_steady hs l tag 0x10 (Served.readSplits b f)
  | .holdLane l tag b => arrive_steady hs l tag 0x11 (Served.holdLane l b)
  | .unholdLane l tag b => arrive_steady hs l tag 0x12 (Served.unholdLane l b)
  | .clearSystemHold l tag b r => arrive_steady hs l tag 0x13 (Served.clearSystemHold l b r)
  | .releaseLane l tag b => arrive_steady hs l tag 0x14 (Served.releaseLane l b)
  | .disqualify l tag b c => arrive_steady hs l tag 0x15 (Served.disqualify l b c)
  | .reinstate l tag b => arrive_steady hs l tag 0x16 (Served.reinstate l b)
  | .setParameter l tag p v =>
    followedByOvertime_steady s (arrive_steady hs l tag 0x17 (Served.setParameter l p v))
  | .getParameter l tag p => arrive_steady hs l tag 0x18 (Served.getParameter p)
  | .setNoticeMask l tag k => arrive_steady hs l tag 0x19 (Served.setNoticeMask l k)
  | .readFaults l tag r => arrive_steady hs l tag 0x1A (Served.readFaults r)
  | .clearFaults l tag r => arrive_steady hs l tag 0x1B (Served.clearFaults l r)
  | .resetDevice l tag => arrive_steady hs l tag 0x1C (Served.resetDevice l)
  | .unknownRequest l tag kind => execUnknownRequest_steady hs l tag kind
  | .receivedByte l b => followedByOvertime_steady s (event_steady hs (receive_phase l b))
  | .gapExpiry l => event_steady hs (ite_phase (gapDue l) (discard_phase l .gap))
  | .linkTransmissionCompletes l => completeLink_steady hs l
  | .deviceResetBegins => execDeviceResetBegins_steady hs
  | .sensedLevelChange l v => execSensedLevelChange_steady hs l v
  | .candidateCompletes l => event_steady hs fun u => (Owned.completeLines [l] u).phase
  | .stuckTimerExpiry l => event_steady hs fun u => (Owned.expireLines [l] u).phase
  | .retryExpiry i => event_steady hs fun u => (Owned.expireRetries [i] u).phase
  | .collecttimeExpiry n => event_steady hs (ite_phase (collectDue n) fun u => (RaceOnly.resolveFinish n u).phase)
  | .overtimeExpiry => event_steady hs fun u => (RaceOnly.overtimeIfDue u).phase
  | .advanceTimerExpiry =>
    event_steady hs (ite_phase advanceDue fun u => (Owned.advanceRace .advanceTimer none (u.modHeat _)).phase)
  | .boardTransmissionCompletes => event_steady hs fun _ => rfl
  | .clockTimerExpiry => event_steady hs fun _ => rfl
  | .freezeTimerExpiry => event_steady hs fun _ => rfl
  | .idleTimerExpiry => event_steady hs fun _ => rfl
  | .powerOnReset => execPowerOnReset_steady s
  | .resetnLow => execResetnLow_steady hs
  | .longResetnPulse => execLongResetnPulse_steady hs
  | .resetnHigh micros => execResetnHigh_steady hs micros
  | .startUpEnd => execStartUpEnd_steady hs

/-! ## The passing of a unit -/

theorem Clu.tick_settled {c : Clu} (h : c.settled) : c.tick.settled := fun hq => h (Option.map_eq_none_iff.mp hq)

theorem tick_boardSettled {s : State} (h : boardSettled s) :
    boardSettled { s with deckTime := s.deckTime + 1, links := s.links.map Clu.tick, board := s.board.tick } :=
  fun hq => h (Option.map_eq_none_iff.mp hq)

theorem tickReset_steady (hs : Steady s) : Steady (tickReset s) := hs.write (s.resetn.map (· + 1)) s.choices s.pending

theorem tick_steady (hs : Steady s) : Steady (tick s) := by
  unfold tick
  split
  · next hrun =>
    obtain ⟨hlinks, hboard⟩ := hs.settled hrun
    exact tickReset_steady (.of_running hrun fun _ =>
      ⟨fun l => by simpa using Clu.tick_settled (hlinks l), tick_boardSettled hboard⟩)
  · next hstart => exact tickReset_steady (.of_idle nofun { hs.resetStands (by rw [hstart]; nofun) with })
  · exact tickReset_steady hs

/-- What falls due is taken from the state as it stands, but for the count of free choices (log 3). -/
theorem nextDue_steady (hs : Steady s) {c : Instr} {t : State} (h : nextDue s = some (c, t)) : Steady t := by
  unfold nextDue at h
  split at h
  · cases h
  · cases h
    exact hs
  · cases h
    exact hs.write s.resetn (s.choices + 1) s.pending

theorem step_steady (hs : Steady s) : EndsSteady (step s) := by
  unfold step
  split
  · exact exec_steady (hs.write s.resetn s.choices _) _
  · split
    · next hdue => exact exec_steady (nextDue_steady hs hdue) _
    · exact tick_steady hs

/-- Settles O58: every step keeps `Steady`, the command taken, the event that has fallen due, and the unit that passes. -/
theorem stepsSettleAndReset : Obligations.StepsSettleAndReset := by
  rintro s t ⟨hsettled, hstands⟩ ht
  have hstep := step_steady ⟨hsettled, hstands⟩
  rw [ht] at hstep
  exact ⟨hstep.settled, hstep.resetStands⟩

end Sys2Proof.Machine
end

section
/-! The board transmitter (R162, R163, R168): the end of a transmission, and the frame each rule of the arbiter sends. -/

namespace Sys2Proof.Machine

open Sys2Proof

/-! ## The frames built when sent (R165, R168) -/

theorem use_used_eq (l : Lane) : (l.use == .used) = (l.state != .vacant) := by
  unfold Lane.use
  by_cases hv : l.state = .vacant
  · rw [if_pos hv, hv]
    rfl
  · rw [if_neg hv, bne_iff_ne.mpr hv]
    rfl

theorem headerFrame_eq (h : Heat) :
    headerFrame h =
      ⟨h.definition.id, h.definition.lengths * h.definition.poolLength, h.definition.legs,
        (h.definition.segments.head?.map Segment.stroke).getD 0,
        allLanes.filter fun n => (h.lanes.get n).state != .vacant⟩ := by
  simp only [headerFrame, Heat.lanesWhere, use_used_eq, Definition.distance, allLanes]

theorem lastTimed_eq (p : Nat → Bool) (es : List SplitEntry) :
    lastTimed p es = ((es.filter fun e => e.time.isSome && p e.length).getLast?).bind SplitEntry.time := by
  rw [lastTimed, ← List.head?_filter, List.filter_reverse, List.head?_reverse]

/-- What the board shows of a lane, by lane state, DQ mark and outcome. -/
theorem laneShown_eq (d : Definition) (l : Lane) (k : Desk) :
    laneStatus l k = statusOnBoard l k.dq ∧ displayedTime d l k = timeOnBoard d l k.dq := by
  have hsplit : lastTimed (fun m => m % d.splitInterval == 0) l.splits = timeOnBoard.splitTime d l.splits :=
    lastTimed_eq _ l.splits
  unfold displayedTime laneStatus statusOnBoard timeOnBoard
  rw [hsplit]
  cases l.state with
  | vacant | ready => exact ⟨rfl, rfl⟩
  | swimming | collect => cases k.dq <;> exact ⟨rfl, rfl⟩
  | finished | released =>
    cases k.dq with
    | some code => exact ⟨rfl, rfl⟩
    | none => rcases l.result with _ | _ | _ <;> exact ⟨rfl, rfl⟩

theorem laneFrame_eq (h : Heat) (n : LaneNo) : .lane (laneFrame h n) = laneOnBoard h n := by
  obtain ⟨hstatus, htime⟩ := laneShown_eq h.definition (h.lanes.get n) (h.desks.get n)
  simp only [laneFrame, laneOnBoard, hstatus, htime, tagOfLeg]

/-! ## The end of a transmission (R162) -/

/-- An event of a running hub that works on the board alone. -/
theorem event_modBoard {s : State} {b : Board} (hrun : s.phase = .running) {f : State → Board → Board}
    (hboard : f s s.board = b) : event (fun u => u.modBoard (f u)) s = settle { s with board := b } := by
  rw [event_running hrun, State.modBoard, hboard]

theorem exec_boardTransmissionCompletes {s : State} {b : Board} (hrun : s.phase = .running) (hboard : s.board.complete = b) :
    exec .boardTransmissionCompletes s = .next (settle { s with board := b }) :=
  congrArg Host.Outcome.next (event_modBoard hrun (f := fun _ => Board.complete) hboard)

theorem Board.complete_sending {b : Board} {f : BoardFlight} (hf : b.flight = some f) :
    b.complete = { b with flight := none, lastKind := some f.frame.kind } := by
  rw [complete, hf]

theorem Board.complete_quiet {b : Board} (hf : b.flight = none) : b.complete = b := by
  rw [complete, hf]

/-! ## The frame sent (R163) -/

section

variable {s : State} {h : Heat}

theorem settle_board_event {i : EventItem} {is : List EventItem} (hf : s.board.flight = none)
    (he : s.board.events = i :: is) :
    (settle s).board = { s.board with events := is, flight := some ⟨.event i, (BoardFrame.event i).bytes.length * 750⟩ } :=
  Board.arbitrate_event hf he

variable (hf : s.board.flight = none) (he : s.board.events = [])

include hf he

theorem settle_board_header (hs : s.heat = some h) (hh : s.board.headerPending = true) :
    (settle s).board = Board.send (.header (headerFrame h)) { s.board with headerPending := false } := by
  rw [settle_board, Board.arbitrate_eventless hf he, hs, Board.headerOrClock_owed hh]

theorem settle_board_clock (hs : s.heat = some h) (hh : s.board.headerPending = false) (hc : s.board.clockGoes = true) :
    (settle s).board = Board.send (clockFrame h s.board.freeze s.deckTime) { s.board with clockDue := false } := by
  rw [settle_board, Board.arbitrate_eventless hf he, hs, Board.headerOrClock_clock hh hc]

theorem settle_board_lane {n : LaneNo} {ns : List LaneNo} (hs : s.heat = some h) (hh : s.board.headerPending = false)
    (hc : s.board.clockGoes = false) (hq : s.board.laneQueue = n :: ns) :
    (settle s).board = Board.send (laneOnBoard h n) { s.board with laneQueue := ns } := by
  rw [settle_board, Board.arbitrate_eventless hf he, hs, Board.headerOrClock_passed hh hc, Board.laneOrIdle_lane hq,
    laneFrame_eq]

theorem settle_board_raceWorkless
    (hw : s.heat = none ∨
      (s.board.headerPending = false ∧ s.board.clockDue = false ∧ s.board.laneQueue = [])) :
    (settle s).board =
      if s.board.idleDue then Board.send (.idle s.params.idlePattern) { s.board with idleDue := false } else s.board := by
  rw [settle_board, Board.arbitrate_eventless hf he]
  rcases hw with hs | ⟨hh, hd, hq⟩
  · rw [hs, Board.headerOrClock_raceless, Board.laneOrIdle_laneless (.inl rfl)]
  · cases s.heat with
    | none => exact Board.laneOrIdle_laneless (.inl rfl)
    | some h =>
      rw [Board.headerOrClock_passed hh (Board.clockGoes_eq_false_of_notDue hd), Board.laneOrIdle_laneless (.inr hq)]

end

/-- Settles O52: the completion hands over to `settle`; a QUIET line sends by the first rule of R163 that applies. -/
theorem boardTransmitter : Obligations.BoardTransmitter := by
  refine fun s => ⟨fun f hrun hf => ?_, fun hrun hf => ?_, fun f hf => Board.arbitrate_sending hf, fun hf =>
    ⟨fun i is he => settle_board_event hf he, fun he => ⟨fun h f hs hh hframe => ?_, fun h f hs hh hd hk hframe => ?_,
      fun h n ns hs hh hk hq => ?_, fun hw => ⟨fun hi => ?_, fun hi => ?_⟩⟩⟩⟩
  · exact exec_boardTransmissionCompletes hrun (Board.complete_sending hf)
  · exact exec_boardTransmissionCompletes hrun (Board.complete_quiet hf)
  · rw [hframe, settle_board_header hf he hs hh, headerFrame_eq]
    rfl
  · have hclock : f = clockFrame h s.board.freeze s.deckTime := by
      rw [hframe]
      cases s.board.freeze <;> rfl
    rw [hclock, settle_board_clock hf he hs hh (Board.clockGoes_eq_true hd hk)]
    rfl
  · rw [settle_board_lane hf he hs hh (Board.clockGoes_eq_false_of_waiting hk hq) hq]
    rfl
  · rw [settle_board_raceWorkless hf he hw, if_pos hi]
    rfl
  · rw [settle_board_raceWorkless hf he hw, if_neg (Bool.eq_false_iff.mp hi)]

end Sys2Proof.Machine
end

section
/-! The board's clock, freeze and idle timers (R169, R170, R171). -/

namespace Sys2Proof.Machine

open Sys2Proof

/-! ## A timer run out, running or stopped -/

theorem timerDue_of_le {o : Option Timer} {t : Timer} {now : DeckTime} (ho : o = some t)
    (h : t.limit ≤ elapsed t.start now) : timerDue o now = true := by
  rw [ho]
  exact decide_eq_true h

theorem timerDue_of_lt {o : Option Timer} {t : Timer} {now : DeckTime} (ho : o = some t)
    (h : elapsed t.start now < t.limit) : timerDue o now = false := by
  rw [ho]
  exact decide_eq_false (Nat.not_le.mpr h)

theorem timerDue_of_stopped {o : Option Timer} {now : DeckTime} (ho : o = none) : timerDue o now = false := by
  rw [ho]
  rfl

/-! ## The three expiries -/

section

variable {s : State} {b : Board} {p : Params} {now : DeckTime}

theorem Board.clockExpires_due (h : timerDue b.clockTimer now = true) :
    b.clockExpires p now = { b with clockDue := true, clockTimer := some ⟨now, p.clockInterval⟩ } := if_pos h

theorem Board.clockExpires_early (h : timerDue b.clockTimer now = false) : b.clockExpires p now = b :=
  if_neg (Bool.eq_false_iff.mp h)

theorem Board.freezeExpires_due (h : timerDue (b.freeze.map Freeze.timer) now = true) :
    b.freezeExpires now = { b with freeze := none, clockDue := true } := if_pos h

theorem Board.freezeExpires_early (h : timerDue (b.freeze.map Freeze.timer) now = false) : b.freezeExpires now = b :=
  if_neg (Bool.eq_false_iff.mp h)

theorem Board.idleExpires_due (h : timerDue b.idleTimer now = true) :
    b.idleExpires p now = { b with idleDue := true, idleTimer := some ⟨now, p.idleInterval⟩ } := if_pos h

theorem Board.idleExpires_early (h : timerDue b.idleTimer now = false) : b.idleExpires p now = b :=
  if_neg (Bool.eq_false_iff.mp h)

variable (hrun : s.phase = .running)

include hrun

theorem exec_clockTimerExpiry (hboard : s.board.clockExpires s.params s.deckTime = b) :
    exec .clockTimerExpiry s = .next (settle { s with board := b }) :=
  congrArg Host.Outcome.next (event_modBoard hrun (f := fun u => Board.clockExpires u.params u.deckTime) hboard)

theorem exec_freezeTimerExpiry (hboard : s.board.freezeExpires s.deckTime = b) :
    exec .freezeTimerExpiry s = .next (settle { s with board := b }) :=
  congrArg Host.Outcome.next (event_modBoard hrun (f := fun u => Board.freezeExpires u.deckTime) hboard)

theorem exec_idleTimerExpiry (hboard : s.board.idleExpires s.params s.deckTime = b) :
    exec .idleTimerExpiry s = .next (settle { s with board := b }) :=
  congrArg Host.Outcome.next (event_modBoard hrun (f := fun u => Board.idleExpires u.params u.deckTime) hboard)

end

/-- The timer of a running freeze. -/
theorem Board.freezeTimer_eq {b : Board} {z : Freeze} (hz : b.freeze = some z) :
    b.freeze.map Freeze.timer = some z.timer := by
  rw [hz]
  rfl

/-- Settles O53: each expiry by whether its timer is due, still runs, or is stopped. -/
theorem boardTimers : Obligations.BoardTimers := by
  refine fun s hrun => ⟨fun t ht => ⟨fun hle => ?_, fun hlt => ?_⟩, fun z hz => ⟨fun hle => ?_, fun hlt => ?_⟩,
    fun t ht => ⟨fun hle => ?_, fun hlt => ?_⟩, fun hstopped => ?_, fun hstopped => ?_, fun hstopped => ?_⟩
  · exact exec_clockTimerExpiry hrun (Board.clockExpires_due (timerDue_of_le ht hle))
  · exact exec_clockTimerExpiry hrun (Board.clockExpires_early (timerDue_of_lt ht hlt))
  · exact exec_freezeTimerExpiry hrun (Board.freezeExpires_due (timerDue_of_le (Board.freezeTimer_eq hz) hle))
  · exact exec_freezeTimerExpiry hrun (Board.freezeExpires_early (timerDue_of_lt (Board.freezeTimer_eq hz) hlt))
  · exact exec_idleTimerExpiry hrun (Board.idleExpires_due (timerDue_of_le ht hle))
  · exact exec_idleTimerExpiry hrun (Board.idleExpires_early (timerDue_of_lt ht hlt))
  · exact exec_clockTimerExpiry hrun (Board.clockExpires_early (timerDue_of_stopped hstopped))
  · exact exec_freezeTimerExpiry hrun
      (Board.freezeExpires_early (timerDue_of_stopped (Option.map_eq_none_iff.mpr hstopped)))
  · exact exec_idleTimerExpiry hrun (Board.idleExpires_early (timerDue_of_stopped hstopped))

end Sys2Proof.Machine
end

section
/-! Every request as one family: the owner's reply of each, the arrival that a request's command is, and the refusals that reach no
owner. -/

namespace Sys2Proof.Machine

open Sys2Proof

/-! ## The owner's reply -/

/-- The reply of a request's owner to the body that its command carries; the commands that are no request have none. -/
def ownerReply : Instr → State → Reply
  | .stageHeat l _ body => performStageHeat l body
  | .withdrawHeat l _ event heat => performWithdrawHeat l ⟨event, heat⟩
  | .listQueue _ _ => performListQueue
  | .advance l _ => performAdvance l
  | .abandon l _ => performAbandon l
  | .startRace l _ => performStartRace l
  | .readRace _ _ part => performReadRace part
  | .setParameter l _ param value => performSetParameter l param value
  | .getParameter _ _ param => performGetParameter param
  | .setNoticeMask l _ kinds => performSetNoticeMask l kinds
  | .readFaults _ _ record => performReadFaults record
  | .clearFaults l _ record => performClearFaults l record
  | .resetDevice l _ => performResetDevice l
  | .unknownRequest _ _ _ => refuse .unknownRequest
  | c => lanePerform c

theorem ownerReply_lane {c : Instr} {b : Byte} (hb : laneOf c = some b) : ownerReply c = lanePerform c := by
  cases c <;> cases hb <;> rfl

theorem lanePerform_served {c : Instr} (s : State) : Served s (lanePerform c s) := by
  cases c with
  | scratchLane l _ b => exact Served.scratchLane l b s
  | assignEntrant _ _ b items => exact Served.assignEntrant b items s
  | setLaneTiming _ _ b timing => exact Served.setLaneTiming b timing s
  | promoteTouch l _ b number => exact Served.promoteTouch l b number s
  | declareNoFinish l _ b => exact Served.declareNoFinish l b s
  | enterFinish l _ b time => exact Served.enterFinish l b time s
  | adjustFinish l _ b time => exact Served.adjustFinish l b time s
  | readLane _ _ b => exact Served.readLane b s
  | readSplits _ _ b first => exact Served.readSplits b first s
  | holdLane l _ b => exact Served.holdLane l b s
  | unholdLane l _ b => exact Served.unholdLane l b s
  | clearSystemHold l _ b reasons => exact Served.clearSystemHold l b reasons s
  | releaseLane l _ b => exact Served.releaseLane l b s
  | disqualify l _ b code => exact Served.disqualify l b code s
  | reinstate l _ b => exact Served.reinstate l b s
  | _ => exact Served.malformed s

theorem ownerReply_served (c : Instr) (s : State) : Served s (ownerReply c s) := by
  match hb : laneOf c with
  | some b =>
    rw [ownerReply_lane hb]
    exact lanePerform_served s
  | none =>
    cases c <;> cases hb
    case stageHeat l _ body => exact Served.stageHeat l body s
    case withdrawHeat l _ event heat => exact Served.withdrawHeat l ⟨event, heat⟩ s
    case listQueue => exact Served.read _ s
    case advance l _ => exact Served.advance l s
    case abandon l _ => exact Served.abandon l s
    case startRace l _ => exact Served.startRace l s
    case readRace part => exact Served.readRace part s
    case setParameter l _ param value => exact Served.setParameter l param value s
    case getParameter param => exact Served.getParameter param s
    case setNoticeMask l _ kinds => exact Served.setNoticeMask l kinds s
    case readFaults record => exact Served.readFaults record s
    case clearFaults l _ record => exact Served.clearFaults l record s
    case resetDevice l _ => exact Served.resetDevice l s
    case unknownRequest => exact Served.refuse .unknownRequest s nofun
    all_goals exact Served.malformed s

/-! ## The command -/

/-- Not the model's own stop (log 24): an UNKNOWN_REQUEST whose KIND names no request. -/
def NamesNoKnownKind (c : Instr) : Prop := ∀ l t k, c = .unknownRequest l t k → requestKinds.contains k = false

variable {c : Instr} {l : Link} {tag kind : Byte} {s : State}

/-- A request's command is the arrival of its owner's reply; behind SET PARAMETER overtime may follow (R34). -/
theorem exec_request (hc : requestOf c = some (l, tag, kind)) (hk : NamesNoKnownKind c) (s : State) :
    exec c s = .next (arrive l tag kind (ownerReply c) s) ∨
      exec c s = .next (followedByOvertime s (arrive l tag kind (ownerReply c) s)) := by
  cases c <;> cases hc
  case setParameter => exact .inr rfl
  case unknownRequest =>
    refine .inl ?_
    change execUnknownRequest l tag kind s = _
    rw [execUnknownRequest, hk l tag kind rfl]
    rfl
  all_goals exact .inl rfl

theorem followedByOvertime_same {t : State} (h : t.params = s.params) : followedByOvertime s t = t := by
  rw [followedByOvertime, h, if_neg (not_not_intro rfl)]

/-- An arrival that leaves the parameters is the whole command. -/
theorem exec_request_of_arrive {t : State} (hc : requestOf c = some (l, tag, kind)) (hk : NamesNoKnownKind c)
    (ht : arrive l tag kind (ownerReply c) s = t) (hp : t.params = s.params) : exec c s = .next t := by
  rcases exec_request hc hk s with h | h
  · rw [h, ht]
  · rw [h, ht, followedByOvertime_same hp]

/-- A request taken that its owner answers without touching the state. -/
theorem exec_request_of_unchanged {r : Result} {data : List Byte} (hc : requestOf c = some (l, tag, kind))
    (hk : NamesNoKnownKind c) (htakes : Takes l s) (hr : ownerReply c (counted l s) = ⟨counted l s, r, data⟩) :
    exec c s = .next (answered l tag kind r data (counted l s)) :=
  exec_request_of_arrive hc hk (arrive_of_reply htakes hr) rfl

end Sys2Proof.Machine
end

section
/-! Arrivals that are refused (R178, R179): BUSY under a pending reset or behind four requests, MALFORMED, UNKNOWN_REQUEST. -/

namespace Sys2Proof.Machine

open Sys2Proof

/-! ## BUSY (R178) -/

theorem refuseBusy_room {l : Link} {s : State} (tag kind : Byte) (h : busyCount (s.links.get l).answers < 4) :
    refuseBusy l tag kind s = s.modLink l fun u => { u with answers := u.answers ++ [⟨tag, kind, .busy, []⟩] } := if_pos h

theorem refuseBusy_full {l : Link} {s : State} (tag kind : Byte) (h : 4 ≤ busyCount (s.links.get l).answers) :
    refuseBusy l tag kind s = s := if_neg (Nat.not_lt.mpr h)

theorem refusesArrival_of {l : Link} {s : State} (h : s.resetPending ≠ none ∨ 4 ≤ (s.links.get l).unanswered) :
    s.refusesArrival l = true := by
  rcases h with h | h
  · simp [State.refusesArrival, Option.isSome_iff_ne_none.mpr h]
  · simp [State.refusesArrival, h]

/-- Settles O10: the refusal comes before the owner, so what the request asks does not matter. -/
theorem arrivalsRefusedBusy : Obligations.ArrivalsRefusedBusy := by
  intro c l tag kind s hc hk hrun hrefused
  have harrive : arrive l tag kind (ownerReply c) s = settle (refuseBusy l tag kind s) :=
    arrive_refused hrun (refusesArrival_of hrefused) tag kind (ownerReply c)
  refine ⟨fun hroom => ?_, fun hfull => ?_⟩
  · exact exec_request_of_arrive hc hk (harrive.trans (congrArg settle (refuseBusy_room tag kind hroom))) rfl
  · exact exec_request_of_arrive hc hk (harrive.trans (congrArg settle (refuseBusy_full tag kind hfull))) rfl

/-! ## MALFORMED and UNKNOWN_REQUEST (R179) -/

/-- A lane request that is not well formed names no lane or breaks its own body. -/
theorem lanePerform_malformed {c : Instr} {b : Byte} (hb : laneOf c = some b) (hw : c.wellFormed = false) (s : State) :
    lanePerform c s = malformed s := by
  match hn : laneOfByte b with
  | none =>
    rcases laneRequest_runsChecks hb with ⟨-, hmal⟩ | ⟨own, hown⟩
    · exact hmal s
    · rw [hown, laneRequest_outside hn]
  | some n =>
    cases c <;> cases hb <;> simp [Instr.wellFormed, hn] at hw
    case setLaneTiming => simp only [lanePerform, performSetLaneTiming, hw]
    case promoteTouch => exact if_pos hw
    case clearSystemHold => simp only [lanePerform, performClearSystemHold, hw]
    case readSplits first =>
      have hout : outside 1 64 first.toNat = true := by
        simp only [outside, Bool.or_eq_true, decide_eq_true_eq]
        omega
      simp only [lanePerform, performReadSplits, if_pos hout]

/-- A body that no check of the CLU lets through is answered MALFORMED, whatever the state. -/
theorem ownerReply_malformed {c : Instr} {l : Link} {tag kind : Byte} (hc : requestOf c = some (l, tag, kind))
    (hknown : ∀ k t m, c ≠ .unknownRequest k t m) (hw : c.wellFormed = false) (s : State) :
    ownerReply c s = malformed s := by
  match hb : laneOf c with
  | some b => rw [ownerReply_lane hb, lanePerform_malformed hb hw]
  | none =>
    cases c <;> cases hc <;> cases hb <;> simp [Instr.wellFormed] at hw
    case stageHeat => simp only [ownerReply, performStageHeat, hw]
    case readRace part =>
      have hpart : part ≠ 0 ∧ part ≠ 1 := ⟨fun h => by simp [h] at hw, fun h => by simp [h] at hw⟩
      simp only [ownerReply, performReadRace, hpart, if_false]
    case setParameter param value =>
      unfold ownerReply performSetParameter
      split at hw <;> simp_all
    case getParameter => simp only [ownerReply, performGetParameter, hw]
    case setNoticeMask => simp only [ownerReply, performSetNoticeMask, hw]
    case readFaults => simp only [ownerReply, performReadFaults, hw]
    case clearFaults => simp only [ownerReply, performClearFaults, hw]
    case unknownRequest => exact absurd rfl (hknown _ _ _)

/-- Settles O11: both refusals are the owner's reply on the state as it was counted. -/
theorem malformedAndUnknownRequests : Obligations.MalformedAndUnknownRequests := by
  refine ⟨fun c l tag kind s hc htakes hknown hw => ?_, fun l tag kind s htakes hk => ?_, fun l tag kind s hk => ?_⟩
  · exact exec_request_of_unchanged hc (fun k t m h => absurd h (hknown k t m)) htakes (ownerReply_malformed hc hknown hw _)
  · refine exec_request_of_unchanged rfl (fun k t m h => ?_) htakes rfl
    cases h
    simpa using hk
  · change execUnknownRequest l tag kind s = _
    rw [execUnknownRequest, if_pos (by simpa using hk)]

end Sys2Proof.Machine
end

section
/-! What supervision leaves alone: a report writes records, decoders and notices, and nothing else of the hub. -/

namespace Sys2Proof.Machine

open Sys2Proof

/-- Nothing but decoders, the inputs' fault records and the links has changed. -/
def RecordsOnly (s t : State) : Prop := t = { s with decoders := t.decoders, faults := t.faults, links := t.links }

namespace RecordsOnly

variable {s t u : State}

theorem refl (s : State) : RecordsOnly s s := rfl

theorem trans (st : RecordsOnly s t) (tu : RecordsOnly t u) : RecordsOnly s u :=
  Eq.trans tu (congrArg (fun v : State => { v with decoders := u.decoders, faults := u.faults, links := u.links }) st)

theorem foldl {α : Type} {f : State → α → State} (hf : ∀ s a, RecordsOnly s (f s a)) (as : List α) (s : State) :
    RecordsOnly s (as.foldl f s) := by
  induction as generalizing s with
  | nil => exact refl s
  | cons a as ih => exact (hf s a).trans (ih (f s a))

theorem heat (h : RecordsOnly s t) : t.heat = s.heat := by rw [h]

theorem params (h : RecordsOnly s t) : t.params = s.params := by rw [h]

theorem deckTime (h : RecordsOnly s t) : t.deckTime = s.deckTime := by rw [h]

theorem writeFault (i : Fin 71) (c : FaultClass) (k : FaultCause) (l : Option Link) (q : FaultRecord) (s : State) :
    RecordsOnly s (Machine.writeFault i c k l q s) := by
  unfold Machine.writeFault
  dsimp only
  split <;> rfl

theorem reportFault (i : Fin 71) (c : Condition) (k : FaultCause) (f : FaultRecord → FaultRecord) (s : State) :
    RecordsOnly s (Machine.reportFault i c k f s) := writeFault i _ k none _ s

theorem reportLine (i : Fin 71) (old new : Condition) (s : State) : RecordsOnly s (Machine.reportLine i old new s) := by
  unfold Machine.reportLine
  split
  · exact refl s
  · split
    · exact reportFault i _ _ _ s
    · split <;> exact reportFault i _ _ _ s

theorem superviseChange (i : Fin 71) (old new : Decoder) (s : State) :
    RecordsOnly s (Machine.superviseChange i old new s) := by
  refine trans ?_ (reportLine i _ _ _)
  split
  · exact reportFault i _ _ _ s
  · exact refl s

theorem countLine (s : State) (l : Line) : RecordsOnly s (Machine.countLine s l) := by
  unfold Machine.countLine
  dsimp only
  split
  · exact refl s
  · split
    · rfl
    · exact trans (t := s.modDecoder l _) rfl (superviseChange _ _ _ _)

theorem reportStuck (s : State) (l : Line) : RecordsOnly s (Machine.reportStuck s l) := by
  unfold Machine.reportStuck
  split
  · exact refl s
  · exact trans (t := s.modDecoder l _) rfl (reportFault _ _ _ _ _)

end RecordsOnly

/-- Records written, then the race: what supervision does in one event (R160). -/
def Supervises (s t : State) : Prop := ∃ u, RecordsOnly s u ∧ RaceOnly u t

namespace Supervises

variable {s t : State}

theorem of_raceOnly (h : RaceOnly s t) : Supervises s t := ⟨s, .refl s, h⟩

theorem refl (s : State) : Supervises s s := of_raceOnly (.refl s)

theorem queue (h : Supervises s t) : t.queue = s.queue := by
  obtain ⟨u, hsu, hut⟩ := h
  rw [hut.queue, hsu]

theorem currentId (h : Supervises s t) : t.currentId = s.currentId := by
  obtain ⟨u, hsu, hut⟩ := h
  rw [hut.currentId, State.currentId, hsu.heat]
  rfl

theorem params (h : Supervises s t) : t.params = s.params := by
  obtain ⟨u, hsu, hut⟩ := h
  rw [hut.params, hsu]

theorem linkFaults (h : Supervises s t) : t.linkFaults = s.linkFaults := by
  obtain ⟨u, hsu, hut⟩ := h
  rw [hut.linkFaults, hsu]

theorem resetPending (h : Supervises s t) : t.resetPending = s.resetPending := by
  obtain ⟨u, hsu, hut⟩ := h
  rw [hut.resetPending, hsu]

theorem moveFaults (is : List (Fin 71)) (f : Fin 71 → FaultRecord → FaultRecord) (c : Fin 71 → FaultRecord → FaultClass)
    (k : FaultCause) (l : Option Link) (s : State) : Supervises s (Machine.moveFaults is f c k l s) :=
  ⟨_, .foldl (fun t i => .writeFault i _ k l _ t) is s, .handServices s s is _⟩

theorem completeLines (ls : List Line) (s : State) : Supervises s (Machine.completeLines ls s) := by
  refine ⟨_, .foldl RecordsOnly.countLine (ls.filter fun l => (s.decoder l).candidateDue s.params l s.deckTime) s, ?_⟩
  refine .trans ?_ (.handServices s _ _ _)
  split
  · exact .handTogether s _ _
  · exact .handEvents s _ _

theorem expireLines (ls : List Line) (s : State) : Supervises s (Machine.expireLines ls s) :=
  ⟨_, .foldl RecordsOnly.reportStuck _ s, .handServices s _ _ _⟩

theorem autoAdvanceWritten (s : State) : Supervises s (Machine.autoAdvanceWritten s) := by
  unfold Machine.autoAdvanceWritten
  split
  · split
    · exact refl s
    · split
      · exact of_raceOnly (.startAdvance s)
      · exact refl s
  · exact of_raceOnly (.modHeat s _ fun _ => rfl)

/-- The owners of a new value (R184, step 3). -/
theorem parameterWritten (p : ParamId) (s : State) : Supervises s (Machine.parameterWritten p s) := by
  unfold Machine.parameterWritten
  split
  iterate 5 exact completeLines _ s
  · exact expireLines _ s
  iterate 2 exact moveFaults _ _ _ _ _ s
  · exact autoAdvanceWritten s
  · split
    · exact moveFaults _ _ _ _ _ s
    · exact refl s

end Supervises

end Sys2Proof.Machine
end

section
/-! The bounds of the links' and the board's queues through one event (R164, R166, R178, R182). -/

namespace Sys2Proof.Machine

open Sys2Proof

/-! ## One link (R178, R182) -/

namespace Clu

variable {c d : Clu}

theorem takenCount_append (as : List Answer) (a : Answer) :
    takenCount (as ++ [a]) = takenCount as + if a.result ≠ .busy then 1 else 0 := by
  simp [takenCount, List.countP_singleton]

theorem busyCount_append (as : List Answer) (a : Answer) :
    busyCount (as ++ [a]) = busyCount as + if a.result = .busy then 1 else 0 := by
  simp [busyCount, List.countP_singleton]

/-- An answer in flight counts while it is one to a taken request. -/
theorem answering_answer {a : Answer} {left : Nat} (hf : c.flight = some ⟨.answer a, left⟩) :
    c.answering = if a.result ≠ .busy then 1 else 0 := by
  simp [answering, hf, LinkFrame.answersTaken]

theorem answering_notice {q : QueuedNotice} {left : Nat} (hf : c.flight = some ⟨.notice q, left⟩) : c.answering = 0 := by
  simp [answering, hf, LinkFrame.answersTaken]

theorem answering_quiet (hf : c.flight = none) : c.answering = 0 := by
  simp [answering, hf]

theorem reset_fits (m : List NoticeKind) : (Clu.reset m).fits :=
  ⟨rfl, Nat.zero_le 4, Nat.zero_le 4, Nat.zero_le 32⟩

/-- A link whose answer side an event left keeps its bounds. -/
theorem fits_of_kept (h : Kept c d) (hc : c.fits) : d.fits := by
  obtain ⟨hcount, htaken, hbusy, hnotices⟩ := hc
  refine ⟨?_, h.unanswered ▸ htaken, h.answers ▸ hbusy, h.bound hnotices⟩
  rw [h.unanswered, hcount, h.answers, answering, answering, h.flight]

/-- A BUSY refusal joins while fewer than four wait. -/
theorem fits_busy {a : Answer} (hc : c.fits) (hroom : busyCount c.answers < 4) (ha : a.result = .busy) :
    ({ c with answers := c.answers ++ [a] } : Clu).fits := by
  obtain ⟨hcount, htaken, -, hnotices⟩ := hc
  refine ⟨?_, htaken, ?_, hnotices⟩
  · simpa [takenCount_append, ha, answering] using hcount
  · simp only [busyCount_append, ha, if_true]
    omega

/-- A request counted behind fewer than four, its owner's work and its answer. -/
theorem fits_taken {a : Answer} (hc : c.fits) (hroom : c.unanswered < 4) (ha : a.result ≠ .busy)
    (h : Kept { c with unanswered := c.unanswered + 1 } d) : ({ d with answers := d.answers ++ [a] } : Clu).fits := by
  obtain ⟨hcount, -, hbusy, hnotices⟩ := hc
  have hanswering : ({ d with answers := d.answers ++ [a] } : Clu).answering = c.answering := by
    simp only [answering, h.flight]
  refine ⟨?_, ?_, ?_, h.bound hnotices⟩
  · rw [hanswering]
    simp only [h.unanswered, h.answers, takenCount_append, ha, ne_eq, not_false_eq_true, if_true]
    omega
  · simp only [h.unanswered]
    omega
  · simpa only [h.answers, busyCount_append, ha, if_false, Nat.add_zero] using hbusy

theorem complete_fits (hc : c.fits) : c.complete.fits := by
  obtain ⟨hcount, htaken, hbusy, hnotices⟩ := hc
  unfold complete
  split
  · exact ⟨hcount, htaken, hbusy, hnotices⟩
  · next f hf =>
    refine ⟨?_, ?_, hbusy, hnotices⟩
    · rw [answering_quiet rfl]
      simp only [answering, hf, Option.any_some] at hcount
      by_cases ha : f.frame.answersTaken = true <;> simp only [ha, if_true, if_false, Bool.false_eq_true] at hcount ⊢ <;> omega
    · dsimp only
      split <;> omega

theorem arbitrate_fits (hc : c.fits) : c.arbitrate.fits := by
  obtain ⟨hcount, htaken, hbusy, hnotices⟩ := hc
  unfold arbitrate
  split
  · exact ⟨hcount, htaken, hbusy, hnotices⟩
  · next a as hf ha =>
    rw [ha] at hcount hbusy
    rw [answering_quiet hf] at hcount
    refine ⟨?_, htaken, le_trans ?_ hbusy, hnotices⟩
    · rw [answering_answer rfl]
      simpa [send, takenCount, List.countP_cons] using hcount
    · exact (List.sublist_cons_self a as).countP_le
  · next q qs hf ha hn =>
    refine ⟨?_, htaken, hbusy, ?_⟩
    · rw [answering_notice rfl]
      rwa [answering_quiet hf] at hcount
    · rw [hn, List.length_cons] at hnotices
      exact Nat.le_of_succ_le hnotices
  · exact ⟨hcount, htaken, hbusy, hnotices⟩

theorem tick_fits (hc : c.fits) : c.tick.fits := by
  obtain ⟨hcount, hrest⟩ := hc
  refine ⟨?_, hrest⟩
  have hanswering : c.tick.answering = c.answering := by
    cases hf : c.flight <;> simp [answering, tick, hf]
  rw [hanswering]
  exact hcount

end Clu

/-! ## The board (R164, R166) -/

/-- The arbiter takes work from the board's queues and adds none. -/
def Board.Drained (b c : Board) : Prop := c.events.length ≤ b.events.length ∧ c.laneQueue.Sublist b.laneQueue

namespace Board

variable (h : Option Heat) (p : Params) (now : DeckTime) (b : Board)

theorem laneOrIdle_drained : Drained b (b.laneOrIdle h p) := by
  unfold laneOrIdle
  split
  · next n ns hq => exact ⟨le_rfl, hq ▸ List.sublist_cons_self n ns⟩
  · split <;> exact ⟨le_rfl, .refl _⟩

theorem clockOrLane_drained : Drained b (b.clockOrLane h p now) := by
  unfold clockOrLane
  split
  · split
    · exact ⟨le_rfl, .refl _⟩
    · exact laneOrIdle_drained _ p b
  · exact laneOrIdle_drained _ p b

theorem headerOrClock_drained : Drained b (b.headerOrClock h p now) := by
  unfold headerOrClock
  split
  · split
    · exact ⟨le_rfl, .refl _⟩
    · exact clockOrLane_drained _ p now b
  · exact clockOrLane_drained _ p now b

theorem arbitrate_drained : Drained b (b.arbitrate h p now) := by
  unfold arbitrate
  split
  · exact ⟨le_rfl, .refl _⟩
  · next i is _ he => exact ⟨by rw [he]; exact Nat.le_succ _, .refl _⟩
  · exact headerOrClock_drained h p now b

end Board

end Sys2Proof.Machine
end

section
/-! The heat IDs queued and current through one event (R11): the owners of the queue move IDs or drop them, STAGE HEAT adds one that
is nowhere, and nobody else touches them. -/

namespace Sys2Proof.Machine

open Sys2Proof

variable {s t u : State}

/-! ## Operations that leave queue and current ID -/

/-- Queue and current race hold the same heat IDs. -/
structure SameIds (s t : State) : Prop where
  queue : t.queue = s.queue
  currentId : t.currentId = s.currentId

namespace SameIds

theorem refl (s : State) : SameIds s s := ⟨rfl, rfl⟩

theorem trans (st : SameIds s t) (tu : SameIds t u) : SameIds s u :=
  ⟨tu.queue.trans st.queue, tu.currentId.trans st.currentId⟩

/-- What follows a write of other fields. -/
theorem of_write (h : SameIds t u) (hq : t.queue = s.queue) (hh : t.heat = s.heat) : SameIds s u :=
  ⟨h.queue.trans hq, h.currentId.trans (by rw [State.currentId, hh]; rfl)⟩

theorem of_raceOnly (h : RaceOnly s t) : SameIds s t := ⟨h.queue, h.currentId⟩

theorem of_supervises (h : Supervises s t) : SameIds s t := ⟨h.queue, h.currentId⟩

theorem of_laneOnly {n : LaneNo} (h : LaneOnly n s t) : SameIds s t := of_raceOnly h.only

theorem fits (h : SameIds s t) (hs : QueueFits s) : QueueFits t := by
  rwa [QueueFits, State.heatIds, h.queue, h.currentId]

theorem clearLink (l : Option Link) (s : State) (k : Link) : SameIds s (Machine.clearLink l s k) := by
  unfold Machine.clearLink
  dsimp only
  split <;> exact ⟨rfl, rfl⟩

theorem foldl {α : Type} {f : State → α → State} (hf : ∀ s a, SameIds s (f s a)) (as : List α) (s : State) :
    SameIds s (as.foldl f s) := by
  induction as generalizing s with
  | nil => exact refl s
  | cons a as ih => exact (hf s a).trans (ih (f s a))

theorem clearFaults (is : List (Fin 71)) (ls : List Link) (l : Option Link) (s : State) :
    SameIds s (Machine.clearFaults is ls l s) :=
  (of_supervises (.moveFaults is _ _ _ l s)).trans (foldl (clearLink l) ls _)

theorem reportDiscard (l : Link) (d : Discard) (s : State) : SameIds s (Machine.reportDiscard l d s) := by
  unfold Machine.reportDiscard
  split <;> exact ⟨rfl, rfl⟩

theorem writeParameter (l : Link) (p : ParamId) (v : Int) (s : State) : SameIds s (Machine.writeParameter l p v s) := by
  unfold Machine.writeParameter
  dsimp only
  split
  · exact ⟨rfl, rfl⟩
  · exact (of_supervises (.parameterWritten p _)).of_write rfl rfl

end SameIds

/-! ## The owners of the queue (R12, R13, R23, R37) -/

/-- A queue no longer, its IDs and the current one among those before, keeps the bounds. -/
theorem QueueFits.of_sublist (hs : QueueFits s) (hlen : t.queue.length ≤ s.queue.length)
    (hids : t.heatIds.Sublist s.heatIds) : QueueFits t := by
  obtain ⟨hfour, hnodup⟩ := hs
  exact ⟨hlen.trans hfour, hnodup.sublist hids⟩

theorem load_fits (l : Option Link) (hs : QueueFits s) : QueueFits (load l s) := by
  cases hq : s.queue with
  | nil =>
    rw [load, hq]
    exact hs
  | cons e rest =>
    have hload := load_loaded l hq
    obtain ⟨g, hg, hdef, -⟩ := hload.race
    refine hs.of_sublist ?_ ?_
    · rw [hload.queue, hq]
      exact Nat.le_succ _
    · simp only [State.heatIds, State.currentId, hload.queue, hg, hdef, hq, Option.map_some, Option.toList_some,
        List.map_cons, List.singleton_append]
      exact List.sublist_append_right _ _

theorem emptyRace_fits (c : RaceCause) (l : Option Link) (hs : QueueFits s) : QueueFits (emptyRace c l s) :=
  hs.of_sublist le_rfl (List.sublist_append_right _ _)

theorem advanceRace_fits (c : RaceCause) (l : Option Link) (hs : QueueFits s) : QueueFits (advanceRace c l s) := by
  unfold advanceRace
  split
  · exact emptyRace_fits c l hs
  · exact load_fits l hs

theorem joined_fits (l : Link) {d : Definition} (hs : QueueFits s) (hid : d.id ∉ s.heatIds) (hroom : s.queue.length < 4) :
    QueueFits (joined l d s) := by
  have hids : (joined l d s).heatIds = s.heatIds ++ [d.id] := by simp [joined, State.heatIds, State.currentId]
  refine ⟨by rw [joined_queue_length]; exact hroom, ?_⟩
  rw [hids]
  exact hs.2.append (List.nodup_singleton _) (by simpa using hid)

theorem performStageHeat_fits (l : Link) (b : HeatBody) (hs : QueueFits s) : QueueFits (performStageHeat l b s).state := by
  unfold performStageHeat
  split
  · exact hs
  · next c hc =>
    generalize fillDefinition s.params b c = d
    cases hv : d.invalid with
    | some v => rwa [stageDefinition_invalid l s hv]
    | none =>
      by_cases hid : d.id ∈ s.heatIds
      · rwa [stageDefinition_duplicate l hv hid]
      by_cases hroom : s.queue.length < 4
      · rw [stageDefinition_staged l hv hid hroom, stage_eq]
        have hjoined := joined_fits l hs hid hroom
        change QueueFits (if _ then _ else _)
        split
        · exact load_fits _ hjoined
        · exact hjoined
      · rwa [stageDefinition_full l hv hid (Nat.not_lt.mp hroom)]

theorem performWithdrawHeat_fits (l : Link) (i : HeatId) (hs : QueueFits s) :
    QueueFits (performWithdrawHeat l i s).state := by
  unfold performWithdrawHeat
  split
  · exact hs.of_sublist (List.length_filter_le _ _)
      ((List.Sublist.refl _).append (List.filter_sublist.map _))
  · split <;> exact hs

theorem performAdvance_fits (l : Link) (hs : QueueFits s) : QueueFits (performAdvance l s).state := by
  unfold performAdvance
  split
  · split
    · exact hs
    · exact load_fits _ hs
  · split
    · exact advanceRace_fits _ _ ((SameIds.of_raceOnly
        (.modHeat s (fun h => { h with advance := none }) fun _ => rfl)).fits hs)
    all_goals exact hs

theorem performAbandon_fits (l : Link) (hs : QueueFits s) : QueueFits (performAbandon l s).state := by
  unfold performAbandon
  split
  · exact hs
  · exact emptyRace_fits _ _ ((SameIds.of_raceOnly (.heatEvent .abandon 0 s)).fits hs)

/-! ## Every request -/

theorem performStartRace_sameIds (l : Link) (s : State) : SameIds s (performStartRace l s).state := by
  unfold performStartRace
  split
  · exact .refl s
  · split
    · exact .refl s
    · split
      · exact .of_raceOnly (.startRace _ _ _ s)
      · exact .refl s

theorem performSetParameter_sameIds (l : Link) (param : Byte) (value : Word32) (s : State) :
    SameIds s (performSetParameter l param value s).state := by
  unfold performSetParameter
  split
  · exact .refl s
  · split
    · exact .refl s
    · split
      · exact .writeParameter l _ _ s
      · exact .refl s

theorem performClearFaults_sameIds (l : Link) (record : Byte) (s : State) :
    SameIds s (performClearFaults l record s).state := by
  unfold performClearFaults
  split
  · exact .refl s
  · exact .clearFaults _ _ _ s

theorem performSetNoticeMask_sameIds (l : Link) (kinds : Word16) (s : State) :
    SameIds s (performSetNoticeMask l kinds s).state := by
  unfold performSetNoticeMask
  split <;> exact ⟨rfl, rfl⟩

theorem performResetDevice_sameIds (l : Link) (s : State) : SameIds s (performResetDevice l s).state := by
  unfold performResetDevice
  split <;> exact ⟨rfl, rfl⟩

theorem performReadRace_state (part : Byte) (s : State) : (performReadRace part s).state = s := by
  unfold performReadRace
  split
  · rfl
  · split <;> rfl

theorem performGetParameter_state (param : Byte) (s : State) : (performGetParameter param s).state = s := by
  unfold performGetParameter
  split <;> rfl

theorem performReadFaults_state (record : Byte) (s : State) : (performReadFaults record s).state = s := by
  unfold performReadFaults
  split <;> rfl

/-- A lane request works on its lane, or names none and is MALFORMED. -/
theorem lanePerform_sameIds {c : Instr} {b : Byte} (hb : laneOf c = some b) (s : State) :
    SameIds s (lanePerform c s).state := by
  cases hn : laneOfByte b with
  | none =>
    rcases laneRequest_runsChecks hb with ⟨-, hmal⟩ | ⟨own, hown⟩
    · rw [hmal]
      exact .refl s
    · rw [hown, laneRequest_outside hn]
      exact .refl s
  | some n =>
    have hbn : b.toNat = n.val := by
      unfold laneOfByte at hn
      split at hn <;> cases hn
      rfl
    exact .of_laneOnly (lanePerform_laneOnly hbn s hb)

theorem ownerReply_fits (c : Instr) (hs : QueueFits s) : QueueFits (ownerReply c s).state := by
  match hb : laneOf c with
  | some b =>
    rw [ownerReply_lane hb]
    exact (lanePerform_sameIds hb s).fits hs
  | none =>
    cases c <;> cases hb
    case stageHeat l _ body => exact performStageHeat_fits l body hs
    case withdrawHeat l _ event heat => exact performWithdrawHeat_fits l ⟨event, heat⟩ hs
    case advance l _ => exact performAdvance_fits l hs
    case abandon l _ => exact performAbandon_fits l hs
    case startRace l _ => exact (performStartRace_sameIds l s).fits hs
    case setParameter l _ param value => exact (performSetParameter_sameIds l param value s).fits hs
    case clearFaults l _ record => exact (performClearFaults_sameIds l record s).fits hs
    case readRace part => rwa [ownerReply, performReadRace_state]
    case getParameter param => rwa [ownerReply, performGetParameter_state]
    case readFaults record => rwa [ownerReply, performReadFaults_state]
    case setNoticeMask l _ kinds => exact (performSetNoticeMask_sameIds l kinds s).fits hs
    case resetDevice l _ => exact (performResetDevice_sameIds l s).fits hs
    all_goals exact hs

end Sys2Proof.Machine
end

section
/-! Every step keeps the bounds of the queues (R11, R164, R166, R178, R182): an event works within them, its arbiters take work away,
a reset empties them, and a unit that passes touches none. -/

namespace Sys2Proof.Machine

open Sys2Proof

/-- Every queue within its bounds. -/
structure Bounded (s : State) : Prop where
  links : LinksFit s
  board : BoardFits s
  queue : QueueFits s

variable {s t : State}

/-! ## Events -/

theorem Worked.fits {b c : Board} (h : Worked b c) (hb : b.events.length ≤ 4 ∧ b.laneQueue.Nodup) :
    c.events.length ≤ 4 ∧ c.laneQueue.Nodup := ⟨h.events hb.1, h.laneQueue hb.2⟩

/-- An owner or timer keeps the bounds of links and board; the heat IDs are its own matter. -/
theorem Owned.bounded (h : Owned s t) (hs : Bounded s) (hq : QueueFits t) : Bounded t :=
  ⟨fun l => Clu.fits_of_kept (h.links l) (hs.links l), h.board.fits hs.board, hq⟩

theorem RaceOnly.bounded (h : RaceOnly s t) (hs : Bounded s) : Bounded t :=
  h.owned.bounded hs ((SameIds.of_raceOnly h).fits hs.queue)

/-- The fields that no bound is about. -/
theorem Bounded.congr (hs : Bounded s) (hl : t.links = s.links) (hb : t.board = s.board) (hq : t.queue = s.queue)
    (hh : t.heat = s.heat) : Bounded t := by
  obtain ⟨hlinks, hboard, hqueue⟩ := hs
  refine ⟨by rwa [LinksFit, hl], by rwa [BoardFits, hb], ?_⟩
  rwa [QueueFits, State.heatIds, State.currentId, hq, hh]

/-- One link changed within its bounds. -/
theorem Bounded.modLink {l : Link} {f : Clu → Clu} (hs : Bounded s) (hf : (f (s.links.get l)).fits) :
    Bounded (s.modLink l f) := by
  refine ⟨fun k => ?_, hs.board, hs.queue⟩
  rw [State.modLink_links, PerLink.get_put]
  split
  · exact hf
  · exact hs.links k

theorem settle_bounded (hs : Bounded s) : Bounded (settle s) := by
  obtain ⟨hevents, hlanes⟩ := Board.arbitrate_drained s.heat s.params s.deckTime s.board
  refine ⟨fun l => ?_, ⟨hevents.trans hs.board.1, hs.board.2.sublist hlanes⟩, hs.queue⟩
  rw [settle_links, PerLink.get_map]
  exact Clu.arbitrate_fits (hs.links l)

theorem event_bounded {f : State → State} (hs : Bounded s) (hf : Bounded (f s)) : Bounded (event f s) := by
  unfold event
  split
  · exact settle_bounded hf
  · exact hs

/-! ## Requests and received bytes -/

theorem judgeArrival_bounded {perform : State → Reply} (l : Link) (tag kind : Byte) (hs : Bounded s)
    (hp : ∀ u, Served u (perform u)) (hq : ∀ u, QueueFits u → QueueFits (perform u).state) :
    Bounded (judgeArrival l tag kind perform s) := by
  unfold judgeArrival
  split
  · unfold refuseBusy
    split
    · next hroom => exact hs.modLink (Clu.fits_busy (hs.links l) hroom rfl)
    · exact hs
  · next hnot =>
    have hroom : (s.links.get l).unanswered < 4 := by
      simp only [State.refusesArrival, Bool.or_eq_true, decide_eq_true_eq, not_or] at hnot
      omega
    have howned := (hp (counted l s)).owned
    have hqueue : QueueFits (perform (counted l s)).state := hq _ hs.queue
    have hlinks := fun k => howned.links k
    simp only [counted_get] at hlinks
    refine ⟨fun k => ?_, howned.board.fits hs.board, hqueue⟩
    change ((pushAnswer l _ (perform (counted l s)).state).links.get k).fits
    rw [pushAnswer_get]
    have hk := hlinks k
    split
    · next hkl =>
      rw [if_pos hkl, hkl] at hk
      exact Clu.fits_taken (hs.links l) hroom (hp (counted l s)).result hk
    · next hkl =>
      rw [if_neg hkl] at hk
      exact Clu.fits_of_kept hk (hs.links k)

theorem overtimeIfDue_bounded (hs : Bounded s) : Bounded (overtimeIfDue s) := (RaceOnly.overtimeIfDue s).bounded hs

theorem followedByOvertime_bounded (s : State) (ht : Bounded t) : Bounded (followedByOvertime s t) := by
  unfold followedByOvertime
  split
  · exact event_bounded ht (overtimeIfDue_bounded ht)
  · exact ht

theorem withBody_fits {α : Type} {perform : α → State → Reply} (r : Reader α) (body : List Byte) (hs : QueueFits s)
    (hq : ∀ a, QueueFits (perform a s).state) : QueueFits (withBody r body perform s).state := by
  unfold withBody
  split
  · exact hs
  · exact hq _

theorem withoutBody_fits {perform : State → Reply} (body : List Byte) (hs : QueueFits s)
    (hq : QueueFits (perform s).state) : QueueFits (withoutBody body perform s).state := by
  unfold withoutBody
  split
  · exact hq
  · exact hs

/-- A request served from its bytes is its command's owner, or no request. -/
theorem serve_fits (l : Link) (kind : Byte) (body : List Byte) (hs : QueueFits s) :
    QueueFits (serve l kind body s).state := by
  unfold serve
  split
  · exact withBody_fits _ _ hs fun b => ownerReply_fits (.stageHeat l 0 b) hs
  · exact withBody_fits _ _ hs fun i => performWithdrawHeat_fits l i hs
  · exact withoutBody_fits _ hs hs
  · exact withoutBody_fits _ hs (performAdvance_fits l hs)
  · exact withoutBody_fits _ hs (performAbandon_fits l hs)
  · exact withoutBody_fits _ hs (ownerReply_fits (.startRace l 0) hs)
  · exact withBody_fits _ _ hs fun b => ownerReply_fits (.readRace l 0 b) hs
  · exact withBody_fits _ _ hs fun b => ownerReply_fits (.scratchLane l 0 b) hs
  · exact withBody_fits _ _ hs fun b => ownerReply_fits (.assignEntrant l 0 b.1 b.2) hs
  · exact withBody_fits _ _ hs fun b => ownerReply_fits (.setLaneTiming l 0 b.1 b.2) hs
  · exact withBody_fits _ _ hs fun b => ownerReply_fits (.promoteTouch l 0 b.1 b.2) hs
  · exact withBody_fits _ _ hs fun b => ownerReply_fits (.declareNoFinish l 0 b) hs
  · exact withBody_fits _ _ hs fun b => ownerReply_fits (.enterFinish l 0 b.1 b.2) hs
  · exact withBody_fits _ _ hs fun b => ownerReply_fits (.adjustFinish l 0 b.1 b.2) hs
  · exact withBody_fits _ _ hs fun b => ownerReply_fits (.readLane l 0 b) hs
  · exact withBody_fits _ _ hs fun b => ownerReply_fits (.readSplits l 0 b.1 b.2) hs
  · exact withBody_fits _ _ hs fun b => ownerReply_fits (.holdLane l 0 b) hs
  · exact withBody_fits _ _ hs fun b => ownerReply_fits (.unholdLane l 0 b) hs
  · exact withBody_fits _ _ hs fun b => ownerReply_fits (.clearSystemHold l 0 b.1 b.2) hs
  · exact withBody_fits _ _ hs fun b => ownerReply_fits (.releaseLane l 0 b) hs
  · exact withBody_fits _ _ hs fun b => ownerReply_fits (.disqualify l 0 b.1 b.2) hs
  · exact withBody_fits _ _ hs fun b => ownerReply_fits (.reinstate l 0 b) hs
  · exact withBody_fits _ _ hs fun b => ownerReply_fits (.setParameter l 0 b.1 b.2) hs
  · exact withBody_fits _ _ hs fun b => ownerReply_fits (.getParameter l 0 b) hs
  · exact withBody_fits _ _ hs fun b => ownerReply_fits (.setNoticeMask l 0 b) hs
  · exact withBody_fits _ _ hs fun b => ownerReply_fits (.readFaults l 0 b) hs
  · exact withBody_fits _ _ hs fun b => ownerReply_fits (.clearFaults l 0 b) hs
  · exact withoutBody_fits _ hs (ownerReply_fits (.resetDevice l 0) hs)
  · exact hs

/-- The receiver of a link has no bound of its own. -/
theorem setFramer_bounded (l : Link) (f : Framer) (hs : Bounded s) : Bounded (setFramer l f s) :=
  hs.modLink (hs.links l)

theorem discard_bounded (l : Link) (d : Discard) (hs : Bounded s) : Bounded (discard l d s) := by
  have hhunt := setFramer_bounded l .hunt hs
  exact (Owned.reportDiscard l d _).bounded hhunt ((SameIds.reportDiscard l d _).fits hhunt.queue)

theorem arriveFrame_bounded (l : Link) (len : Nat) (buffer : List Byte) (hs : Bounded s) :
    Bounded (arriveFrame l len buffer s) := by
  unfold arriveFrame
  split
  · exact judgeArrival_bounded l _ _ hs (Served.serve l _ _) fun _ hu => serve_fits l _ _ hu
  · exact hs

theorem frameByte_bounded (l : Link) (buffer : List Byte) (b : Byte) (hs : Bounded s) :
    Bounded (frameByte l buffer b s) := by
  unfold frameByte
  split
  · split
    · exact discard_bounded l .length hs
    · exact setFramer_bounded l _ hs
  · dsimp only
    split
    · exact setFramer_bounded l _ hs
    · split
      · exact arriveFrame_bounded l _ _ (setFramer_bounded l .hunt hs)
      · exact discard_bounded l .crc hs

theorem receive_bounded (l : Link) (b : Byte) (hs : Bounded s) : Bounded (receive l b s) := by
  unfold receive
  split
  · split
    · exact setFramer_bounded l _ hs
    · exact hs
  · exact frameByte_bounded l _ b hs

/-! ## Transmissions, resets and start-up -/

/-- A state that any reset left holds nothing in a queue. -/
theorem ResetTo.bounded {p : Params} {m : Link → List NoticeKind} (h : ResetTo p m s t) : Bounded t := by
  refine ⟨fun l => h.links l ▸ Clu.reset_fits (m l), ?_, ?_⟩
  · rw [BoardFits, h.board]
    exact ⟨Nat.zero_le 4, List.nodup_nil⟩
  · rw [QueueFits, State.heatIds, State.currentId, h.queue, h.heat]
    exact ⟨Nat.zero_le 4, List.nodup_nil⟩

theorem completeLink_bounded (hs : Bounded s) (l : Link) : Bounded (completeLink l s) := by
  unfold completeLink
  split
  · exact (resetState_resetTo s.params s.masks _ s).bounded
  · exact event_bounded hs (hs.modLink (Clu.complete_fits (hs.links l)))

theorem senseLevel_bounded (hs : Bounded s) (l : Line) (v : Level) : Bounded (senseLevel l v s) := by
  unfold senseLevel
  split
  · exact settle_bounded (hs.congr rfl rfl rfl rfl)
  · exact hs.congr rfl rfl rfl rfl

theorem shortPulse_bounded (hs : Bounded s) : Bounded (shortPulse s) :=
  (Owned.clearFaults _ _ none s).bounded hs ((SameIds.clearFaults _ _ none s).fits hs.queue)

theorem resetnReleased_bounded (hs : Bounded s) : Bounded (resetnReleased s) := hs.congr rfl rfl rfl rfl

theorem endPulse_bounded (hs : Bounded s) (micros : Nat) : Bounded (endPulse micros s) := by
  have hreleased := resetnReleased_bounded hs
  unfold endPulse
  split
  · exact hreleased
  · split
    · exact event_bounded hreleased (shortPulse_bounded hreleased)
    · exact (fullReset_resetTo _ _).bounded

theorem endStartUp_bounded (hs : Bounded s) (cause : StartCause) : Bounded (endStartUp cause s) := by
  refine settle_bounded ((RaceOnly.raise _ _).bounded ?_)
  exact ⟨hs.links, hs.board, hs.queue⟩

/-! ## What a command answers -/

/-- A command's outcome, of which a property holds where it is a state. -/
def Ends (P : State → Prop) : Host.Outcome State Fault Refusal → Prop
  | .next t => P t
  | .fault _ => True
  | .refused _ => True

theorem exec_request_bounded {c : Instr} {l : Link} {tag kind : Byte} (hc : requestOf c = some (l, tag, kind))
    (hs : Bounded s) : Ends Bounded (exec c s) := by
  by_cases hk : NamesNoKnownKind c
  · have harrive : Bounded (arrive l tag kind (ownerReply c) s) :=
      event_bounded hs (judgeArrival_bounded l tag kind hs (ownerReply_served c) fun _ hu => ownerReply_fits c hu)
    rcases exec_request hc hk s with h | h <;> rw [h]
    · exact harrive
    · exact followedByOvertime_bounded s harrive
  · simp only [NamesNoKnownKind, not_forall] at hk
    obtain ⟨k, t, m, rfl, hm⟩ := hk
    change Ends Bounded (execUnknownRequest k t m s)
    rw [execUnknownRequest, if_pos (by simpa using hm)]
    trivial

/-- An event that acts only while it is due. -/
theorem event_due_bounded {due : State → Bool} {f : State → State} (hs : Bounded s) (hf : Bounded (f s)) :
    Bounded (event (fun u => if due u then f u else u) s) := by
  refine event_bounded hs ?_
  split
  · exact hf
  · exact hs

theorem advanceTimer_bounded (hs : Bounded s) :
    Bounded (advanceRace .advanceTimer none (s.modHeat fun h => { h with advance := none })) := by
  have hcleared := (RaceOnly.modHeat s (fun h => { h with advance := none }) fun _ => rfl).bounded hs
  exact (Owned.advanceRace _ _ _).bounded hcleared (advanceRace_fits _ _ hcleared.queue)

theorem modBoard_bounded {f : Board → Board} (hs : Bounded s) (hf : Worked s.board (f s.board)) :
    Bounded (s.modBoard f) := (RaceOnly.modBoard s f hf).bounded hs

theorem boardComplete_bounded (hs : Bounded s) : Bounded (s.modBoard Board.complete) := by
  refine ⟨hs.links, ?_, hs.queue⟩
  change (Board.complete s.board).events.length ≤ 4 ∧ (Board.complete s.board).laneQueue.Nodup
  unfold Board.complete
  split <;> exact hs.board

theorem execSensedLevelChange_bounded (hs : Bounded s) (l : Line) (v : Level) :
    Ends Bounded (execSensedLevelChange l v s) := by
  unfold execSensedLevelChange
  split
  · trivial
  · split
    · exact hs
    · exact senseLevel_bounded hs l v

theorem execDeviceResetBegins_bounded (hs : Bounded s) : Ends Bounded (execDeviceResetBegins s) := by
  unfold execDeviceResetBegins
  split
  · exact hs
  · split
    · exact completeLink_bounded hs _
    · exact hs

theorem execResetnLow_bounded (hs : Bounded s) : Ends Bounded (execResetnLow s) := by
  unfold execResetnLow
  split
  · exact hs.congr rfl rfl rfl rfl
  · exact hs

theorem execLongResetnPulse_bounded (hs : Bounded s) : Ends Bounded (execLongResetnPulse s) := by
  unfold execLongResetnPulse
  split
  · exact (fullReset_resetTo .held s).bounded
  · exact hs

theorem execResetnHigh_bounded (hs : Bounded s) (micros : Nat) : Ends Bounded (execResetnHigh micros s) := by
  unfold execResetnHigh
  split
  · exact hs
  · split
    · exact hs.congr rfl rfl rfl rfl
    · exact endPulse_bounded hs _

theorem execStartUpEnd_bounded (hs : Bounded s) : Ends Bounded (execStartUpEnd s) := by
  unfold execStartUpEnd
  split
  · exact endStartUp_bounded hs _
  · exact hs
  · exact hs

/-- Every command: a request by its owner, an event by what it works on, a reset by what it empties. -/
theorem exec_bounded (hs : Bounded s) (c : Instr) : Ends Bounded (exec c s) := by
  match hc : requestOf c with
  | some (l, tag, kind) => exact exec_request_bounded hc hs
  | none =>
    cases c <;> cases hc
    case receivedByte l b => exact followedByOvertime_bounded s (event_bounded hs (receive_bounded l b hs))
    case gapExpiry l => exact event_due_bounded hs (discard_bounded l .gap hs)
    case linkTransmissionCompletes l => exact completeLink_bounded hs l
    case deviceResetBegins => exact execDeviceResetBegins_bounded hs
    case sensedLevelChange l v => exact execSensedLevelChange_bounded hs l v
    case candidateCompletes l =>
      exact event_bounded hs ((Owned.completeLines [l] s).bounded hs ((SameIds.of_supervises (.completeLines [l] s)).fits hs.queue))
    case stuckTimerExpiry l =>
      exact event_bounded hs ((Owned.expireLines [l] s).bounded hs ((SameIds.of_supervises (.expireLines [l] s)).fits hs.queue))
    case retryExpiry i =>
      exact event_bounded hs ((Owned.expireRetries [i] s).bounded hs ((SameIds.of_supervises (.moveFaults _ _ _ _ _ s)).fits hs.queue))
    case collecttimeExpiry n => exact event_due_bounded hs ((RaceOnly.resolveFinish n s).bounded hs)
    case overtimeExpiry => exact event_bounded hs (overtimeIfDue_bounded hs)
    case advanceTimerExpiry => exact event_due_bounded hs (advanceTimer_bounded hs)
    case boardTransmissionCompletes => exact event_bounded hs (boardComplete_bounded hs)
    case clockTimerExpiry => exact event_bounded hs (modBoard_bounded hs (Board.clockExpires_worked _ _ _))
    case freezeTimerExpiry => exact event_bounded hs (modBoard_bounded hs (Board.freezeExpires_worked _ _))
    case idleTimerExpiry => exact event_bounded hs (modBoard_bounded hs (Board.idleExpires_worked _ _ _))
    case powerOnReset => exact (fullReset_resetTo (.startUp Config.startUpUnits .powerOn) s).bounded.congr rfl rfl rfl rfl
    case resetnLow => exact execResetnLow_bounded hs
    case longResetnPulse => exact execLongResetnPulse_bounded hs
    case resetnHigh micros => exact execResetnHigh_bounded hs micros
    case startUpEnd => exact execStartUpEnd_bounded hs

/-! ## The step -/

theorem tick_bounded (hs : Bounded s) : Bounded (tick s) := by
  unfold tick
  split
  · refine ⟨fun l => ?_, hs.board, hs.queue⟩
    change ((s.links.map Clu.tick).get l).fits
    rw [PerLink.get_map]
    exact Clu.tick_fits (hs.links l)
  · exact hs.congr rfl rfl rfl rfl
  · exact hs.congr rfl rfl rfl rfl

/-- What falls due is taken from the state as it stands, but for the count of free choices (log 3). -/
theorem nextDue_bounded (hs : Bounded s) {c : Instr} (h : nextDue s = some (c, t)) : Bounded t := by
  unfold nextDue at h
  split at h <;> cases h
  · exact hs
  · exact hs.congr rfl rfl rfl rfl

theorem step_bounded (hs : Bounded s) : Ends Bounded (step s) := by
  unfold step
  split
  · next c rest _ => exact exec_bounded (s := { s with pending := rest }) (hs.congr rfl rfl rfl rfl) c
  · split
    · next hdue => exact exec_bounded (nextDue_bounded hs hdue) _
    · exact tick_bounded hs

/-- Settles O57: every step keeps `Bounded`, the command taken, the event that has fallen due, and the unit that passes. -/
theorem stepsKeepTheBounds : Obligations.StepsKeepTheBounds := by
  rintro s t ⟨hlinks, hboard, hqueue⟩ ht
  have hstep := step_bounded ⟨hlinks, hboard, hqueue⟩
  rw [ht] at hstep
  exact ⟨hstep.links, hstep.board, hstep.queue⟩

end Sys2Proof.Machine
end

section
/-! The state after a power-on reset, and resets at any other moment (R11, R148, R174, R183, R184, R186, R187). -/

namespace Sys2Proof.Machine

open Sys2Proof

/-! ## Power-on (R187) -/

theorem default_value (p : ParamId) : Params.default.value p = p.default := by cases p <;> rfl

theorem reset_faults_get (i : Fin 71) : State.reset.faults.get i = FaultRecord.reset := by
  simp [State.reset, Vector.get_eq_getElem]

theorem reset_decoders_get (i : Fin 73) : State.reset.decoders.get i = Decoder.reset .idle := by
  simp [State.reset, Vector.get_eq_getElem]

theorem reset_links_get (l : Link) : State.reset.links.get l = Clu.reset NoticeKind.maskable := by cases l <;> rfl

/-- Every mask after reset is full, and STARTED needs none (R183). -/
theorem reset_admits (k : NoticeKind) : (Clu.reset NoticeKind.maskable).admits k = true := by cases k <;> rfl

/-- The power-on state is what a reset leaves on lines that show IDLE (log 7). -/
theorem reset_resetTo : ResetTo Params.default (fun _ => NoticeKind.maskable) State.reset State.reset where
  params := rfl
  links := reset_links_get
  board := rfl
  heat := rfl
  queue := rfl
  resetPending := rfl
  faults := reset_faults_get
  linkFaults := fun l => by cases l <;> rfl
  decoders := fun i => by rw [reset_decoders_get]; rfl

/-- Settles O4: the fields as `State.reset` gives them, parameter by parameter, link by link. -/
theorem resetLeavesTheStatedValues : Obligations.ResetLeavesTheStatedValues := by
  refine ⟨rfl, rfl, rfl, rfl, rfl, default_value, reset_faults_get, reset_resetTo.linkFaults, rfl, fun l => ?_⟩
  rw [reset_links_get]
  exact ⟨rfl, rfl, rfl, rfl, rfl, rfl, reset_admits⟩

/-- Settles O6: the full reset, with the pin's time begun anew. -/
theorem powerOnReset : Obligations.PowerOnReset := fun s =>
  ⟨_, rfl, { fullReset_resetTo (.startUp 2000 .powerOn) s with }, rfl, rfl, rfl⟩

theorem reset_idle : State.reset.phase ≠ .running := nofun

theorem reset_decodersShaped : DecodersShaped State.reset := by
  refine fun l => ⟨fun _ => ?_, fun hrun => absurd hrun reset_idle⟩
  rw [State.decoder, reset_decoders_get]
  rfl

theorem raceShaped_of_empty {s : State} (hs : s.heat = none) : RaceShaped s := fun h hh => by
  rw [hs] at hh
  cases hh

theorem placed_of_empty {s : State} (hs : s.heat = none) : Placed s := fun h hh => by
  rw [hs] at hh
  cases hh

/-- Settles O56: bounds and `Steady` hold of every state a reset left; there is no race and no decoder runs. -/
theorem resetKeepsTheInvariants : Obligations.ResetKeepsTheInvariants := by
  have hbounded : Bounded State.reset := reset_resetTo.bounded
  have hsteady : Steady State.reset := reset_resetTo.steady reset_idle
  exact ⟨hbounded.links, hbounded.board, hbounded.queue, hsteady.settled, hsteady.resetStands, reset_decodersShaped,
    raceShaped_of_empty rfl, placed_of_empty rfl⟩

/-! ## RESET DEVICE (R186) -/

theorem performResetDevice_taken (l : Link) {s : State}
    (h : s.raceState = .empty ∨ s.raceState = .loaded ∨ s.raceState = .final) :
    performResetDevice l s = done [] { s with resetPending := some l } := by
  rcases h with h | h | h <;> simp only [performResetDevice, h]

theorem performResetDevice_refused (l : Link) {s : State}
    (h : s.raceState = .marks ∨ s.raceState = .running ∨ s.raceState = .review) :
    performResetDevice l s = wrongRace s := by
  rcases h with h | h | h <;> simp only [performResetDevice, h]

theorem masks_get (s : State) : s.masks.get = fun k => (s.links.get k).mask := funext (PerLink.get_map s.links Clu.mask)

theorem deviceReset_resetTo (l : Link) (s : State) :
    ResetTo s.params (fun k => (s.links.get k).mask) s (deviceReset l s) :=
  masks_get s ▸ resetState_resetTo s.params s.masks (.startUp 2000 (.resetDevice l)) s

theorem endsInReset_of_done {l : Link} {s : State} {tag : Byte} {data : List Byte} {left : Nat}
    (hp : s.resetPending = some l) (hf : (s.links.get l).flight = some ⟨.answer ⟨tag, 0x1C, .done, data⟩, left⟩) :
    endsInReset l s = true := by
  simp [endsInReset, hp, hf, LinkFrame.beginsReset, resetDeviceKind]

theorem completeLink_reset {l : Link} {s : State} (hrun : s.phase = .running) (h : endsInReset l s = true) :
    completeLink l s = deviceReset l s := if_pos ⟨hrun, h⟩

theorem exec_deviceResetBegins {l : Link} {s : State} (hp : s.resetPending = some l) (h : endsInReset l s = true) :
    exec .deviceResetBegins s = .next (completeLink l s) := by
  change execDeviceResetBegins s = _
  simp only [execDeviceResetBegins, hp, h, if_true]

/-- Settles O8: the request by race state, then the completion of its DONE answer by either command. -/
theorem resetDeviceAndItsReset : Obligations.ResetDeviceAndItsReset := by
  refine ⟨fun l tag s htakes => ⟨fun hrace => ?_, fun hrace => ?_⟩, fun l tag data left s hrun hp hf => ?_⟩
  · exact congrArg _ (arrive_of_reply htakes (performResetDevice_taken (s := counted l s) l hrace))
  · exact congrArg _ (arrive_of_reply htakes (performResetDevice_refused (s := counted l s) l hrace))
  · have hends := endsInReset_of_done hp hf
    have hreset := completeLink_reset hrun hends
    exact ⟨deviceReset l s, hreset ▸ exec_deviceResetBegins hp hends, congrArg _ hreset, rfl, rfl, rfl,
      deviceReset_resetTo l s⟩

end Sys2Proof.Machine
end

section
/-! The transmitters of the links (R178, R180): the end of a transmission, and the frame the arbiter takes. -/

namespace Sys2Proof.Machine

open Sys2Proof

/-! ## A frame sent whole -/

theorem PerLink.put_get_self {α : Type} (p : PerLink α) (l : Link) : p.put l (p.get l) = p := by cases l <;> rfl

/-- A link changed is the state with that link's new value. -/
theorem State.modLink_of_eq {s : State} {l : Link} {f g : Clu → Clu} (h : f (s.links.get l) = g (s.links.get l)) :
    s.modLink l f = s.modLink l g := by
  rw [State.modLink, State.modLink, h]

theorem State.modLink_self {s : State} {l : Link} {f : Clu → Clu} (h : f (s.links.get l) = s.links.get l) :
    s.modLink l f = s := by
  rw [State.modLink, h, PerLink.put_get_self]

namespace Clu

variable {c : Clu}

theorem complete_quiet (hf : c.flight = none) : c.complete = c := by
  rw [complete, hf]

theorem complete_taken {a : Answer} {left : Nat} (hf : c.flight = some ⟨.answer a, left⟩) (ha : a.result ≠ .busy) :
    c.complete = { c with flight := none, unanswered := c.unanswered - 1 } := by
  simp [complete, hf, LinkFrame.answersTaken, ha]

theorem complete_busy {a : Answer} {left : Nat} (hf : c.flight = some ⟨.answer a, left⟩) (ha : a.result = .busy) :
    c.complete = { c with flight := none } := by
  simp [complete, hf, LinkFrame.answersTaken, ha]

theorem complete_notice {q : QueuedNotice} {left : Nat} (hf : c.flight = some ⟨.notice q, left⟩) :
    c.complete = { c with flight := none } := by
  simp [complete, hf, LinkFrame.answersTaken]

end Clu

/-- Without the DONE answer to RESET DEVICE in flight on its own link no reset begins. -/
theorem endsInReset_eq_false {l : Link} {s : State}
    (h : ∀ tag data left, s.resetPending = some l →
      (s.links.get l).flight ≠ some ⟨.answer ⟨tag, 0x1C, .done, data⟩, left⟩) : endsInReset l s = false := by
  refine Bool.eq_false_iff.mpr fun hends => ?_
  simp only [endsInReset, Bool.and_eq_true, beq_iff_eq, Option.any_eq_true] at hends
  obtain ⟨hp, ⟨frame, left⟩, hf, hbegins⟩ := hends
  cases frame with
  | notice q => cases hbegins
  | answer a =>
    obtain ⟨tag, kind, result, data⟩ := a
    simp only [LinkFrame.beginsReset, Bool.and_eq_true, beq_iff_eq] at hbegins
    obtain ⟨rfl, rfl⟩ := hbegins
    exact h tag data left hp hf

/-- Settles O15: the completion by the frame in flight. -/
theorem linkTransmissionCompletes : Obligations.LinkTransmissionCompletes := by
  intro l s hrun hnot
  have hcompletes : ∀ {t}, s.modLink l Clu.complete = t → exec (.linkTransmissionCompletes l) s = .next (settle t) := by
    rintro t rfl
    change Host.Outcome.next (completeLink l s) = _
    rw [completeLink, if_neg (by simp [endsInReset_eq_false hnot]), event_running hrun]
  exact ⟨fun a left hf ha => hcompletes (State.modLink_of_eq (Clu.complete_taken hf ha)),
    fun a left hf ha => hcompletes (State.modLink_of_eq (Clu.complete_busy hf ha)),
    fun q left hf => hcompletes (State.modLink_of_eq (Clu.complete_notice hf)),
    fun hf => hcompletes (State.modLink_self (Clu.complete_quiet hf))⟩

/-! ## The arbiter (R180) -/

namespace Clu

variable {c : Clu}

theorem arbitrate_sending {f : LinkFlight} (hf : c.flight = some f) : c.arbitrate = c := by
  simp only [arbitrate, hf]

theorem arbitrate_answer {a : Answer} {as : List Answer} (hf : c.flight = none) (ha : c.answers = a :: as) :
    c.arbitrate = { c with answers := as, flight := some ⟨.answer a, (LinkFrame.answer a).bytes.length * 125⟩ } := by
  simp only [arbitrate, hf, ha]
  rfl

theorem arbitrate_notice {q : QueuedNotice} {qs : List QueuedNotice} (hf : c.flight = none) (ha : c.answers = [])
    (hn : c.notices = q :: qs) :
    c.arbitrate = { c with notices := qs, flight := some ⟨.notice q, (LinkFrame.notice q).bytes.length * 125⟩ } := by
  simp only [arbitrate, hf, ha, hn]
  rfl

theorem arbitrate_workless (hf : c.flight = none) (ha : c.answers = []) (hn : c.notices = []) : c.arbitrate = c := by
  simp only [arbitrate, hf, ha, hn]

end Clu

/-- Settles O16: the arbiter by what the transmitter sends and what waits. -/
theorem linkArbiter : Obligations.LinkArbiter := by
  intro s l
  rw [settle_links, PerLink.get_map]
  exact ⟨⟨rfl, rfl, rfl, rfl, rfl, rfl, rfl, rfl, rfl, rfl, rfl⟩, fun _ hf => Clu.arbitrate_sending hf,
    fun _ _ hf ha => Clu.arbitrate_answer hf ha, fun _ _ hf ha hn => Clu.arbitrate_notice hf ha hn,
    fun hf ha hn => Clu.arbitrate_workless hf ha hn⟩

end Sys2Proof.Machine
end

section
/-! Notices offered to a link, its mask, and GET PARAMETER (R181, R182, R183, R185). -/

namespace Sys2Proof.Machine

open Sys2Proof

/-! ## A notice offered (R182) -/

namespace Clu

variable {c : Clu} {n : Notice}

theorem admits_iff (k : NoticeKind) : c.admits k = true ↔ k = .started ∨ k ∈ c.mask := by
  simp [admits]

theorem offer_excluded (hstarted : n.kind ≠ .started) (hmask : n.kind ∉ c.mask) : c.offer n = c := by
  rw [offer, if_neg (by simp [admits_iff, hstarted, hmask])]

theorem offer_queued (hadmits : n.kind = .started ∨ n.kind ∈ c.mask) (hroom : c.notices.length < 32) :
    c.offer n = { c with notices := c.notices ++ [⟨c.lost, n⟩], lost := false } := by
  rw [offer, if_pos ((admits_iff _).mpr hadmits), if_pos hroom]

theorem offer_lost (hadmits : n.kind = .started ∨ n.kind ∈ c.mask) (hfull : 32 ≤ c.notices.length) :
    c.offer n = { c with lost := true } := by
  rw [offer, if_pos ((admits_iff _).mpr hadmits), if_neg (Nat.not_lt.mpr hfull)]

end Clu

theorem raise_links_get (n : Notice) (s : State) (l : Link) : (raise n s).links.get l = (s.links.get l).offer n :=
  PerLink.get_map s.links (Clu.offer n) l

/-! ## SET NOTICE MASK (R183) -/

theorem mem_maskable (k : NoticeKind) : k ∈ NoticeKind.maskable ↔ k ≠ .started := by cases k <;> decide

/-- The kinds a set of two bytes names, STARTED passed over. -/
def namedKinds (kinds : Word16) : List NoticeKind := NoticeKind.maskable.filter fun k => kinds.getLsbD (k.code - 0x40)

theorem mem_namedKinds (kinds : Word16) (k : NoticeKind) :
    k ∈ namedKinds kinds ↔ k ≠ .started ∧ kinds.getLsbD (k.code - 0x40) = true := by
  rw [namedKinds, List.mem_filter, mem_maskable]

/-- Without a bit beyond RECALL_IGNORED the set is within its convention (R190). -/
theorem decodeMask_of_lt {kinds : Word16} (h : kinds.toNat < 0x4000) : decodeMask kinds = some (namedKinds kinds) := by
  have hbit : ∀ i, 14 ≤ i → kinds.getLsbD i = false := fun i hi =>
    Nat.testBit_lt_two_pow (h.trans_le (Nat.pow_le_pow_right Nat.two_pos hi))
  rw [decodeMask, hbit 14 le_rfl, hbit 15 (by decide)]
  rfl

/-- Settles O17: the offer by mask and queue, then the mask the request writes. -/
theorem noticesAndMasks : Obligations.NoticesAndMasks := by
  refine ⟨fun n s l => ?_, fun l tag kinds s htakes hkinds => ⟨namedKinds kinds, mem_namedKinds kinds, ?_⟩⟩
  · rw [raise_links_get]
    exact ⟨Clu.offer_excluded, Clu.offer_queued, Clu.offer_lost, rfl⟩
  · refine congrArg _ (arrive_of_reply htakes ?_)
    rw [performSetNoticeMask, decodeMask_of_lt hkinds]
    rfl

/-! ## GET PARAMETER (R185) -/

theorem ParamId.all_getElem? (p : ParamId) : ParamId.all[p.code]? = some p := by cases p <;> rfl

theorem ParamId.code_lt (p : ParamId) : p.code < 39 := by cases p <;> decide

theorem paramOfCode_of_toNat {b : Byte} {p : ParamId} (hb : b.toNat = p.code) : paramOfCode b = some p := by
  rw [paramOfCode, hb, ParamId.all_getElem?]

theorem decodeParamChoice_one {b : Byte} {p : ParamId} (hb : b.toNat = p.code) : decodeParamChoice b = some (.one p) := by
  have hall : b ≠ 0xFF := ne_all_of_le (by have := p.code_lt; omega)
  rw [decodeParamChoice, if_neg hall, paramOfCode_of_toNat hb]
  rfl

theorem decodeParamChoice_unknown {b : Byte} (hb : 39 ≤ b.toNat) (hall : b ≠ 0xFF) : decodeParamChoice b = none := by
  rw [decodeParamChoice, if_neg hall, paramOfCode, List.getElem?_eq_none hb]
  rfl

/-- Settles O21: by what the identifier names. -/
theorem getParameterAnswers : Obligations.GetParameterAnswers := by
  refine ⟨rfl, fun l tag b s htakes => ?_⟩
  have hreply : ∀ {r data}, performGetParameter b (counted l s) = ⟨counted l s, r, data⟩ →
      exec (.getParameter l tag b) s = .next (answered l tag 0x18 r data (counted l s)) := fun hr =>
    congrArg _ (arrive_of_reply htakes hr)
  refine ⟨fun hb => hreply ?_, fun p hb => hreply ?_, fun hb hall => hreply ?_⟩
  · subst hb
    rfl
  · rw [performGetParameter, decodeParamChoice_one hb]
    rfl
  · rw [performGetParameter, decodeParamChoice_unknown hb hall]
    rfl

end Sys2Proof.Machine
end

section
/-! The receive framer (R154, R176, R177): what each byte does to it, its discards, and the gap timer. -/

namespace Sys2Proof.Machine

open Sys2Proof

variable {l : Link} {b : Byte} {s : State} {last : DeckTime}

/-! ## Discards (R154, R177) -/

theorem discard_eq (l : Link) (d : Discard) (s : State) : discard l d s = afterDiscard l d s := rfl

theorem afterDiscard_params (l : Link) (d : Discard) (s : State) : (afterDiscard l d s).params = s.params := by
  unfold afterDiscard
  split <;> rfl

/-! ## One byte (R176) -/

theorem receive_hunt (hf : (s.links.get l).framer = .hunt) (hb : b ≠ 0xC3) : receive l b s = s := by
  simp only [receive, hf]
  exact if_neg hb

theorem receive_sync (hf : (s.links.get l).framer = .hunt) : receive l 0xC3 s = setFramer l (.frame [] s.deckTime) s := by
  simp only [receive, hf]
  rfl

theorem receive_frame {buffer : List Byte} (hf : (s.links.get l).framer = .frame buffer last) :
    receive l b s = frameByte l buffer b s := by
  simp only [receive, hf]

theorem outside_iff (lo hi n : Nat) : outside lo hi n = true ↔ n < lo ∨ hi < n := by
  simp [outside]

theorem frameByte_length (hlo : 2 ≤ b.toNat) (hhi : b.toNat ≤ 250) (s : State) :
    frameByte l [] b s = setFramer l (.frame [b] s.deckTime) s :=
  if_neg (by rw [outside_iff]; omega)

theorem frameByte_badLength (h : b.toNat < 2 ∨ 250 < b.toNat) (s : State) :
    frameByte l [] b s = afterDiscard l .length s := by
  rw [frameByte, if_pos ((outside_iff _ _ _).mpr h), discard_eq]

/-- A byte that leaves the frame short of LEN and its CRC. -/
theorem frameByte_within {len : Byte} {rest : List Byte} (h : rest.length + 2 < len.toNat + 3) (s : State) :
    frameByte l (len :: rest) b s = setFramer l (.frame (len :: rest ++ [b]) s.deckTime) s :=
  if_pos (by simpa using h)

theorem crcHolds_iff {len high low : Byte} {bytes : List Byte} (h : bytes.length = len.toNat) :
    crcHolds len.toNat (len :: (bytes ++ [high]) ++ [low]) = true ↔
      high = crcHigh (crc16 (len :: bytes)) ∧ low = crcLow (crc16 (len :: bytes)) := by
  simp [crcHolds, ← h]

/-- The second CRC byte ends the frame; one that does not fit discards it. -/
theorem frameByte_badCrc {len high low : Byte} {bytes : List Byte} (h : bytes.length = len.toNat)
    (hbad : high ≠ crcHigh (crc16 (len :: bytes)) ∨ low ≠ crcLow (crc16 (len :: bytes))) (s : State) :
    frameByte l (len :: bytes ++ [high]) low s = afterDiscard l .crc s := by
  have hwhole : ¬ (len :: (bytes ++ [high]) ++ [low]).length < len.toNat + 3 := by simp [h]
  have hcrc : ¬ crcHolds len.toNat (len :: (bytes ++ [high]) ++ [low]) = true := by
    rw [crcHolds_iff h]
    tauto
  exact ((if_neg hwhole).trans (if_neg hcrc)).trans (discard_eq l .crc s)

theorem exec_receivedByte {t : State} (hrun : s.phase = .running) (ht : receive l b s = t) (hp : t.params = s.params) :
    exec (.receivedByte l b) s = .next (settle t) := by
  change Host.Outcome.next (followedByOvertime s (event (receive l b) s)) = _
  rw [event_running hrun, ht, followedByOvertime_same (by rw [settle_params, hp])]

/-! ## The gap timer (R177) -/

theorem gapDue_hunt (hf : (s.links.get l).framer = .hunt) : gapDue l s = false := by
  simp only [gapDue, hf]

theorem gapDue_frame {buffer : List Byte} (hf : (s.links.get l).framer = .frame buffer last) :
    gapDue l s = decide (50 ≤ elapsed last s.deckTime) := by
  simp only [gapDue, hf]
  rfl

theorem exec_gapExpiry (hrun : s.phase = .running) :
    exec (.gapExpiry l) s = .next (settle (if gapDue l s then afterDiscard l .gap s else s)) := by
  rw [← discard_eq]
  exact congrArg Host.Outcome.next (event_running hrun _)

/-- Settles O13: the byte by the framer's state, then the gap timer by its time. -/
theorem receiveFramer : Obligations.ReceiveFramer := by
  refine ⟨fun l b s hrun => ⟨fun hf hb => ?_, fun hf hb => ?_, fun last hf hlo hhi => ?_, fun len rest last hf hshort => ?_⟩,
    fun l s hrun => ⟨fun b last hf hlen => ?_, fun len bytes high low last hf hlen hbad => ?_, fun bytes last hf hgap => ?_,
      fun hquiet => ?_⟩⟩
  · exact exec_receivedByte hrun (receive_hunt hf hb) rfl
  · subst hb
    exact exec_receivedByte hrun (receive_sync hf) rfl
  · exact exec_receivedByte hrun ((receive_frame hf).trans (frameByte_length hlo hhi s)) rfl
  · exact exec_receivedByte hrun ((receive_frame hf).trans (frameByte_within hshort s)) rfl
  · exact exec_receivedByte hrun ((receive_frame hf).trans (frameByte_badLength hlen s)) (afterDiscard_params l .length s)
  · exact exec_receivedByte hrun ((receive_frame hf).trans (frameByte_badCrc hlen hbad s)) (afterDiscard_params l .crc s)
  · rw [exec_gapExpiry hrun, gapDue_frame hf, decide_eq_true hgap, if_pos rfl]
  · have hnot : gapDue l s = false := by
      rcases hquiet with hf | ⟨bytes, last, hf, hearly⟩
      · exact gapDue_hunt hf
      · rw [gapDue_frame hf, decide_eq_false (Nat.not_le.mpr hearly)]
    rw [exec_gapExpiry hrun, hnot, if_neg Bool.false_ne_true]

end Sys2Proof.Machine
end

section
/-! The notices of deck events and of service changes: no operation that a change of counted level or of service hands on raises a
FAULT notice, so those of the event's reports come first (R155). -/

namespace Sys2Proof.Machine

open Sys2Proof

/-- The kinds of notice that a deck event or a service change brings. -/
def deckKinds : List NoticeKind := [.raceState, .split, .reject, .reaction, .exchange, .holdChange, .recallIgnored]

theorem judgingKinds_sub_deckKinds : ∀ k ∈ judgingKinds, k ∈ deckKinds := by decide

namespace DeckRaises

variable {s t : State}

theorem of_judging (h : RaisesKinds judgingKinds s t) : RaisesKinds deckKinds s t := h.mono judgingKinds_sub_deckKinds

theorem of_holdChange (h : RaisesKinds [.holdChange] s t) : RaisesKinds deckKinds s t := h.mono (by decide)

theorem of_raceState (h : RaisesKinds [.raceState] s t) : RaisesKinds deckKinds s t := h.mono (by decide)

theorem refl (s : State) : RaisesKinds deckKinds s s := .refl _ s

theorem one (q : Notice) (s : State) (hq : deckKinds.contains q.kind = true) : RaisesKinds deckKinds s (raise q s) :=
  .one s (by simpa using hq)

/-! ## Reactions and exchanges -/

theorem addReason (n : LaneNo) (r : Reason) (s : State) : RaisesKinds deckKinds s (Machine.addReason n r s) :=
  of_holdChange (addReason_raises n r s)

theorem changeDesk (n : LaneNo) (c : HoldCause) (l : Option Link) (f : Desk → Desk) (s : State) :
    RaisesKinds deckKinds s (Machine.changeDesk n c l f s) :=
  of_holdChange ((RaisesKinds.of_links (State.modDesk_links s n f)).trans (reportDesk_raises n c l s _))

theorem writeReaction (n : LaneNo) (r : Reaction) (c : Option DeckTime) (s : State) :
    RaisesKinds deckKinds s (Machine.writeReaction n r c s) :=
  (RaisesKinds.of_links (State.modLane_links s n _)).trans (one _ _ rfl)

theorem earlyRelease (n : LaneNo) (r : Reaction) (c : DeckTime) (s : State) :
    RaisesKinds deckKinds s (Machine.earlyRelease n r c s) := by
  unfold Machine.earlyRelease
  split
  · exact refl s
  · exact (writeReaction n _ _ s).trans (addReason n _ _)

theorem offerToReaction (n : LaneNo) (h : Heat) (r : Reaction) (c : DeckTime) (s : State) :
    RaisesKinds deckKinds s (Machine.offerToReaction n h r c s) := by
  unfold Machine.offerToReaction
  split
  · split
    · exact earlyRelease n r c s
    · dsimp only
      split
      · exact earlyRelease n r c s
      · exact writeReaction n _ none s
  · exact refl s

theorem offerToExchange (n : LaneNo) (h : Heat) (x : Exchange) (c : DeckTime) (s : State) :
    RaisesKinds deckKinds s (Machine.offerToExchange n h x c s) := by
  unfold Machine.offerToExchange
  split
  · exact refl s
  · split
    · exact .of_links (State.modExchange_links s n _ _)
    · exact refl s

theorem takeRelease (n : LaneNo) (e : End) (c : DeckTime) (s : State) :
    RaisesKinds deckKinds s (Machine.takeRelease n e c s) := by
  unfold Machine.takeRelease
  split
  · exact refl s
  · split
    · split
      · exact offerToReaction n _ _ c s
      · exact offerToExchange n _ _ c s
      · exact refl s
    · exact refl s

theorem platformLost (n : LaneNo) (e : End) (s : State) : RaisesKinds deckKinds s (Machine.platformLost n e s) := by
  unfold Machine.platformLost
  split
  · exact refl s
  · split
    · split
      · split
        · exact writeReaction n _ none s
        · exact refl s
      · exact of_judging (completeExchange_raises n _ _ s)
      · exact refl s
    · exact refl s

theorem judgeTakeoffs (b : State) (n : LaneNo) (s : State) : RaisesKinds deckKinds s (Machine.judgeTakeoffs b n s) := by
  refine .foldl (fun s x => ?_) _ s
  unfold Machine.judgeTakeoff
  split
  · exact refl s
  · exact of_judging (judgeMargin_raises n _ x s)

theorem reportLane (b s : State) (n : LaneNo) : RaisesKinds deckKinds s (Machine.reportLane b s n) := by
  unfold Machine.reportLane
  dsimp only
  split
  · exact (judgeTakeoffs b n s).trans (of_holdChange (reportDesk_raises n _ _ b _))
  · exact judgeTakeoffs b n s

/-! ## Touches and presses -/

theorem expectLength (n : LaneNo) (k r : Nat) (s : State) : RaisesKinds deckKinds s (Machine.expectLength n k r s) :=
  .of_links (State.modHeat_links s _)

theorem addSplit (n : LaneNo) (e : SplitEntry) (p : Option Promotion) (s : State) :
    RaisesKinds deckKinds s (Machine.addSplit n e p s) := by
  cases hs : s.heat with
  | none =>
    unfold Machine.addSplit
    rw [hs]
    exact refl s
  | some h => exact ⟨[.split n e p], addSplit_raised n e p hs, fun q hq => by rw [List.mem_singleton.mp hq]; exact .tail _ (.head _)⟩

theorem addMissed (n : LaneNo) (k : Nat) (s : State) : RaisesKinds deckKinds s (Machine.addMissed n k s) := by
  unfold Machine.addMissed
  split
  · exact refl s
  · exact (addSplit n _ none s).trans (addReason n _ _)

theorem infer (n : LaneNo) (fuel : Nat) (s : State) : RaisesKinds deckKinds s (Machine.infer n fuel s) := by
  induction fuel generalizing s with
  | zero => exact refl s
  | succ fuel ih =>
    unfold Machine.infer
    split
    · exact refl s
    · split
      · exact refl s
      · split
        · exact ((addMissed n _ s).trans (expectLength n _ _ _)).trans (ih _)
        · exact refl s

theorem inferAll (n : LaneNo) (s : State) : RaisesKinds deckKinds s (Machine.inferAll n s) := by
  unfold Machine.inferAll
  split
  · exact refl s
  · exact infer n _ s

theorem acceptLength (n : LaneNo) (k t : Nat) (q : SplitSource) (p : Option Promotion) (s : State) :
    RaisesKinds deckKinds s (Machine.acceptLength n k t q p s) := by
  unfold Machine.acceptLength
  split
  · exact refl s
  · split
    · exact refl s
    · dsimp only
      refine .trans ?_ (inferAll n _)
      refine .trans ?_ (expectLength n _ _ _)
      exact (addSplit n _ p s).trans (.of_links (State.modLane_links _ n _))

theorem openCollect (n : LaneNo) (o : Nat) (k : CollectionSlot) (t : Nat) (s : State) :
    RaisesKinds deckKinds s (Machine.openCollect n o k t s) := .of_links rfl

theorem fillSlot (n : LaneNo) (k : CollectionSlot) (t : Nat) (s : State) :
    RaisesKinds deckKinds s (Machine.fillSlot n k t s) := .of_links rfl

theorem rejectTouch (n : LaneNo) (t : Nat) (e : End) (r : RejectReason) (k : Nat) (s : State) :
    RaisesKinds deckKinds s (Machine.rejectTouch n t e r k s) := by
  unfold Machine.rejectTouch
  split
  · exact refl s
  · exact (RaisesKinds.of_links (State.modLane_links s n _)).trans (one _ _ rfl)

theorem takeSkip (n : LaneNo) (d : Definition) (x : Expectation) (t : Nat) (s : State) :
    RaisesKinds deckKinds s (Machine.takeSkip n d x t s) := by
  have hmissed := fun k m r => (addMissed n k s).trans (expectLength n m r _)
  unfold Machine.takeSkip
  dsimp only
  split
  · exact (hmissed _ _ _).trans (acceptLength n _ _ _ _ _)
  · exact (hmissed _ _ _).trans (openCollect n _ _ _ _)

theorem judgeTouch (n : LaneNo) (h : Heat) (x : Expectation) (e : End) (t : Nat) (s : State) :
    RaisesKinds deckKinds s (Machine.judgeTouch n h x e t s) := by
  unfold Machine.judgeTouch
  dsimp only
  split
  · exact refl s
  · split
    · split
      · exact rejectTouch n t e _ _ s
      · split
        · exact acceptLength n _ t _ _ s
        · exact openCollect n t _ t s
    · split
      · exact refl s
      · split
        · exact takeSkip n _ x t s
        · exact rejectTouch n t e _ _ s

theorem takeTouch (n : LaneNo) (e : End) (c : DeckTime) (s : State) :
    RaisesKinds deckKinds s (Machine.takeTouch n e c s) := by
  unfold Machine.takeTouch
  split
  · exact refl s
  · split
    · exact judgeTouch n _ _ e _ s
    · split
      · exact fillSlot n _ _ s
      · exact refl s
    · exact refl s

theorem takePress (n : LaneNo) (k : Slot) (c : DeckTime) (s : State) :
    RaisesKinds deckKinds s (Machine.takePress n k c s) := by
  unfold Machine.takePress
  split
  · exact refl s
  · dsimp only
    split
    · split
      · exact openCollect n _ _ _ s
      · exact refl s
    · exact fillSlot n _ _ s
    · exact refl s

theorem padLost (n : LaneNo) (e : End) (s : State) : RaisesKinds deckKinds s (Machine.padLost n e s) := by
  unfold Machine.padLost
  split
  · exact refl s
  · split
    · split
      · exact inferAll n s
      · exact refl s
    · exact refl s

/-! ## Marks, start and recall -/

theorem raceNotice (c : RaceCause) (l : Option Link) (s : State) :
    RaisesKinds deckKinds s (Machine.raceNotice c l s) := of_raceState (raceNotice_raises c l s)

theorem armForMarks (s : State) (n : LaneNo) : RaisesKinds deckKinds s (Machine.armForMarks n s) :=
  .of_links (State.modLane_links s n _)

theorem marksRise (s : State) : RaisesKinds deckKinds s (Machine.marksRise s) := by
  have hmarks := fun f => RaisesKinds.of_links (ks := deckKinds) (State.modHeat_links s f)
  unfold Machine.marksRise
  split
  · exact refl s
  · split
    · dsimp only
      split
      · exact ((hmarks _).trans (.foldl armForMarks _ _)).trans (raceNotice _ _ _)
      · exact (hmarks _).trans (raceNotice _ _ _)
    · exact refl s

theorem cancelMarks (c : RaceCause) (s : State) : RaisesKinds deckKinds s (Machine.cancelMarks c s) :=
  ((RaisesKinds.of_links (State.modHeat_links s _)).trans (raceNotice c none _)).trans
    (.foldl (fun s n => changeDesk n _ _ _ s) _ _)

theorem marksFall (s : State) : RaisesKinds deckKinds s (Machine.marksFall s) := by
  unfold Machine.marksFall
  split
  · exact refl s
  · split
    · exact cancelMarks _ s
    · exact refl s

theorem testStartPlatform (n : LaneNo) (s : State) : RaisesKinds deckKinds s (Machine.testStartPlatform n s) := by
  unfold Machine.testStartPlatform
  split
  · exact refl s
  · split
    · exact refl s
    · split
      · exact refl s
      · exact writeReaction n _ none s

theorem startLane (d : DeckTime) (s : State) (n : LaneNo) : RaisesKinds deckKinds s (Machine.startLane d s n) := by
  unfold Machine.startLane
  split
  · exact refl s
  · split
    · have hlane := fun f : Lane → Lane => RaisesKinds.of_links (ks := deckKinds)
        (show (queueLane n (s.modLane n f)).links = s.links from rfl)
      exact (((hlane _).trans (testStartPlatform n _)).trans (expectLength n _ _ _)).trans (inferAll n _)
    · exact refl s

theorem judgeStart (s : State) (n : LaneNo) : RaisesKinds deckKinds s (Machine.judgeStart s n) :=
  of_judging ((armExchange_raises n 1 s).trans (judgeFrom_raises n 0 _))

theorem startRace (d : DeckTime) (c : RaceCause) (l : Option Link) (s : State) :
    RaisesKinds deckKinds s (Machine.startRace d c l s) := by
  unfold Machine.startRace
  split
  · exact refl s
  · dsimp only
    refine .trans ?_ (.foldl judgeStart _ _)
    refine .trans ?_ (.foldl (startLane d) _ _)
    refine .trans ?_ (.of_links (heatEvent_links _ _ _))
    exact (RaisesKinds.of_links (State.modHeat_links s _)).trans (raceNotice c l _)

theorem startEvent (d : DeckTime) (s : State) : RaisesKinds deckKinds s (Machine.startEvent d s) := by
  unfold Machine.startEvent
  split
  · exact refl s
  · split
    · exact startRace d _ _ s
    · exact refl s

theorem honourRecall (s : State) : RaisesKinds deckKinds s (Machine.honourRecall s) := by
  unfold Machine.honourRecall
  split
  · exact refl s
  · dsimp only
    refine .trans ?_ (.foldl (fun s n => changeDesk n _ _ _ s) _ _)
    refine .trans ?_ (.foldl (fun s n => .of_links (queueLane_links n s)) _ _)
    refine .trans ?_ (.of_links ((owesHeader_links _).trans (heatEvent_links _ _ _)))
    exact ((RaisesKinds.of_links (State.modHeat_links s _)).trans (raceNotice _ _ _)).trans
      (.of_links (State.modBoard_links _ _))

theorem recallIgnored (state : RaceState) (time : Nat) (test : Option RecallTest) (s : State) :
    RaisesKinds deckKinds s (raise (.recallIgnored state time test) s) := one _ s rfl

theorem takeRecall (d : DeckTime) (s : State) : RaisesKinds deckKinds s (Machine.takeRecall d s) := by
  unfold Machine.takeRecall
  split
  · exact recallIgnored _ _ _ s
  · split
    · exact cancelMarks _ s
    · split
      · exact honourRecall s
      · exact recallIgnored _ _ _ s
    all_goals exact recallIgnored _ _ _ s

/-! ## The events of one event, and its service changes -/

theorem deliver (l : Line) (old new : Level) (d : DeckTime) (s : State) :
    RaisesKinds deckKinds s (Machine.deliver l old new d s) := by
  unfold Machine.deliver
  split
  · exact takeTouch _ _ _ s
  · exact takeRelease _ _ _ s
  · exact takePress _ _ _ s
  · exact startEvent _ s
  · exact marksRise s
  · exact marksFall s
  · exact takeRecall _ s
  · exact refl s

theorem handEvents (b : State) (ls : List Line) (s : State) : RaisesKinds deckKinds s (Machine.handEvents b ls s) := by
  refine .foldl (fun s l => ?_) _ s
  unfold deliverCounted
  split
  · exact refl s
  · unfold deliverGated
    split
    · exact deliver l _ _ _ _
    · exact refl s

/-- Notices held back are not raised; the others are, in their order. -/
theorem holdingBack {k : NoticeKind} (hk : k ≠ .started) {f : State → State} (hf : ∀ u, RaisesKinds deckKinds u (f u))
    (s : State) : RaisesKinds deckKinds s (Machine.holdingBack k f s) := by
  obtain ⟨ns, hns, hkinds⟩ := hf (s.withMasks (s.masks.map fun m => m.filter fun j => j != k))
  exact ⟨_, holdingBack_links k hk f s _ ns rfl hns, fun q hq => hkinds q (List.mem_of_mem_filter hq)⟩

theorem handTogether (b : State) (ls : List Line) (s : State) :
    RaisesKinds deckKinds s (Machine.handTogether b ls s) :=
  (holdingBack (k := .holdChange) (fun h => by cases h) (handEvents b ls) s).trans (.foldl (reportLane s) _ _)

theorem losePads (lost : List (Fin 71)) (s : State) (n : LaneNo) :
    RaisesKinds deckKinds s (Machine.losePads lost s n) := by
  refine .foldl (fun s e => ?_) _ s
  split
  · exact padLost n e s
  · exact refl s

theorem losePlatforms (lost : List (Fin 71)) (n : LaneNo) (s : State) :
    RaisesKinds deckKinds s (Machine.losePlatforms lost n s) := by
  refine .foldl (fun s e => ?_) _ s
  split
  · exact platformLost n e s
  · exact refl s

theorem settleLane (j : State) (lost : List (Fin 71)) (s : State) (n : LaneNo) :
    RaisesKinds deckKinds s (Machine.settleLane j lost s n) :=
  ((judgeTakeoffs j n s).trans (of_judging (judgeFrom_raises n _ _))).trans (losePlatforms lost n _)

theorem handServices (b j : State) (is : List (Fin 71)) (s : State) :
    RaisesKinds deckKinds s (Machine.handServices b j is s) :=
  (RaisesKinds.foldl (losePads _) _ s).trans (.foldl (settleLane j _) _ _)

end DeckRaises

end Sys2Proof.Machine
end

section
/-! One parameter written (R184): the value it holds then, and what the other parameters read. -/

namespace Sys2Proof.Machine

open Sys2Proof

theorem ParamId.range_of_admits {p : ParamId} {v : Int} (h : p.admits v = true) : p.range.1 ≤ v ∧ v ≤ p.range.2 := by
  cases p
  case defaultPoolLength =>
    simp only [admits, Bool.or_eq_true, beq_iff_eq] at h
    simp only [range]
    omega
  all_goals simpa only [admits, Bool.and_eq_true, decide_eq_true_eq] using h

/-- A class mode's code is the value it is written with (R190). -/
theorem classModeOfValue_code {v : Int} (hlo : 0 ≤ v) (hhi : v ≤ 4) : ((classModeOfValue v).code : Int) = v := by
  interval_cases v <;> rfl

namespace Params

variable (s : Params) {p q : ParamId} {v : Int}

/-- A value within the range is the one read back. -/
theorem write_value_same (h : p.admits v = true) : (s.write p v).value p = v := by
  obtain ⟨hlo, hhi⟩ := ParamId.range_of_admits h
  cases p <;> simp only [ParamId.range] at hlo hhi
  case padOffsetA | padOffsetB => rfl
  case padLineMode | padStuckMode | platformLineMode | buttonStuckMode | startLineMode =>
    exact classModeOfValue_code hlo hhi
  case linkFrameMode => exact classModeOfValue_code hlo (by omega)
  case autoAdvance | defaultStartEnd | defaultStartKind | defaultBasis | defaultLaneMode | defaultReleaseMode =>
    interval_cases v <;> rfl
  all_goals exact Int.toNat_of_nonneg (by omega)

theorem write_value_ne (h : q ≠ p) : (s.write p v).value q = s.value q := by
  cases p <;> cases q <;> first | rfl | exact absurd rfl h

theorem write_mode_of_none (h : p.faultClass = none) (c : FaultClass) : (s.write p v).mode c = s.mode c := by
  cases p <;> cases h <;> cases c <;> rfl

theorem write_raceTimeLimit (h : p ≠ .raceTimeLimit) : (s.write p v).raceTimeLimit = s.raceTimeLimit :=
  Int.ofNat_inj.mp (write_value_ne s h.symm)

end Params

theorem paramOfCode_code (p : ParamId) : paramOfCode (byteOf p.code) = some p := by
  cases p <;> rfl

/-- The five deglitch times (R137). -/
theorem deglitchParam_mem (l : Line) (old new : Level) :
    deglitchParam l old new ∈
      [ParamId.touchDeglitch, .platformDeglitch, .buttonDeglitch, .starterDeglitch, .lineDeglitch] := by
  unfold deglitchParam
  split
  iterate 3 split <;> simp
  all_goals simp

end Sys2Proof.Machine
end

section
/-! The Fault Supervisor's rules for one record are those the statements write out (R150, R152, R153, R159). -/

namespace Sys2Proof.Machine

open Sys2Proof

namespace FaultRecord

variable (p : Params) (i : Fin 71) (cls : FaultClass) (now : DeckTime)

theorem ends_eq (r : FaultRecord) : r.ends now = endedRecord now r := by
  obtain ⟨state, -, -, -, -, -⟩ := r
  cases state <;> rfl

/-- REPORTING and RETRY_WAIT hold a condition, so none begins there (R150). -/
theorem begins_eq {r : FaultRecord} (hreporting : r.state ≠ .reporting) (hwait : r.state ≠ .retryWait) (c : Condition) :
    r.begins p cls c = beganRecord (p.mode cls) cls c r := by
  unfold begins judge beganRecord
  cases hs : r.state
  case reporting => exact absurd hs hreporting
  case retryWait => exact absurd hs hwait
  all_goals cases p.mode cls <;> rfl

theorem judge_of_clear {r : FaultRecord} (h : r.state = .clear) :
    r.judge p cls r.present = beganRecord (p.mode cls) cls r.present r := by
  have hbegins : r.begins p cls r.present = r.judge p cls r.present := by
    simp only [begins, h]
    rw [← h]
  rw [← hbegins, begins_eq p cls (by simp [h]) (by simp [h])]

theorem retryDue_eq (r : FaultRecord) : r.retryDue p now = retryRunOut p now r := by
  obtain ⟨state, present, last, seen, serviceClass, retryStart⟩ := r
  simp only [retryDue, retryLimit, retryRunOut]
  cases state <;> cases retryStart <;> cases serviceClass.bind fun c => p.retryTime (p.mode c) <;> rfl

theorem judgeOther_of_clear {r : FaultRecord} (h : r.state = .clear) :
    r.judgeOther p i cls = judgedOnClear p i cls r := by
  unfold judgeOther judgedOnClear
  split
  · exact judge_of_clear p _ h
  · rfl

theorem byNewMode_eq (r : FaultRecord) :
    r.byNewMode p i cls now = movedByTable (p.mode cls) cls (r.presentIn i cls) (retryRunOut p now r) now r := by
  rw [← retryDue_eq]
  unfold byNewMode movedByTable
  cases hr : r.state
  case clear => exact judge_of_clear p cls hr
  all_goals cases p.mode cls <;> rfl

/-- A mode written, on one record (R159). -/
theorem changesMode_eq (r : FaultRecord) : r.changesMode p i cls now = modeWrittenRecord p cls i now r := by
  have hconcerns : r.concerns i cls = true ↔
      r.serviceClass = some cls ∨ (r.state = .clear ∧ (r.present != .none && conditionClass i r.present == cls) = true) := by
    simp [concerns, and_assoc]
  simp only [changesMode, modeWrittenRecord, hconcerns, byNewMode_eq]
  refine if_congr Iff.rfl (ite_congr rfl (fun hq => judgeOther_of_clear p i cls hq.2) fun _ => rfl) rfl

/-- A retry expiry (R153): the record clears, and a condition of another class that it holds is judged (log 27). -/
theorem expires_eq {r : FaultRecord} {c : FaultClass} (h : r.serviceClass = some c) :
    r.expires p i = judgedOnClear p i c (clearRecord r) := by
  have hclass : r.classOf i = c := by rw [classOf, h]; rfl
  rw [expires, hclass]
  exact judgeOther_of_clear p i c rfl

end FaultRecord

theorem judgedOnClear_congr {p q : Params} (h : ∀ c, p.mode c = q.mode c) (i : Fin 71) (cls : FaultClass)
    (r : FaultRecord) : judgedOnClear p i cls r = judgedOnClear q i cls r := by
  simp only [judgedOnClear, h]

/-- The class of a condition of a line other than STUCK depends on the line alone (R149). -/
theorem conditionClass_of_line (i : Fin 71) {c : Condition} (h : c ≠ .stuck) : conditionClass i c = conditionClass i .short := by
  cases c <;> first | rfl | exact absurd rfl h

theorem Decoder.condition_eq (d : Decoder) : d.condition = levelCondition d.counted := by
  obtain ⟨-, counted, -, -, -⟩ := d
  cases counted <;> rfl

end Sys2Proof.Machine
end

section
/-! The FAULT notices of records moved in one event (R155): one for each record that moves, in input order, and none behind them. -/

namespace Sys2Proof.Machine

open Sys2Proof

variable {s t u : State}

/-! ## One record -/

theorem faultRaised_same (p : Params) (i : Fin 71) (cls : FaultClass) (cause : FaultCause) (now : DeckTime)
    (r : FaultRecord) : faultRaised p i cls cause now r r = [] :=
  if_pos ⟨rfl, rfl, rfl, .inl rfl⟩

theorem raisesFault_iff (p : Params) (cls : FaultClass) (r q : FaultRecord) :
    raisesFault p cls r q = true ↔
      ¬(q.state = r.state ∧ q.seen = r.seen ∧ q.last = r.last ∧ (q.present = r.present ∨ p.mode cls = .off)) := by
  simp only [raisesFault, FaultRecord.sameButPresent, Bool.not_eq_true', ← Bool.not_eq_true, Bool.and_eq_true,
    Bool.or_eq_true, beq_iff_eq, and_assoc, eq_comm (a := r.state), eq_comm (a := r.seen), eq_comm (a := r.last),
    eq_comm (a := r.present)]

theorem FaultRecord.notice_eq (i : Fin 71) (cls : FaultClass) (cause : FaultCause) (now : DeckTime) (q : FaultRecord) :
    q.notice i cls cause none now = faultNotice i cls cause now q := by
  rw [FaultRecord.notice, FaultState.inService_eq]
  rfl

theorem writeFault_raised (i : Fin 71) (cls : FaultClass) (cause : FaultCause) (q : FaultRecord) (s : State) :
    Raised (faultRaised s.params i cls cause s.deckTime (s.faults.get i) q) s (writeFault i cls cause none q s) := by
  simp only [writeFault, faultRaised, raisesFault_iff, ite_not, FaultRecord.notice_eq]
  split
  · exact Raised.nil rfl
  · exact rfl

theorem reportFault_raised (i : Fin 71) (c : Condition) (cause : FaultCause) (f : FaultRecord → FaultRecord)
    (s : State) :
    Raised (faultRaised s.params i (conditionClass i c) cause s.deckTime (s.faults.get i) (f (s.faults.get i))) s
      (reportFault i c cause f s) := writeFault_raised i _ cause _ s

/-! ## Records of one event -/

/-- What follows a step that raises nothing. -/
theorem Raised.of_links {ns : List Notice} (h : u.links = s.links) (k : Raised ns u t) : Raised ns s t :=
  (Raised.nil h).append k

/-- A chain of operations, none of which moves what the notices of another report. -/
theorem Raised.foldl {α : Type} {step : State → α → State} {notices : State → α → List Notice}
    (hstep : ∀ s a, Raised (notices s a) s (step s a))
    (hothers : ∀ s a b, b ≠ a → notices (step s a) b = notices s b) {as : List α} (hd : as.Nodup) (s : State) :
    Raised (as.flatMap (notices s)) s (as.foldl step s) := by
  induction as generalizing s with
  | nil => exact Raised.nil rfl
  | cons a as ih =>
    obtain ⟨ha, hd⟩ := List.nodup_cons.mp hd
    have hsame : as.flatMap (notices (step s a)) = as.flatMap (notices s) :=
      List.flatMap_congr fun b hb => hothers s a b fun e => ha (e ▸ hb)
    rw [List.flatMap_cons, List.foldl_cons, ← hsame]
    exact (hstep s a).append (ih hd (step s a))

/-- Reports first, then the owners of deck events and services. -/
theorem FaultsNoticed.of_reports {ns : List Notice} (h : Raised ns s u) (k : RaisesKinds deckKinds u t) :
    FaultsNoticed ns s t := by
  obtain ⟨more, hmore, hkinds⟩ := k
  refine ⟨more, h.append hmore, fun q hq hf => ?_⟩
  have := hkinds q hq
  rw [hf] at this
  exact absurd this (by decide)

/-- What an event that moves fault records reports (R155). -/
theorem moveFaults_noticed {is : List (Fin 71)} (hd : is.Nodup) (f : Fin 71 → FaultRecord → FaultRecord)
    (cls : Fin 71 → FaultRecord → FaultClass) (k : FaultCause) (s : State) :
    FaultsNoticed
      (is.flatMap fun i =>
        faultRaised s.params i (cls i (s.faults.get i)) k s.deckTime (s.faults.get i) (f i (s.faults.get i)))
      s (moveFaults is f cls k none s) := by
  refine .of_reports (Raised.foldl (fun u i => writeFault_raised i _ k _ u) (fun u i j hj => ?_) hd s)
    (DeckRaises.handServices s s is _)
  have hw := RecordsOnly.writeFault i (cls i (u.faults.get i)) k none (f i (u.faults.get i)) u
  simp only [writeFault_get, if_neg hj, hw.params, hw.deckTime]

/-! ## Lines and inputs -/

/-- What the lines report of their inputs, in line order, is in input order. -/
theorem allLines_flatMap_input {β : Type} (g : Fin 71 → List β) :
    (allLines.flatMap fun l => (l.input.map g).getD []) = allInputs.flatMap g := by
  have hlines : allLines = allInputs.map lineOfInput ++ [.marks, .recall] := rfl
  rw [hlines, List.flatMap_append, List.flatMap_map]
  simp only [lineOfInput_input]
  exact List.append_nil _

/-! ## Stuck timers (R143) -/

/-- The notice of a line's STUCK condition. -/
def stuckRaised (s : State) (i : Fin 71) : List Notice :=
  faultRaised s.params i (conditionClass i .stuck) .begins s.deckTime (s.faults.get i)
    ((s.faults.get i).begins s.params (conditionClass i .stuck) .stuck)

theorem reportStuck_raised (s : State) (l : Line) : Raised ((l.input.map (stuckRaised s)).getD []) s (reportStuck s l) := by
  unfold reportStuck
  split
  · next h =>
    rw [h]
    exact Raised.nil rfl
  · next i h =>
    rw [h]
    exact Raised.of_links (State.modDecoder_links s l _) (reportFault_raised i .stuck .begins _ _)

theorem reportStuck_others (s : State) {l m : Line} (h : m ≠ l) :
    (m.input.map (stuckRaised (reportStuck s l))).getD [] = (m.input.map (stuckRaised s)).getD [] := by
  cases hm : m.input with
  | none => rfl
  | some i =>
    have hline : l ≠ lineOfInput i := fun e => h (e.trans (lineOfInput_of_input hm)).symm
    have hr := RecordsOnly.reportStuck s l
    simp only [Option.map_some, Option.getD_some, stuckRaised, reportStuck_get, if_neg hline, hr.params, hr.deckTime]

theorem expireLines_noticed (s : State) :
    FaultsNoticed
      (allInputs.flatMap fun i =>
        if (s.decoder (lineOfInput i)).stuckDue s.params s.deckTime = true then stuckRaised s i else [])
      s (expireLines allLines s) := by
  have hreports := Raised.foldl reportStuck_raised (fun s l m h => reportStuck_others s h)
    (allLines_nodup.filter fun l => (s.decoder l).stuckDue s.params s.deckTime) s
  rw [flatMap_filter] at hreports
  rw [← allLines_flatMap_input]
  refine .of_reports ?_ (DeckRaises.handServices s s _ _)
  convert hreports using 2
  funext l
  cases hl : l.input with
  | none => simp
  | some i => simp [lineOfInput_of_input hl]

end Sys2Proof.Machine
end

section
/-! The reports of candidates counted in one event (R136, R142, R143, R155): each input's record by itself, the end of STUCK first
and then the change of its line condition. -/

namespace Sys2Proof.Machine

open Sys2Proof

variable {s t u : State}

/-! ## One input -/

/-- A record at the report of a change of line condition (R142). -/
def FaultRecord.lineMoves (p : Params) (i : Fin 71) (now : DeckTime) (old new : Condition) (r : FaultRecord) : FaultRecord :=
  if old = new then r
  else if old = .none then r.begins p (conditionClass i new) new
  else if new = .none then r.ends now
  else r.changesKind new

/-- A record at a change of counted level: the end of STUCK, where it was reported, then the line condition (R142, R143). -/
def FaultRecord.follows (p : Params) (i : Fin 71) (now : DeckTime) (stuck : Bool) (old new : Condition) (r : FaultRecord) :
    FaultRecord :=
  (if stuck = true then endedRecord now r else r).lineMoves p i now old new

theorem reportFault_get (i j : Fin 71) (c : Condition) (k : FaultCause) (f : FaultRecord → FaultRecord) (s : State) :
    (reportFault i c k f s).faults.get j = if j = i then f (s.faults.get i) else s.faults.get j := writeFault_get ..

theorem reportStuckEnd_get (i j : Fin 71) (s : State) :
    (reportStuckEnd i s).faults.get j = if j = i then endedRecord s.deckTime (s.faults.get i) else s.faults.get j := by
  rw [reportStuckEnd, reportFault_get, FaultRecord.ends_eq]

theorem reportLine_get (i j : Fin 71) (old new : Condition) (s : State) :
    (reportLine i old new s).faults.get j =
      if j = i then (s.faults.get i).lineMoves s.params i s.deckTime old new else s.faults.get j := by
  unfold reportLine FaultRecord.lineMoves
  split
  · split <;> simp [*]
  · split
    · exact reportFault_get ..
    · split <;> exact reportFault_get ..

theorem reportLine_raised (i : Fin 71) {old new : Condition} (ho : old ≠ .stuck) (hn : new ≠ .stuck) (s : State) :
    Raised
      (if old = new then []
        else faultRaised s.params i (conditionClass i .short)
          (if old = .none then .begins else if new = .none then .ends else .kind) s.deckTime (s.faults.get i)
          ((reportLine i old new s).faults.get i))
      s (reportLine i old new s) := by
  rw [reportLine_get, if_pos rfl]
  unfold reportLine FaultRecord.lineMoves
  split
  · exact Raised.nil rfl
  · split
    · exact conditionClass_of_line i hn ▸ reportFault_raised i new .begins _ s
    · split
      · exact conditionClass_of_line i ho ▸ reportFault_raised i old .ends _ s
      · exact conditionClass_of_line i hn ▸ reportFault_raised i new .kind _ s

theorem Decoder.condition_ne_stuck (d : Decoder) : d.condition ≠ .stuck := by
  unfold condition
  split <;> simp

/-- The reports of one change of counted level: where the record ends, and what they raise. -/
theorem superviseChange_get (i j : Fin 71) (old new : Decoder) (s : State) :
    (superviseChange i old new s).faults.get j =
      if j = i then
        (s.faults.get i).follows s.params i s.deckTime (old.stuck == .expired) old.condition new.condition
      else s.faults.get j := by
  unfold superviseChange FaultRecord.follows
  by_cases hs : old.stuck = .expired
  · have hr := RecordsOnly.reportFault i .stuck .ends (FaultRecord.ends s.deckTime) s
    have hp : (reportStuckEnd i s).params = s.params := hr.params
    have hd : (reportStuckEnd i s).deckTime = s.deckTime := hr.deckTime
    simp only [hs, if_true, reportLine_get, reportStuckEnd_get, hp, hd, beq_self_eq_true]
    split <;> rfl
  · simp only [hs, if_false, reportLine_get, beq_eq_false_iff_ne.mpr hs, Bool.false_eq_true]

theorem superviseChange_raised (i : Fin 71) (old new : Decoder) (s : State) :
    Raised
      (changeRaised s.params i s.deckTime (old.stuck == .expired) old.condition new.condition (s.faults.get i)
        ((superviseChange i old new s).faults.get i))
      s (superviseChange i old new s) := by
  unfold superviseChange changeRaised
  by_cases hs : old.stuck = .expired
  · have hr := RecordsOnly.reportFault i .stuck .ends (FaultRecord.ends s.deckTime) s
    have hp : (reportStuckEnd i s).params = s.params := hr.params
    have hd : (reportStuckEnd i s).deckTime = s.deckTime := hr.deckTime
    have hget : (reportStuckEnd i s).faults.get i = endedRecord s.deckTime (s.faults.get i) := by
      rw [reportStuckEnd_get, if_pos rfl]
    have hend := reportFault_raised i .stuck .ends (FaultRecord.ends s.deckTime) s
    have hline := reportLine_raised i old.condition_ne_stuck new.condition_ne_stuck (reportStuckEnd i s)
    rw [FaultRecord.ends_eq] at hend
    rw [hp, hd, hget] at hline
    simp only [hs, if_true, beq_self_eq_true]
    exact hend.append hline
  · simp only [hs, if_false, beq_eq_false_iff_ne.mpr hs, Bool.false_eq_true, List.nil_append]
    exact reportLine_raised i old.condition_ne_stuck new.condition_ne_stuck s

/-! ## One line -/

/-- An input's record when its line's candidate, if there is one, is counted. -/
def countedRecord (s : State) (i : Fin 71) : FaultRecord :=
  match (s.decoder (lineOfInput i)).candidate with
  | none => s.faults.get i
  | some c =>
    (s.faults.get i).follows s.params i s.deckTime ((s.decoder (lineOfInput i)).stuck == .expired)
      (levelCondition (s.decoder (lineOfInput i)).counted) (levelCondition c.level)

/-- What the counting of its line's candidate reports of an input. -/
def countedRaised (s : State) (i : Fin 71) : List Notice :=
  match (s.decoder (lineOfInput i)).candidate with
  | none => []
  | some c =>
    changeRaised s.params i s.deckTime ((s.decoder (lineOfInput i)).stuck == .expired)
      (levelCondition (s.decoder (lineOfInput i)).counted) (levelCondition c.level) (s.faults.get i) (countedRecord s i)

theorem countLine_of_none {l : Line} (h : (s.decoder l).candidate = none) : countLine s l = s := by
  simp only [countLine, h]

theorem countLine_of_noInput {l : Line} (h : l.input = none) :
    (countLine s l).faults = s.faults ∧ (countLine s l).links = s.links := by
  unfold countLine
  simp only [h]
  split <;> exact ⟨rfl, rfl⟩

theorem countLine_of_some (i : Fin 71) {c : Candidate} (h : (s.decoder (lineOfInput i)).candidate = some c) :
    countLine s (lineOfInput i) =
      superviseChange i (s.decoder (lineOfInput i)) ((s.decoder (lineOfInput i)).count (lineOfInput i) c)
        (s.modDecoder (lineOfInput i) (Decoder.count (lineOfInput i) c)) := by
  simp only [countLine, h, lineOfInput_input]

theorem countLine_input_get (s : State) (i j : Fin 71) :
    (countLine s (lineOfInput i)).faults.get j = if j = i then countedRecord s i else s.faults.get j := by
  cases h : (s.decoder (lineOfInput i)).candidate with
  | none =>
    simp only [countedRecord, h, countLine_of_none h]
    split <;> simp [*]
  | some c =>
    simp only [countedRecord, h, countLine_of_some i h, superviseChange_get, Decoder.condition_eq]
    rfl

theorem countLine_input_raised (s : State) (i : Fin 71) : Raised (countedRaised s i) s (countLine s (lineOfInput i)) := by
  have hget := countLine_input_get s i i
  rw [if_pos rfl] at hget
  unfold countedRaised
  rw [← hget]
  split
  · next h =>
    rw [countLine_of_none h]
    exact Raised.nil rfl
  · next c h =>
    have hraised := superviseChange_raised i (s.decoder (lineOfInput i))
      ((s.decoder (lineOfInput i)).count (lineOfInput i) c)
      (s.modDecoder (lineOfInput i) (Decoder.count (lineOfInput i) c))
    rw [Decoder.condition_eq, Decoder.condition_eq] at hraised
    rw [countLine_of_some i h]
    exact Raised.of_links (State.modDecoder_links s _ _) hraised

theorem countLine_get (s : State) (l : Line) (j : Fin 71) :
    (countLine s l).faults.get j = if l = lineOfInput j then countedRecord s j else s.faults.get j := by
  cases h : l.input with
  | none =>
    rw [(countLine_of_noInput h).1, if_neg]
    rintro rfl
    rw [lineOfInput_input] at h
    cases h
  | some i =>
    obtain rfl := lineOfInput_of_input h
    rw [countLine_input_get]
    by_cases hj : j = i
    · rw [hj, if_pos rfl, if_pos rfl]
    · rw [if_neg hj, if_neg fun e => hj ?_]
      have := congrArg Line.input e
      rw [lineOfInput_input, lineOfInput_input] at this
      exact (Option.some.inj this).symm

theorem countLine_raised (s : State) (l : Line) : Raised ((l.input.map (countedRaised s)).getD []) s (countLine s l) := by
  cases h : l.input with
  | none => exact Raised.nil (countLine_of_noInput h).2
  | some i =>
    obtain rfl := lineOfInput_of_input h
    exact countLine_input_raised s i

theorem countLine_decoder_ne (s : State) {l m : Line} (h : m ≠ l) : (countLine s l).decoder m = s.decoder m := by
  have hd := countLines_decoder [l] (List.nodup_singleton l) s m
  rwa [if_neg (by simpa using h)] at hd

/-- Another line's counting finds an input as it was. -/
theorem countLine_keeps (s : State) {l : Line} {i : Fin 71} (h : l ≠ lineOfInput i) :
    countedRecord (countLine s l) i = countedRecord s i ∧ countedRaised (countLine s l) i = countedRaised s i := by
  have hr := RecordsOnly.countLine s l
  have hrecord : countedRecord (countLine s l) i = countedRecord s i := by
    simp only [countedRecord, countLine_decoder_ne s h.symm, countLine_get, if_neg h, hr.params, hr.deckTime]
  refine ⟨hrecord, ?_⟩
  simp only [countedRaised, hrecord, countLine_decoder_ne s h.symm, countLine_get, if_neg h, hr.params, hr.deckTime]

/-! ## The lines of one event -/

theorem countLines_get {ls : List Line} (hd : ls.Nodup) (s : State) (j : Fin 71) :
    (ls.foldl countLine s).faults.get j = if lineOfInput j ∈ ls then countedRecord s j else s.faults.get j := by
  induction ls generalizing s with
  | nil => rfl
  | cons l ls ih =>
    obtain ⟨hl, hs⟩ := List.nodup_cons.mp hd
    rw [List.foldl_cons, ih hs, countLine_get]
    by_cases h : l = lineOfInput j
    · subst h
      simp [hl]
    · simp [h, Ne.symm h, (countLine_keeps s h).1]

theorem countLines_raised {ls : List Line} (hd : ls.Nodup) (s : State) :
    Raised (ls.flatMap fun l => (l.input.map (countedRaised s)).getD []) s (ls.foldl countLine s) := by
  refine Raised.foldl (notices := fun s l => (l.input.map (countedRaised s)).getD []) countLine_raised
    (fun s l m h => ?_) hd s
  cases hm : m.input with
  | none => rfl
  | some i =>
    obtain rfl := lineOfInput_of_input hm
    exact (countLine_keeps s h.symm).2

theorem completeLines_get (ls : List Line) (hd : ls.Nodup) (s : State) (j : Fin 71) :
    (completeLines ls s).faults.get j =
      if lineOfInput j ∈ ls ∧
          (s.decoder (lineOfInput j)).candidateDue s.params (lineOfInput j) s.deckTime = true then countedRecord s j
      else s.faults.get j := by
  have hcounted := countLines_get (hd.filter fun l => (s.decoder l).candidateDue s.params l s.deckTime) s j
  rw [completeLines, handServices_faults]
  split
  · rw [(RaceOnly.handTogether s _ _).faults, hcounted]
    simp only [List.mem_filter]
  · rw [(RaceOnly.handEvents s _ _).faults, hcounted]
    simp only [List.mem_filter]

/-- The reports of the candidates that complete come first, in input order (R155). -/
theorem completeLines_noticed (w : Line → Bool) (s : State) :
    FaultsNoticed
      (allInputs.flatMap fun i =>
        if w (lineOfInput i) = true ∧
            (s.decoder (lineOfInput i)).candidateDue s.params (lineOfInput i) s.deckTime = true then countedRaised s i
        else [])
      s (completeLines (allLines.filter w) s) := by
  have hreports := countLines_raised
    ((allLines_nodup.filter w).filter fun l => (s.decoder l).candidateDue s.params l s.deckTime) s
  rw [flatMap_filter, flatMap_filter] at hreports
  refine .of_reports (u := ((allLines.filter w).filter
    fun l => (s.decoder l).candidateDue s.params l s.deckTime).foldl countLine s) ?_ ?_
  · rw [← allLines_flatMap_input]
    convert hreports using 2
    funext l
    cases hl : l.input with
    | none => simp
    | some i =>
      obtain rfl := lineOfInput_of_input hl
      by_cases hw : w (lineOfInput i) = true <;> simp [hw]
  · refine .trans ?_ (DeckRaises.handServices s _ _ _)
    split
    · exact DeckRaises.handTogether s _ _
    · exact DeckRaises.handEvents s _ _

end Sys2Proof.Machine
end

section
/-! What the owners of fault records and decoders do with a new value, and what they report (R138, R143, R153, R155, R159). -/

namespace Sys2Proof.Machine

open Sys2Proof

variable {p : ParamId} {v : Int} {s t u : State}

/-! ## The value written -/

/-- The state as the owners of a new value find it: nothing of theirs but the value has moved. -/
structure ValueWritten (p : ParamId) (v : Int) (s u : State) : Prop where
  params : u.params = s.params.write p v
  deckTime : u.deckTime = s.deckTime
  heat : u.heat = s.heat
  decoders : u.decoders = s.decoders
  faults : u.faults = s.faults

theorem ValueWritten.decoder (h : ValueWritten p v s u) (l : Line) : u.decoder l = s.decoder l := by
  rw [State.decoder, h.decoders]
  rfl

/-! ## The owner of each parameter -/

/-- The five deglitch times (R137). -/
abbrev deglitchTimes : List ParamId := [.touchDeglitch, .platformDeglitch, .buttonDeglitch, .starterDeglitch, .lineDeglitch]

theorem parameterWritten_mode {c : FaultClass} (h : p.faultClass = some c) (s : State) :
    parameterWritten p s = modeWritten c s := by
  cases p <;> cases h <;> rfl

theorem parameterWritten_deglitch (h : p ∈ deglitchTimes) (s : State) : parameterWritten p s = deglitchWritten p s := by
  simp only [List.mem_cons, List.not_mem_nil, or_false] at h
  rcases h with rfl | rfl | rfl | rfl | rfl <;> rfl

/-- A parameter outside these groups moves no record and no decoder. -/
structure ActsOnNoRecord (p : ParamId) : Prop where
  noMode : p.faultClass = none
  noSlowRetry : p ≠ .slowRetry
  noFastRetry : p ≠ .fastRetry
  noStuckTime : p ≠ .stuckTime
  noDeglitch : p ∉ deglitchTimes

/-! ## A class mode (R159) -/

theorem modeWritten_get (c : FaultClass) (s : State) (i : Fin 71) :
    (modeWritten c s).faults.get i = modeWrittenRecord s.params c i s.deckTime (s.faults.get i) := by
  rw [modeWritten, moveFaults_get _ allInputs_nodup, if_pos (mem_allInputs i), FaultRecord.changesMode_eq]

theorem modeWritten_noticed {c : FaultClass} (hp : p.faultClass = some c) (h : ValueWritten p v s u) :
    FaultsNoticed (allInputs.flatMap (writeRaised p v s (modeWritten c u))) u (modeWritten c u) := by
  have hparams : (modeWritten c u).params = u.params := (Supervises.moveFaults allInputs _ _ _ _ u).params
  have hraised : ∀ i, writeRaised p v s (modeWritten c u) i =
      faultRaised u.params i c .mode u.deckTime (u.faults.get i)
        ((u.faults.get i).changesMode u.params i c u.deckTime) := fun i => by
    have hretry : ¬(p = .slowRetry ∨ p = .fastRetry) := by rintro (rfl | rfl) <;> cases hp
    have hstuck : p ≠ .stuckTime := by rintro rfl; cases hp
    simp only [writeRaised, if_neg hretry, if_neg hstuck, hp, modeWritten_get, FaultRecord.changesMode_eq, hparams,
      h.deckTime, h.faults]
  rw [List.flatMap_congr fun i _ => hraised i]
  exact moveFaults_noticed allInputs_nodup _ _ .mode u

/-! ## A retry time (R153) -/

/-- The retry time of a mode. -/
def RetryTimeOf (p : ParamId) (m : ClassMode) : Prop := (p = .slowRetry ∧ m = .retrySlow) ∨ (p = .fastRetry ∧ m = .retryFast)

theorem RetryTimeOf.written {m : ClassMode} (h : RetryTimeOf p m) (s : State) : parameterWritten p s = retryWritten m s := by
  obtain ⟨rfl, rfl⟩ | ⟨rfl, rfl⟩ := h <;> rfl

theorem RetryTimeOf.faultClass {m : ClassMode} (h : RetryTimeOf p m) : p.faultClass = none := by
  obtain ⟨rfl, -⟩ | ⟨rfl, -⟩ := h <;> rfl

theorem timedUnder_nodup (m : ClassMode) (s : State) : (timedUnder m s).Nodup := allInputs_nodup.filter _

theorem mem_timedUnder {m : ClassMode} {i : Fin 71} :
    i ∈ timedUnder m s ↔ ∃ c, (s.faults.get i).serviceClass = some c ∧ s.params.mode c = m := by
  simp [timedUnder, mem_allInputs, Option.any_eq_true]

theorem retryWritten_get (m : ClassMode) (s : State) (i : Fin 71) :
    (retryWritten m s).faults.get i =
      if i ∈ timedUnder m s ∧ retryRunOut s.params s.deckTime (s.faults.get i) = true then
        (s.faults.get i).expires s.params i
      else s.faults.get i := by
  rw [retryWritten, expireRetries_get _ (timedUnder_nodup m s), FaultRecord.retryDue_eq]

theorem retryWritten_noticed {m : ClassMode} (hp : RetryTimeOf p m) (h : ValueWritten p v s u) :
    FaultsNoticed (allInputs.flatMap (writeRaised p v s (retryWritten m u))) u (retryWritten m u) := by
  have hparams : (retryWritten m u).params = u.params := (Supervises.moveFaults _ _ _ _ _ u).params
  have hwritten : p = .slowRetry ∨ p = .fastRetry := hp.imp And.left And.left
  have hreports := moveFaults_noticed ((timedUnder_nodup m u).filter fun i => (u.faults.get i).retryDue u.params u.deckTime)
    (fun i r => r.expires u.params i) FaultRecord.classOf .retryExpiry u
  rw [flatMap_filter, timedUnder, flatMap_filter] at hreports
  refine Eq.mp (congrArg (FaultsNoticed · u _) (List.flatMap_congr fun i _ => ?_)) hreports
  simp only [writeRaised, if_pos hwritten, retryWritten_get, mem_timedUnder, hparams, FaultRecord.retryDue_eq,
    ← h.deckTime, ← h.faults]
  cases hc : (u.faults.get i).serviceClass with
  | none => simp
  | some c =>
    have hclass : (u.faults.get i).classOf i = c := by rw [FaultRecord.classOf, hc]; rfl
    by_cases hm : u.params.mode c = m <;>
      by_cases hrun : retryRunOut u.params u.deckTime (u.faults.get i) = true <;>
        simp [hm, hrun, hclass, faultRaised_same]

/-! ## StuckTime (R143) -/

/-- Whether a decoder's stuck timer has run for the time written. -/
theorem stuckDue_written (h : ValueWritten .stuckTime v s u) (l : Line) :
    (u.decoder l).stuckDue u.params u.deckTime = true ↔
      (s.decoder l).stuck = .running ∧ v ≤ elapsed (s.decoder l).since s.deckTime := by
  have hv : u.params.stuckTime = v.toNat := by rw [h.params]; rfl
  rw [h.decoder, h.deckTime, Decoder.stuckDue, hv, Bool.and_eq_true, beq_iff_eq, decide_eq_true_eq, Int.toNat_le]

theorem stuckWritten_noticed (h : ValueWritten .stuckTime v s u) :
    FaultsNoticed (allInputs.flatMap (writeRaised .stuckTime v s (stuckWritten u))) u (stuckWritten u) := by
  have hparams : (stuckWritten u).params = u.params := (Supervises.expireLines allLines u).params
  refine Eq.mp (congrArg (FaultsNoticed · u _) (List.flatMap_congr fun i _ => ?_)) (expireLines_noticed u)
  have hget := expireLines_get allLines allLines_nodup u i
  rw [← stuckWritten] at hget
  simp only [mem_allLines, true_and] at hget
  simp only [writeRaised, hget, hparams, stuckRaised, ← h.deckTime, ← h.faults]
  by_cases hdue : (u.decoder (lineOfInput i)).stuckDue u.params u.deckTime = true <;> simp [hdue, faultRaised_same]

/-! ## A deglitch time (R138) -/

/-- A candidate waits for the time written and has lasted it. -/
theorem completes_written (hp : p.admits v = true) (h : ValueWritten p v s u) (l : Line) :
    (waitsFor p u l = true ∧ (u.decoder l).candidateDue u.params l u.deckTime = true) ↔
      ∃ c, (s.decoder l).candidate = some c ∧ deglitchParam l (s.decoder l).counted c.level = p ∧
        v ≤ elapsed c.since s.deckTime := by
  rw [waitsFor, h.decoder, h.deckTime, Decoder.candidateDue]
  cases (s.decoder l).candidate with
  | none => simp
  | some c =>
    have hv : u.params.value p = v := by rw [h.params, Params.write_value_same _ hp]
    simp only [Option.any_some, beq_iff_eq, decide_eq_true_eq, Option.some.injEq, exists_eq_left']
    refine and_congr_right fun hl => ?_
    rw [Params.deglitch, hl, hv, Int.toNat_le]

theorem countsAtWrite_some {l : Line} {c : Candidate} (hc : (s.decoder l).candidate = some c) :
    countsAtWrite p v s l =
      if deglitchParam l (s.decoder l).counted c.level = p ∧ v ≤ elapsed c.since s.deckTime then some c.level else none := by
  rw [countsAtWrite, hc]
  rfl

theorem countsAtWrite_none {l : Line} (hc : (s.decoder l).candidate = none) : countsAtWrite p v s l = none := by
  rw [countsAtWrite, hc]
  rfl

theorem deglitchWritten_get (hp : p.admits v = true) (h : ValueWritten p v s u) (i : Fin 71) :
    (deglitchWritten p u).faults.get i =
      if (countsAtWrite p v s (lineOfInput i)).isSome = true then countedRecord u i else u.faults.get i := by
  have hiff : (countsAtWrite p v s (lineOfInput i)).isSome = true ↔
      ∃ c, (s.decoder (lineOfInput i)).candidate = some c ∧
        deglitchParam (lineOfInput i) (s.decoder (lineOfInput i)).counted c.level = p ∧ v ≤ elapsed c.since s.deckTime := by
    cases hc : (s.decoder (lineOfInput i)).candidate with
    | none => simp [countsAtWrite_none hc]
    | some c => simp [countsAtWrite_some hc]
  rw [deglitchWritten, completeLines_get _ (allLines_nodup.filter _)]
  refine if_congr (Iff.trans ?_ hiff.symm) rfl rfl
  rw [← completes_written hp h]
  simp only [List.mem_filter, mem_allLines, true_and]

theorem deglitchWritten_noticed (hd : p ∈ deglitchTimes) (hp : p.admits v = true) (h : ValueWritten p v s u) :
    FaultsNoticed (allInputs.flatMap (writeRaised p v s (deglitchWritten p u))) u (deglitchWritten p u) := by
  have hparams : (deglitchWritten p u).params = u.params := (Supervises.completeLines _ u).params
  have hretry : ¬(p = .slowRetry ∨ p = .fastRetry) := by rintro (rfl | rfl) <;> simp at hd
  have hstuck : p ≠ .stuckTime := by rintro rfl; simp at hd
  have hclass : p.faultClass = none := by
    simp only [List.mem_cons, List.not_mem_nil, or_false] at hd
    rcases hd with rfl | rfl | rfl | rfl | rfl <;> rfl
  refine Eq.mp (congrArg (FaultsNoticed · u _) (List.flatMap_congr fun i _ => ?_)) (completeLines_noticed (waitsFor p u) u)
  simp only [completes_written hp h, writeRaised, if_neg hretry, if_neg hstuck, hclass, deglitchWritten_get hp h, hparams,
    ← h.deckTime, ← h.faults]
  cases hc : (s.decoder (lineOfInput i)).candidate with
  | none => simp [countsAtWrite_none hc]
  | some c =>
    rw [countsAtWrite_some hc, ← h.deckTime]
    simp only [countedRaised, h.decoder, hc, Option.some.injEq, exists_eq_left']
    split <;> rfl

end Sys2Proof.Machine
end

section
/-! SET PARAMETER (R184): the write, its notice, what the owners do, and what the request leaves of the hub. -/

namespace Sys2Proof.Machine

open Sys2Proof

variable {l : Link} {tag : Byte} {p : ParamId} {w : Word32} {v : Int} {s t u : State}

/-! ## The owners of a new value -/

theorem autoAdvanceWritten_keeps (s : State) :
    (autoAdvanceWritten s).faults = s.faults ∧ (autoAdvanceWritten s).decoders = s.decoders ∧
      (autoAdvanceWritten s).links = s.links := by
  unfold autoAdvanceWritten
  split
  · split
    · exact ⟨rfl, rfl, rfl⟩
    · split <;> exact ⟨rfl, rfl, rfl⟩
  · exact ⟨rfl, rfl, rfl⟩

/-- Of these parameters AutoAdvance alone has an owner that acts at the write, and it acts on the race (R24). -/
theorem ActsOnNoRecord.written (hp : ActsOnNoRecord p) (s : State) :
    parameterWritten p s = if p = .autoAdvance then autoAdvanceWritten s else s := by
  obtain ⟨hmode, hslow, hfast, hstuck, hdeglitch⟩ := hp
  cases p
  case padLineMode | padStuckMode | platformLineMode | buttonStuckMode | startLineMode | linkFrameMode => cases hmode
  case slowRetry => exact absurd rfl hslow
  case fastRetry => exact absurd rfl hfast
  case stuckTime => exact absurd rfl hstuck
  case touchDeglitch | platformDeglitch | buttonDeglitch | starterDeglitch | lineDeglitch => simp at hdeglitch
  all_goals rfl

theorem ActsOnNoRecord.keeps (hp : ActsOnNoRecord p) (s : State) :
    (parameterWritten p s).faults = s.faults ∧ (parameterWritten p s).decoders = s.decoders ∧
      (parameterWritten p s).links = s.links := by
  rw [hp.written]
  split
  · exact autoAdvanceWritten_keeps s
  · exact ⟨rfl, rfl, rfl⟩

theorem ActsOnNoRecord.writeRaised_eq (hp : ActsOnNoRecord p) (v : Int) (s t : State) (i : Fin 71) :
    writeRaised p v s t i = [] := by
  have hcounts : countsAtWrite p v s (lineOfInput i) = none := by
    cases hc : (s.decoder (lineOfInput i)).candidate with
    | none => exact countsAtWrite_none hc
    | some c =>
      rw [countsAtWrite_some hc, if_neg]
      rintro ⟨he, -⟩
      exact hp.noDeglitch (he ▸ deglitchParam_mem _ _ _)
  simp only [writeRaised, if_neg (not_or_intro hp.noSlowRetry hp.noFastRetry), if_neg hp.noStuckTime, hp.noMode, hcounts]

/-- Who owns the records and timers that a parameter's write concerns. -/
theorem parameter_owner (p : ParamId) :
    (∃ c, p.faultClass = some c) ∨ (∃ m, RetryTimeOf p m) ∨ p = .stuckTime ∨ p ∈ deglitchTimes ∨ ActsOnNoRecord p := by
  by_cases hmode : p.faultClass = none
  · by_cases hslow : p = .slowRetry
    · exact .inr (.inl ⟨_, .inl ⟨hslow, rfl⟩⟩)
    by_cases hfast : p = .fastRetry
    · exact .inr (.inl ⟨_, .inr ⟨hfast, rfl⟩⟩)
    by_cases hstuck : p = .stuckTime
    · exact .inr (.inr (.inl hstuck))
    by_cases hdeglitch : p ∈ deglitchTimes
    · exact .inr (.inr (.inr (.inl hdeglitch)))
    exact .inr (.inr (.inr (.inr ⟨hmode, hslow, hfast, hstuck, hdeglitch⟩)))
  · exact .inl (Option.ne_none_iff_exists'.mp hmode)

/-- The reports of a write, in input order and before any other notice (R155). -/
theorem parameterWritten_noticed (hp : p.admits v = true) (h : ValueWritten p v s u) :
    FaultsNoticed (allInputs.flatMap (writeRaised p v s (parameterWritten p u))) u (parameterWritten p u) := by
  rcases parameter_owner p with ⟨c, hc⟩ | ⟨m, hm⟩ | rfl | hd | hn
  · rw [parameterWritten_mode hc]
    exact modeWritten_noticed hc h
  · rw [hm.written]
    exact retryWritten_noticed hm h
  · exact stuckWritten_noticed h
  · rw [parameterWritten_deglitch hd]
    exact deglitchWritten_noticed hd hp h
  · rw [List.flatMap_eq_nil_iff.mpr fun i _ => hn.writeRaised_eq v s _ i]
    exact ⟨[], Raised.nil (hn.keeps u).2.2, fun q hq => absurd hq List.not_mem_nil⟩

/-! ## The records and decoders behind a write -/

theorem retryWritten_follows {m : ClassMode} (hm : RetryTimeOf p m) (h : ValueWritten p v s u) (i : Fin 71) :
    (∀ c, (s.faults.get i).serviceClass = some c → s.params.mode c = m →
      retryRunOut (s.params.write p v) s.deckTime (s.faults.get i) = true →
      (retryWritten m u).faults.get i = judgedOnClear s.params i c (clearRecord (s.faults.get i))) ∧
    ((s.faults.get i).serviceClass.map s.params.mode ≠ some m ∨
        retryRunOut (s.params.write p v) s.deckTime (s.faults.get i) = false →
      (retryWritten m u).faults.get i = s.faults.get i) := by
  have hmode : ∀ c, u.params.mode c = s.params.mode c := fun c => by rw [h.params, Params.write_mode_of_none _ hm.faultClass]
  have htimed : i ∈ timedUnder m u ↔ (s.faults.get i).serviceClass.map s.params.mode = some m := by
    simp only [mem_timedUnder, h.faults, hmode, Option.map_eq_some_iff]
  simp only [retryWritten_get, htimed, h.faults, h.deckTime, ← h.params]
  refine ⟨fun c hc hcm hrun => ?_, fun hnot => if_neg ?_⟩
  · rw [if_pos ⟨by rw [hc, Option.map_some, hcm], hrun⟩, FaultRecord.expires_eq _ _ hc, judgedOnClear_congr hmode]
  · rintro ⟨hin, hrun⟩
    rcases hnot with hout | hstill
    · exact hout hin
    · rw [hrun] at hstill
      cases hstill

theorem input_of_hasStuckTimer {l : Line} (h : l.hasStuckTimer = true) :
    ∃ i, l.input = some i ∧ conditionClass i .stuck = stuckClass l := by
  have hall : ∀ m ∈ allLines, m.hasStuckTimer = true → m.input.isSome = true := by decide +kernel
  obtain ⟨i, hi⟩ := Option.isSome_iff_exists.mp (hall l (mem_allLines l) h)
  refine ⟨i, hi, ?_⟩
  rw [conditionClass, lineOfInput_of_input hi]
  match l, h with
  | .pad _ _, _ => rfl
  | .button _ _, _ => rfl

theorem stuckWritten_follows (h : ValueWritten .stuckTime v s u) (l : Line) :
    ((s.decoder l).stuck = .running → v ≤ elapsed (s.decoder l).since s.deckTime → l.hasStuckTimer = true →
      (stuckWritten u).decoder l = { s.decoder l with stuck := .expired } ∧
        ∀ i, l.input = some i → (s.faults.get i).state ≠ .reporting → (s.faults.get i).state ≠ .retryWait →
          (stuckWritten u).faults.get i =
            beganRecord (s.params.mode (stuckClass l)) (stuckClass l) .stuck (s.faults.get i)) ∧
    ((s.decoder l).stuck ≠ .running ∨ elapsed (s.decoder l).since s.deckTime < v →
      (stuckWritten u).decoder l = s.decoder l ∧
        ∀ i, l.input = some i → (stuckWritten u).faults.get i = s.faults.get i) := by
  have hdue := stuckDue_written h l
  have hdecoder := expireLines_decoder allLines allLines_nodup u l
  have hget := expireLines_get allLines allLines_nodup u
  simp only [mem_allLines, true_and] at hdecoder hget
  rw [← stuckWritten] at hdecoder hget
  refine ⟨fun hrun hlong htimer => ?_, fun hnot => ?_⟩
  · obtain ⟨i, hi, hclass⟩ := input_of_hasStuckTimer htimer
    have hnow := hdue.mpr ⟨hrun, hlong⟩
    refine ⟨by rw [hdecoder, if_pos ⟨hnow, by rw [hi]; rfl⟩, h.decoder], fun j hj hrep hwait => ?_⟩
    obtain rfl : i = j := Option.some.inj (hi.symm.trans hj)
    have hmode : u.params.mode (stuckClass l) = s.params.mode (stuckClass l) := by
      rw [h.params, Params.write_mode_of_none _ rfl]
    rw [hget, lineOfInput_of_input hi, if_pos hnow, h.faults, hclass, FaultRecord.begins_eq _ _ hrep hwait, hmode]
  · have hnow : ¬(u.decoder l).stuckDue u.params u.deckTime = true := fun hd => by
      obtain ⟨hrun, hlong⟩ := hdue.mp hd
      exact hnot.elim (fun hn => hn hrun) fun hlt => by omega
    refine ⟨by rw [hdecoder, if_neg fun hc => hnow hc.1, h.decoder], fun i hi => ?_⟩
    rw [hget, lineOfInput_of_input hi, if_neg hnow, h.faults]

theorem deglitchWritten_follows (hp : p.admits v = true) (h : ValueWritten p v s u) (l : Line) :
    (∀ c, (s.decoder l).candidate = some c → deglitchParam l (s.decoder l).counted c.level = p →
      v ≤ elapsed c.since s.deckTime → (deglitchWritten p u).decoder l = (countedAt l c.level c.since s).decoder l) ∧
    ((∀ c, (s.decoder l).candidate = some c → deglitchParam l (s.decoder l).counted c.level = p →
        elapsed c.since s.deckTime < v) → (deglitchWritten p u).decoder l = s.decoder l) := by
  have hdecoder := completeLines_decoder (allLines.filter (waitsFor p u)) (allLines_nodup.filter _) u l
  simp only [List.mem_filter, mem_allLines, true_and, completes_written hp h] at hdecoder
  rw [← deglitchWritten, h.decoder] at hdecoder
  refine ⟨fun c hc hwaits hlong => ?_, fun hshort => ?_⟩
  · rw [hdecoder, if_pos ⟨c, hc, hwaits, hlong⟩, countedAt, State.modDecoder_decoder, if_pos rfl, Decoder.counts, hc]
    rfl
  · rw [hdecoder, if_neg]
    rintro ⟨c, hc, hwaits, hlong⟩
    have := hshort c hc hwaits
    omega

/-- The owners of a new value move the records and decoders it concerns, each by its rule. -/
theorem parameterWritten_follows (hp : p.admits v = true) (h : ValueWritten p v s u) :
    OwnersFollow p v s (parameterWritten p u) where
  modes c hc i := by rw [parameterWritten_mode hc, modeWritten_get, h.params, h.deckTime, h.faults]
  retries m hm := by
    have hm : RetryTimeOf p m := hm
    rw [hm.written]
    exact ⟨(expireRetries_heat _ (timedUnder_nodup m u) u).trans h.heat, retryWritten_follows hm h⟩
  stuck hst := by
    subst hst
    exact stuckWritten_follows h
  deglitch hd := by
    rw [parameterWritten_deglitch hd]
    exact deglitchWritten_follows hp h
  others hmode hslow hfast hstuck hdeglitch := by
    obtain ⟨hfaults, hdecoders, -⟩ := ActsOnNoRecord.keeps ⟨hmode, hslow, hfast, hstuck, hdeglitch⟩ u
    exact ⟨hfaults.trans h.faults, hdecoders.trans h.decoders⟩

/-- What no more moves records, decoders or the race leaves the owners' work. -/
theorem OwnersFollow.congr (h : OwnersFollow p v s t) (hfaults : u.faults = t.faults) (hdecoders : u.decoders = t.decoders)
    (hheat : p ≠ .raceTimeLimit → u.heat = t.heat) : OwnersFollow p v s u := by
  have hdecoder : ∀ l, u.decoder l = t.decoder l := fun l => by rw [State.decoder, hdecoders]; rfl
  obtain ⟨hmodes, hretries, hstuck, hdeglitch, hothers⟩ := h
  refine ⟨?_, ?_, ?_, ?_, ?_⟩
  · simpa only [hfaults] using hmodes
  · intro m hm
    rw [hheat (by rintro rfl; rcases hm with ⟨⟨⟩, -⟩ | ⟨⟨⟩, -⟩), hfaults]
    exact hretries m hm
  · simpa only [hfaults, hdecoder] using hstuck
  · simpa only [hdecoder] using hdeglitch
  · simpa only [hfaults, hdecoders] using hothers

end Sys2Proof.Machine
end

section
/-! SET PARAMETER as a request (R179, R184): the table, the notice, the answer, and all that stays. -/

namespace Sys2Proof.Machine

open Sys2Proof

variable {l : Link} {tag : Byte} {p : ParamId} {w : Word32} {v : Int} {s t u : State}

/-! ## What stays -/

/-- The hub but for the race, the records and the notices. -/
structure KeepsHub (s t : State) : Prop where
  params : t.params = s.params
  phase : t.phase = s.phase
  deckTime : t.deckTime = s.deckTime
  queue : t.queue = s.queue
  linkFaults : t.linkFaults = s.linkFaults
  resetn : t.resetn = s.resetn
  resetPending : t.resetPending = s.resetPending
  pending : t.pending = s.pending
  outgoing : ∀ k, (t.links.get k).outgoing = (s.links.get k).outgoing

theorem Clu.Kept.outgoing {c d : Clu} (h : Kept c d) : d.outgoing = c.outgoing := by
  rw [Clu.outgoing, h.flight, h.answers, Clu.outgoing]

namespace KeepsHub

theorem refl (s : State) : KeepsHub s s := ⟨rfl, rfl, rfl, rfl, rfl, rfl, rfl, rfl, fun _ => rfl⟩

theorem trans (h : KeepsHub s t) (k : KeepsHub t u) : KeepsHub s u where
  params := k.params.trans h.params
  phase := k.phase.trans h.phase
  deckTime := k.deckTime.trans h.deckTime
  queue := k.queue.trans h.queue
  linkFaults := k.linkFaults.trans h.linkFaults
  resetn := k.resetn.trans h.resetn
  resetPending := k.resetPending.trans h.resetPending
  pending := k.pending.trans h.pending
  outgoing m := (k.outgoing m).trans (h.outgoing m)

theorem of_owned (h : Owned s t) (k : Supervises s t) : KeepsHub s t where
  params := k.params
  phase := h.phase
  deckTime := h.deckTime
  queue := k.queue
  linkFaults := k.linkFaults
  resetn := h.resetn
  resetPending := k.resetPending
  pending := h.pending
  outgoing m := Clu.Kept.outgoing (h.links m)

theorem settle (s : State) : KeepsHub s (Machine.settle s) :=
  { refl s with
    outgoing := fun m => by rw [settle_links, PerLink.get_map, arbitrate_outgoing] }

theorem overtime (s : State) : KeepsHub s (event overtimeIfDue s) := by
  unfold event
  split
  · have hrace := RaceOnly.overtimeIfDue s
    exact (of_owned hrace.owned (.of_raceOnly hrace)).trans (settle _)
  · exact refl s

theorem followedByOvertime (b s : State) : KeepsHub s (Machine.followedByOvertime b s) := by
  unfold Machine.followedByOvertime
  split
  · exact overtime s
  · exact refl s

end KeepsHub

theorem event_overtime_records (s : State) :
    (event overtimeIfDue s).faults = s.faults ∧ (event overtimeIfDue s).decoders = s.decoders := by
  unfold event
  split
  · exact ⟨(RaceOnly.overtimeIfDue s).faults, (RaceOnly.overtimeIfDue s).decoders⟩
  · exact ⟨rfl, rfl⟩

/-! ## The owner's reply -/

/-- The value in the table and its notice raised, before the owners act. -/
def valueNoticed (l : Link) (p : ParamId) (v : Int) (s : State) : State :=
  raise (.parameterChanged p (s.params.value p) v l) { counted l s with params := s.params.write p v }

theorem valueNoticed_written (l : Link) (p : ParamId) (v : Int) (s : State) : ValueWritten p v s (valueNoticed l p v s) :=
  ⟨rfl, rfl, rfl, rfl, rfl⟩

theorem writeParameter_same (h : v = s.params.value p) : writeParameter l p v (counted l s) = valueNoticed l p v s :=
  if_pos h.symm

theorem writeParameter_new (h : v ≠ s.params.value p) :
    writeParameter l p v (counted l s) = parameterWritten p (valueNoticed l p v s) :=
  if_neg h.symm

/-- The answer of a taken write. -/
abbrev writeAnswer (p : ParamId) (v : Int) (s : State) : List Byte := le4Int (s.params.value p) ++ le4Int v

theorem exec_setParameter_of_reply {r : Result} {data : List Byte} (htakes : Takes l s)
    (hr : performSetParameter l (byteOf p.code) w (counted l s) = ⟨t, r, data⟩) :
    exec (.setParameter l tag (byteOf p.code) w) s = .next (followedByOvertime s (answered l tag 0x17 r data t)) :=
  congrArg (fun u => Host.Outcome.next (followedByOvertime s u)) (arrive_of_reply htakes hr)

theorem exec_setParameter_admitted (htakes : Takes l s) (hw : decodeParamValue p w = some v) (hv : p.admits v = true) :
    exec (.setParameter l tag (byteOf p.code) w) s =
      .next (followedByOvertime s
        (answered l tag 0x17 .done (writeAnswer p v s) (writeParameter l p v (counted l s)))) := by
  refine exec_setParameter_of_reply htakes ?_
  simp only [performSetParameter, paramOfCode_code, hw, hv, if_true]
  rfl

/-- INVALID, code RANGE, with the parameter named (R184, R191). -/
theorem rangeBytes (p : ParamId) :
    (⟨.range, some p.code, 0, 0⟩ : Invalid).bytes = [6, byteOf p.code, 0, 0, 0, 0, 0] := by
  simp [Invalid.bytes, CheckCode.code, le4, byteOf]

theorem exec_setParameter_refused (htakes : Takes l s) (hw : decodeParamValue p w = some v) (hv : p.admits v = false) :
    exec (.setParameter l tag (byteOf p.code) w) s =
      .next (answered l tag 0x17 .invalid [6, byteOf p.code, 0, 0, 0, 0, 0] (counted l s)) := by
  have hreply : performSetParameter l (byteOf p.code) w (counted l s) =
      ⟨counted l s, .invalid, [6, byteOf p.code, 0, 0, 0, 0, 0]⟩ := by
    simp only [performSetParameter, paramOfCode_code, hw, hv, Bool.false_eq_true, if_false, invalid, rangeBytes]
  exact (exec_setParameter_of_reply htakes hreply).trans (congrArg Host.Outcome.next (followedByOvertime_same rfl))

theorem writeParameter_params (l : Link) (p : ParamId) (v : Int) (s : State) :
    (writeParameter l p v (counted l s)).params = s.params.write p v := by
  by_cases h : v = s.params.value p
  · rw [writeParameter_same h]
    rfl
  · rw [writeParameter_new h, (Supervises.parameterWritten p _).params]
    rfl

/-- No overtime follows a write of another parameter, or of the value held (R34). -/
theorem followedByOvertime_write (h : p ≠ .raceTimeLimit ∨ v = s.params.value p) (r : Result) (data : List Byte) :
    followedByOvertime s (answered l tag 0x17 r data (writeParameter l p v (counted l s))) =
      answered l tag 0x17 r data (writeParameter l p v (counted l s)) := by
  have hlimit : (s.params.write p v).raceTimeLimit = s.params.raceTimeLimit := by
    by_cases hp : p = .raceTimeLimit
    · subst hp
      rw [h.resolve_left (not_not_intro rfl)]
      rfl
    · exact Params.write_raceTimeLimit _ hp
  refine if_neg (not_not_intro ?_)
  change s.params.raceTimeLimit = (writeParameter l p v (counted l s)).params.raceTimeLimit
  rw [writeParameter_params, hlimit]

theorem writeParameter_keepsHub (l : Link) (p : ParamId) (v : Int) (s : State) :
    KeepsHub (valueNoticed l p v s) (writeParameter l p v (counted l s)) := by
  by_cases h : v = s.params.value p
  · rw [writeParameter_same h]
    exact .refl _
  · rw [writeParameter_new h]
    exact .of_owned (Owned.parameterWritten p _) (.parameterWritten p _)

theorem valueNoticed_outgoing (l : Link) (p : ParamId) (v : Int) (s : State) (k : Link) :
    ((valueNoticed l p v s).links.get k).outgoing = (s.links.get k).outgoing := by
  have hraise : ((valueNoticed l p v s).links.get k).outgoing = ((counted l s).links.get k).outgoing :=
    Clu.Kept.outgoing ((Owned.raise _ _).links k)
  rw [hraise, counted_get]
  split
  · next h =>
    subst h
    rfl
  · rfl

theorem answered_outgoing (l k : Link) (tag kind : Byte) (r : Result) (data : List Byte) (s : State) :
    ((answered l tag kind r data s).links.get k).outgoing =
      if k = l then (s.links.get k).outgoing ++ [⟨tag, kind, r, data⟩] else (s.links.get k).outgoing := by
  rw [answered, (KeepsHub.settle _).outgoing, pushAnswer_get]
  split
  · next h =>
    subst h
    exact (List.append_assoc ..).symm
  · rfl

/-! ## The request -/

/-- The value and its notice first, then the reports of its owners (R155, R184). -/
theorem setParameter_noticed (htakes : Takes l s) (hw : decodeParamValue p w = some v) (hv : p.admits v = true)
    (hnew : v ≠ s.params.value p) (hp : p ≠ .raceTimeLimit) :
    ∃ t, exec (.setParameter l tag (byteOf p.code) w) s = .next (answered l tag 0x17 .done (writeAnswer p v s) t) ∧
      FaultsNoticed (.parameterChanged p (s.params.value p) v l :: allInputs.flatMap (writeRaised p v s t)) (counted l s) t := by
  refine ⟨parameterWritten p (valueNoticed l p v s), ?_, ?_⟩
  · rw [exec_setParameter_admitted htakes hw hv, followedByOvertime_write (.inl hp), writeParameter_new hnew]
  · obtain ⟨more, hraised, hmore⟩ := parameterWritten_noticed hv (valueNoticed_written l p v s)
    have hvalue : Raised [.parameterChanged p (s.params.value p) v l] (counted l s) (valueNoticed l p v s) := rfl
    exact ⟨more, hvalue.append hraised, hmore⟩

theorem setParameter_follows (htakes : Takes l s) (hw : decodeParamValue p w = some v) (hv : p.admits v = true)
    (hnew : v ≠ s.params.value p) :
    ∃ t, exec (.setParameter l tag (byteOf p.code) w) s = .next t ∧ OwnersFollow p v s t := by
  refine ⟨_, exec_setParameter_admitted htakes hw hv, ?_⟩
  have hfollows := parameterWritten_follows hv (valueNoticed_written l p v s)
  rw [← writeParameter_new hnew] at hfollows
  by_cases hp : p = .raceTimeLimit
  · refine hfollows.congr ?_ ?_ fun h => absurd hp h
    · unfold followedByOvertime
      split
      · exact (event_overtime_records _).1
      · rfl
    · unfold followedByOvertime
      split
      · exact (event_overtime_records _).2
      · rfl
  · rw [followedByOvertime_write (.inl hp)]
    exact hfollows.congr rfl rfl fun _ => rfl

theorem setParameter_keeps (htakes : Takes l s) (hw : decodeParamValue p w = some v) (hv : p.admits v = true) :
    ∃ t, exec (.setParameter l tag (byteOf p.code) w) s = .next t ∧ t.params.value p = v ∧
      (∀ q, q ≠ p → t.params.value q = s.params.value q) ∧
      t.phase = s.phase ∧ t.deckTime = s.deckTime ∧ t.queue = s.queue ∧ t.linkFaults = s.linkFaults ∧
      t.resetn = s.resetn ∧ t.resetPending = s.resetPending ∧ t.pending = s.pending ∧
      (t.links.get l).outgoing = (s.links.get l).outgoing ++ [⟨tag, 0x17, .done, writeAnswer p v s⟩] ∧
      ∀ k, k ≠ l → (t.links.get k).outgoing = (s.links.get k).outgoing := by
  refine ⟨_, exec_setParameter_admitted htakes hw hv, ?_⟩
  have howner := writeParameter_keepsHub l p v s
  have hovertime := KeepsHub.followedByOvertime s
    (answered l tag 0x17 .done (writeAnswer p v s) (writeParameter l p v (counted l s)))
  have hparams := hovertime.params.trans (writeParameter_params l p v s)
  have houtgoing : ∀ k, _ = if k = l then _ else _ := fun k =>
    (hovertime.outgoing k).trans (answered_outgoing l k tag 0x17 .done _ _)
  simp only [howner.outgoing, valueNoticed_outgoing] at houtgoing
  refine ⟨by rw [hparams, Params.write_value_same _ hv], fun q hq => by rw [hparams, Params.write_value_ne _ hq],
    hovertime.phase.trans howner.phase, hovertime.deckTime.trans howner.deckTime, hovertime.queue.trans howner.queue,
    hovertime.linkFaults.trans howner.linkFaults, hovertime.resetn.trans howner.resetn,
    hovertime.resetPending.trans howner.resetPending, hovertime.pending.trans howner.pending, ?_, fun k hk => ?_⟩
  · rw [houtgoing, if_pos rfl]
  · rw [houtgoing, if_neg hk]

/-- A parameter nobody acts on at its write. -/
theorem parameterWritten_quiet (h : p.quiet = true) (s : State) : parameterWritten p s = s := by
  cases p <;> first | rfl | cases h

theorem ParamId.ne_raceTimeLimit_of_quiet (h : p.quiet = true) : p ≠ .raceTimeLimit := by
  rintro rfl
  cases h

theorem setParameter_quiet (htakes : Takes l s) (hw : decodeParamValue p w = some v) (hv : p.admits v = true)
    (h : p.quiet = true ∨ v = s.params.value p) :
    exec (.setParameter l tag (byteOf p.code) w) s =
      .next (answered l tag 0x17 .done (writeAnswer p v s) (valueNoticed l p v s)) := by
  have hwrite : writeParameter l p v (counted l s) = valueNoticed l p v s := by
    by_cases hsame : v = s.params.value p
    · exact writeParameter_same hsame
    · rw [writeParameter_new hsame, parameterWritten_quiet (h.resolve_right hsame)]
  rw [exec_setParameter_admitted htakes hw hv, followedByOvertime_write (h.imp_left ParamId.ne_raceTimeLimit_of_quiet),
    hwrite]

/-- Settles O22: the write and its notice, the owners by the groups of their parameters, and overtime as the one event that may
follow. -/
theorem setParameterWrites : Obligations.SetParameterWrites :=
  ⟨fun _ _ _ _ _ _ htakes hw hv hnew hp => setParameter_noticed htakes hw hv hnew hp,
    fun _ _ _ _ _ _ htakes hw hv hnew => setParameter_follows htakes hw hv hnew,
    fun _ _ _ _ _ _ htakes hw =>
      ⟨exec_setParameter_refused htakes hw, setParameter_keeps htakes hw, setParameter_quiet htakes hw⟩⟩

end Sys2Proof.Machine
end

section
/-! The step over a waiting command. -/

namespace Sys2Proof.Machine

open Sys2Proof

/-- Settles O1: the queue's head alone decides which case of `step` is taken. -/
theorem stepRunsTheFrontCommand : Obligations.StepRunsTheFrontCommand := by
  intro c rest s hpending
  simp only [step, hpending]

end Sys2Proof.Machine
end

section
/-! What is laid out by R190 is read back: the readers of request bodies undo the layouts, field by field, body by body. -/

namespace Sys2Proof.Machine

open Sys2Proof

/-! ## Bit sets (R190) -/

theorem bit_eq_toNat (b : Bool) : bit b 1 = b.toNat := by cases b <;> rfl

theorem bitSet_cons (b : Bool) (bs : List Bool) : bitSet (b :: bs) = Nat.bit b (bitSet bs) := by
  rw [bitSet, bit_eq_toNat, Nat.bit_val, Nat.add_comm]

theorem bitSet_lt (bs : List Bool) : bitSet bs < 2 ^ bs.length := by
  induction bs with
  | nil => exact Nat.one_pos
  | cons b bs ih =>
    have hb := Bool.toNat_le b
    rw [bitSet_cons, Nat.bit_val, List.length_cons, Nat.pow_succ]
    omega

/-- Bit i of the number is the i-th of the list. -/
theorem bitSet_testBit (bs : List Bool) (i : Nat) : (bitSet bs).testBit i = bs.getD i false := by
  induction bs generalizing i with
  | nil => exact Nat.zero_testBit i
  | cons b bs ih =>
    rw [bitSet_cons]
    cases i with
    | zero => exact Nat.testBit_bit_zero b _
    | succ i => exact (Nat.testBit_bit_succ i b _).trans (ih i)

/-- A bit set that fits its word keeps its bits in it. -/
theorem bitSet_getLsbD {w : Nat} (bs : List Bool) (h : bs.length ≤ w) (i : Nat) :
    (BitVec.ofNat w (bitSet bs)).getLsbD i = bs.getD i false := by
  rw [BitVec.getLsbD_ofNat, bitSet_testBit]
  by_cases hi : i < w
  · rw [decide_eq_true hi, Bool.true_and]
  · rw [decide_eq_false hi, Bool.false_and, List.getD_eq_default _ _ (by omega)]

/-! ## Fields -/

theorem append_toNat {m n : Nat} (a : BitVec m) (b : BitVec n) : (a ++ b).toNat = a.toNat * 2 ^ n + b.toNat := by
  rw [BitVec.toNat_append, ← Nat.shiftLeft_add_eq_or_of_lt b.isLt, Nat.shiftLeft_eq]

/-- A reader takes exactly these bytes, whatever follows them, and gives this value. -/
def Reads {α : Type} (r : Reader α) (bs : List Byte) (a : α) : Prop := ∀ rest, r (bs ++ rest) = some (a, rest)

namespace Reads

variable {α β γ : Type} {r : Reader α} {t : Reader β} {bs cs : List Byte} {a : α} {b : β}

theorem byte (b : Byte) : Reads readByte [b] b := fun _ => rfl

theorem le2 (n : Nat) : Reads readWord16 (Machine.le2 n) (BitVec.ofNat 16 n) := fun rest => by
  have hword : (byteOf (n / 256) ++ byteOf n : Word16) = BitVec.ofNat 16 n := by
    apply BitVec.eq_of_toNat_eq
    simp only [append_toNat, byteOf, BitVec.toNat_ofNat]
    omega
  exact congrArg (fun w => some (w, rest)) hword

theorem word16 (w : Word16) : Reads readWord16 (Machine.le2 w.toNat) w := by
  simpa using le2 w.toNat

theorem word32 (w : Word32) : Reads readWord32 (tagBytes w) w := fun rest => by
  have hword : (byteOf (w.toNat / 16777216) ++ byteOf (w.toNat / 65536) ++ byteOf (w.toNat / 256) ++ byteOf w.toNat :
      Word32) = w := by
    apply BitVec.eq_of_toNat_eq
    have hlt := w.isLt
    simp only [append_toNat, byteOf, BitVec.toNat_ofNat]
    omega
  exact congrArg (fun v => some (v, rest)) hword

theorem andThen (f : α → β → γ) (hr : Reads r bs a) (ht : Reads t cs b) : Reads (readThen f r t) (bs ++ cs) (f a b) :=
  fun rest => by simp only [readThen, List.append_assoc, hr _, ht _]

theorem item {f : α → List Byte} (hr : ∀ a, Reads r (f a) a) (o : Option α) :
    Reads (readIf o.isSome r) (itemBytes f o) o := fun rest => by
  cases o with
  | none => rfl
  | some a => simp only [readIf, Option.isSome_some, if_true, itemBytes, hr a rest]

theorem many {f : α → List Byte} {as : List α} (hr : ∀ a ∈ as, Reads r (f a) a) :
    Reads (readMany r as.length) (as.map f).flatten as := by
  induction as with
  | nil => exact fun _ => rfl
  | cons a as ih =>
    intro rest
    have htail := ih fun x hx => hr x (List.mem_cons_of_mem a hx)
    simp only [List.length_cons, readMany, List.map_cons, List.flatten_cons, List.append_assoc, hr a List.mem_cons_self _,
      htail rest]

/-- A list whose count fits its byte. -/
theorem list {f : α → List Byte} {as : List α} (hcount : as.length ≤ 255) (hr : ∀ a ∈ as, Reads r (f a) a) :
    Reads (readList r) (countedList f as) as := fun rest => by
  have hlen : (byteOf as.length).toNat = as.length := Nat.mod_eq_of_lt (by omega)
  have hbyte := byte (byteOf as.length) ((as.map f).flatten ++ rest)
  simp only [List.singleton_append] at hbyte
  simp only [readList, countedList, List.cons_append, hbyte, hlen, many hr rest]

theorem readAll (h : Reads r bs a) : Machine.readAll r bs = some a := by
  have hend := h []
  rw [List.append_nil] at hend
  simp only [Machine.readAll, hend]

/-- A request whose body is laid out as its reader reads it. -/
theorem withBody (h : Reads r bs a) (perform : α → State → Reply) : Machine.withBody r bs perform = perform a := by
  funext s
  simp only [Machine.withBody, h.readAll]

/-- A reader and what goes on from its value, as STAGE HEAT and SET LANE TIMING chain them. -/
theorem next {k : α × List Byte → Option (γ × List Byte)} {d : γ} (hr : Reads r bs a)
    (hk : Reads (fun xs => k (a, xs)) cs d) : Reads (fun xs => r xs >>= k) (bs ++ cs) d := fun rest => by
  simp only [List.append_assoc, hr _, Option.bind_eq_bind, Option.bind_some]
  exact hk rest

/-- A check that lets the body through. -/
theorem checked {p : Prop} [Decidable p] (hp : ¬ p) (hr : Reads r bs a) :
    Reads (fun xs => if p then none else r xs) bs a := fun rest => (if_neg hp).trans (hr rest)

theorem value (a : α) : Reads (fun xs => some (a, xs)) [] a := fun _ => rfl

/-- A lane and one more item. -/
theorem laneAnd (n : Byte) (h : Reads r bs a) : Reads (readLaneAnd r) (n :: bs) (n, a) := andThen Prod.mk (byte n) h

theorem byteItem {p : Bool} {o : Option Byte} (hp : p = o.isSome) :
    Reads (readIf p readByte) (itemBytes (fun a => [a]) o) o := hp ▸ item byte o

theorem wordItem {p : Bool} {o : Option Word32} (hp : p = o.isSome) :
    Reads (readIf p readWord32) (itemBytes tagBytes o) o := hp ▸ item word32 o

/-! ## Bodies (R191; log 17) -/

theorem heatId (event : Word16) (heat : Byte) :
    Reads readHeatId (Machine.le2 event.toNat ++ [heat]) ⟨event, heat⟩ := andThen HeatId.mk (word16 event) (byte heat)

theorem tagItem (i : TagItem) : Reads readTagItem (i.leg :: tagBytes i.tag) i :=
  andThen TagItem.mk (byte i.leg) (word32 i.tag)

theorem segment (g : SegmentItem) : Reads readSegment [g.lengths, g.leg, g.stroke] g :=
  andThen _ (byte g.lengths) (andThen _ (byte g.leg) (byte g.stroke))

theorem laneEntry {e : LaneEntry} (hcount : e.tags.length ≤ 255) : Reads readLaneEntry (laneEntryBytes e) e :=
  andThen LaneEntry.mk (byte e.use) (list hcount fun w _ => word32 w)

end Reads

/-- Which of the three fields of SET LANE TIMING are present, in bit order (R52). -/
def timingPresence (t : TimingBody) : List Bool := [t.mode.isSome, t.weight.isSome, t.basis.isSome]

theorem timingPresence_getLsbD (t : TimingBody) (i : Nat) :
    (byteOf (bitSet (timingPresence t))).getLsbD i = (timingPresence t).getD i false :=
  bitSet_getLsbD (timingPresence t) (by simp [timingPresence]) i

/-- The fields of SET LANE TIMING, grouped as their reader takes them. -/
theorem optionalGroup_timing (t : TimingBody) :
    optionalGroup [t.mode.map fun a => [a], t.weight.map fun a => [a], t.basis.map fun a => [a]] =
      [byteOf (bitSet (timingPresence t))] ++ (itemBytes (fun a => [a]) t.mode ++ (itemBytes (fun a => [a]) t.weight ++
        (itemBytes (fun a => [a]) t.basis ++ []))) := by
  have hitem : ∀ o : Option Byte, (o.map fun a => [a]).getD [] = itemBytes (fun a => [a]) o := fun o => by cases o <;> rfl
  simp [optionalGroup, timingPresence, hitem]

namespace Reads

/-- The presence byte of SET LANE TIMING has three bits. -/
theorem timing (t : TimingBody) :
    Reads readTiming
      (optionalGroup [t.mode.map fun a => [a], t.weight.map fun a => [a], t.basis.map fun a => [a]]) t := by
  have hbits := timingPresence_getLsbD t
  have hfits : ¬ 7 < (byteOf (bitSet (timingPresence t))).toNat :=
    Nat.not_lt.mpr ((Nat.mod_le _ _).trans (Nat.le_of_lt_succ (bitSet_lt (timingPresence t))))
  rw [optionalGroup_timing]
  unfold readTiming
  refine next (byte _) ?_
  refine checked hfits ?_
  refine next (byteItem (hbits 0)) ?_
  refine next (byteItem (hbits 1)) ?_
  refine next (byteItem (hbits 2)) ?_
  exact value t

end Reads

/-- Which of the fourteen optional items of a STAGE HEAT body are present, in bit order (R191). -/
def heatPresence (b : HeatBody) : List Bool :=
  [b.poolLength.isSome, b.startEnd.isSome, b.startKind.isSome, b.firstGuard.isSome, b.minLength.isSome,
    b.turnLockout.isSome, b.weight.isSome, b.basis.isSome, b.laneMode.isSome, b.collectTime.isSome,
    b.backupTolerance.isSome, b.exchangeAllowance.isSome, b.releaseMode.isSome, b.splitInterval.isSome]

theorem heatPresence_getLsbD (b : HeatBody) (i : Nat) :
    (BitVec.ofNat 16 (bitSet (heatPresence b))).getLsbD i = (heatPresence b).getD i false :=
  bitSet_getLsbD (heatPresence b) (by simp [heatPresence]) i

/-- The fourteen optional items of a STAGE HEAT body laid out, in bit order (R191). -/
def heatItemBytes (b : HeatBody) : List Byte :=
  [itemBytes (fun a => [a]) b.poolLength, itemBytes (fun a => [a]) b.startEnd, itemBytes (fun a => [a]) b.startKind,
    itemBytes tagBytes b.firstGuard, itemBytes tagBytes b.minLength, itemBytes tagBytes b.turnLockout,
    itemBytes (fun a => [a]) b.weight, itemBytes (fun a => [a]) b.basis, itemBytes (fun a => [a]) b.laneMode,
    itemBytes tagBytes b.collectTime, itemBytes tagBytes b.backupTolerance, itemBytes tagBytes b.exchangeAllowance,
    itemBytes (fun a => [a]) b.releaseMode, itemBytes (fun a => [a]) b.splitInterval].flatten

/-- A STAGE HEAT body, grouped as its reader takes it. -/
theorem heatBodyBytes_eq (b : HeatBody) :
    heatBodyBytes b =
      (le2 b.event.toNat ++ [b.heat]) ++ ([b.lengths] ++ (le2 (bitSet (heatPresence b)) ++
        (heatItemBytes b ++ (countedList (fun g => [g.lengths, g.leg, g.stroke]) b.segments ++
          ((b.lanes.map laneEntryBytes).flatten ++ []))))) := by
  simp only [heatBodyBytes, heatItemBytes, heatPresence, List.flatten_cons, List.flatten_nil, List.append_assoc,
    List.cons_append, List.nil_append, List.append_nil]

namespace Reads

/-- The optional items, under the presence word that the body carries. -/
theorem heatItems (b : HeatBody) :
    Reads (readHeatItems (BitVec.ofNat 16 (bitSet (heatPresence b)))) (heatItemBytes b)
      ⟨b.poolLength, b.startEnd, b.startKind, b.firstGuard, b.minLength, b.turnLockout, b.weight, b.basis, b.laneMode,
        b.collectTime, b.backupTolerance, b.exchangeAllowance, b.releaseMode, b.splitInterval⟩ := by
  have hbits := heatPresence_getLsbD b
  unfold readHeatItems
  refine next (byteItem (hbits 0)) ?_
  refine next (byteItem (hbits 1)) ?_
  refine next (byteItem (hbits 2)) ?_
  refine next (wordItem (hbits 3)) ?_
  refine next (wordItem (hbits 4)) ?_
  refine next (wordItem (hbits 5)) ?_
  refine next (byteItem (hbits 6)) ?_
  refine next (byteItem (hbits 7)) ?_
  refine next (byteItem (hbits 8)) ?_
  refine next (wordItem (hbits 9)) ?_
  refine next (wordItem (hbits 10)) ?_
  refine next (wordItem (hbits 11)) ?_
  refine next (byteItem (hbits 12)) ?_
  refine next (byteItem (hbits 13)) ?_
  exact value _

/-- The STAGE HEAT body, its lists short enough for their count bytes and its lane entries ten. -/
theorem heatBody {b : HeatBody} (hsegments : b.segments.length ≤ 255) (htags : ∀ e ∈ b.lanes, e.tags.length ≤ 255)
    (hlanes : b.lanes.length = 10) : Reads readHeatBody (heatBodyBytes b) b := by
  have hbits : ¬ ((BitVec.ofNat 16 (bitSet (heatPresence b))).getLsbD 14 ||
      (BitVec.ofNat 16 (bitSet (heatPresence b))).getLsbD 15) = true := by
    simp only [heatPresence_getLsbD]
    exact Bool.false_ne_true
  rw [heatBodyBytes_eq]
  unfold readHeatBody
  refine next (heatId b.event b.heat) ?_
  refine next (byte b.lengths) ?_
  refine next (le2 _) ?_
  refine checked hbits ?_
  refine next (heatItems b) ?_
  refine next (list hsegments fun g _ => segment g) ?_
  refine next (hlanes ▸ many fun e he => laneEntry (htags e he)) ?_
  exact value b

end Reads

end Sys2Proof.Machine
end

section
/-! A request's KIND and the bytes of its body reach the owner that its own row reaches (R179, R189). -/

namespace Sys2Proof.Machine

open Sys2Proof

/-! ## How long a body's lists are -/

theorem length_le_flatten {α : Type} {f : α → List Byte} (hf : ∀ a, 0 < (f a).length) (as : List α) :
    as.length ≤ (as.map f).flatten.length := by
  rw [List.length_flatten]
  calc as.length = ((as.map f).map List.length).length := by simp
    _ ≤ ((as.map f).map List.length).sum :=
      List.length_le_sum_of_one_le _ fun n hn => by
        obtain ⟨bs, hbs, rfl⟩ := List.mem_map.mp hn
        obtain ⟨a, -, rfl⟩ := List.mem_map.mp hbs
        exact hf a

/-- A list of items that take bytes has no more items than bytes. -/
theorem length_le_countedList {α : Type} {f : α → List Byte} (hf : ∀ a, 0 < (f a).length) (as : List α) :
    as.length ≤ (countedList f as).length :=
  (length_le_flatten hf as).trans (Nat.le_succ _)

theorem segments_length_le (b : HeatBody) : b.segments.length ≤ (heatBodyBytes b).length := by
  have hcount := length_le_countedList (f := fun g : SegmentItem => [g.lengths, g.leg, g.stroke]) (fun _ => Nat.succ_pos _)
    b.segments
  simp only [heatBodyBytes, List.length_append] at hcount ⊢
  omega

theorem tags_length_le {b : HeatBody} {e : LaneEntry} (he : e ∈ b.lanes) : e.tags.length ≤ (heatBodyBytes b).length := by
  have hcount := length_le_countedList (f := tagBytes) (fun _ => Nat.succ_pos _) e.tags
  have hentry := (List.sublist_flatten_of_mem (List.mem_map_of_mem (f := laneEntryBytes) he)).length_le
  simp only [heatBodyBytes, laneEntryBytes, List.length_append, List.length_cons] at hcount hentry ⊢
  omega

theorem decodeAll_length {α β : Type} {f : α → Option β} {as : List α} {bs : List β} (h : decodeAll f as = some bs) :
    bs.length = as.length := by
  induction as generalizing bs with
  | nil =>
    cases h
    rfl
  | cons a as ih =>
    unfold decodeAll at h
    split at h
    · next has =>
      cases h
      exact congrArg Nat.succ (ih has)
    · cases h

/-- The lane entries that decode are ten (R5). -/
theorem decodeLanes_length {es : List LaneEntry} {v : Vector Assignment 10} (h : decodeLanes es = some v) :
    es.length = 10 := by
  unfold decodeLanes at h
  split at h
  · cases h
  · next as has =>
    split at h
    · next hten => rw [← decodeAll_length has, hten]
    · cases h

theorem decodeHeatCodes_lanes {b : HeatBody} {c : HeatCodes} (h : decodeHeatCodes b = some c) :
    b.lanes.length = 10 := by
  unfold decodeHeatCodes at h
  split at h
  · next hlanes => exact decodeLanes_length hlanes
  · cases h

/-! ## The owner -/

variable {c : Instr} {l : Link} {tag kind : Byte}

theorem mem_requestKinds_of_toNat (h : 1 ≤ kind.toNat ∧ kind.toNat ≤ 28) : kind ∈ requestKinds :=
  List.mem_map.mpr ⟨kind.toNat - 1, List.mem_range.mpr (by omega), by rw [Nat.sub_add_cancel h.1, byteOf_toNat]⟩

/-- A KIND of no request, whatever its body (R179). -/
theorem serve_unknown (h : kind ∉ requestKinds) (l : Link) (body : List Byte) :
    serve l kind body = refuse .unknownRequest := by
  funext s
  have hout : ¬ (1 ≤ kind.toNat ∧ kind.toNat ≤ 28) := fun hk => h (mem_requestKinds_of_toNat hk)
  unfold serve
  split
  rotate_right
  · rfl
  all_goals omega

theorem serve_stageHeat {b : HeatBody} (hw : (decodeHeatCodes b).isSome = true) (hlen : (heatBodyBytes b).length ≤ 248) :
    serve l 0x01 (heatBodyBytes b) = performStageHeat l b := by
  obtain ⟨codes, hcodes⟩ := Option.isSome_iff_exists.mp hw
  have hsegments := segments_length_le b
  have htags : ∀ e ∈ b.lanes, e.tags.length ≤ 255 := fun e he => (tags_length_le he).trans (by omega)
  exact (Reads.heatBody (by omega) htags (decodeHeatCodes_lanes hcodes)).withBody (performStageHeat l)

/-- ASSIGN ENTRANT: a list that fits a frame fits its count byte. -/
theorem serve_assignEntrant {n : Byte} {items : List TagItem}
    (hlen : (n :: countedList (fun t : TagItem => t.leg :: tagBytes t.tag) items).length ≤ 248) :
    serve l 0x09 (n :: countedList (fun t : TagItem => t.leg :: tagBytes t.tag) items) = performAssignEntrant n items := by
  have hcount := length_le_countedList (f := fun t : TagItem => t.leg :: tagBytes t.tag) (fun _ => Nat.succ_pos _) items
  rw [List.length_cons] at hlen
  exact ((Reads.list (by omega) fun i _ => Reads.tagItem i).laneAnd n).withBody fun b => performAssignEntrant b.1 b.2

/-- The body laid out for a well-formed request is read as that request's operands. -/
theorem serve_requestBody (hc : requestOf c = some (l, tag, kind)) (hw : c.wellFormed = true)
    (hlen : (requestBody c).length ≤ 248) : serve l kind (requestBody c) = ownerReply c := by
  cases c <;> cases hc
  case listQueue | advance | abandon | startRace | resetDevice => rfl
  case unknownRequest => exact serve_unknown (by simpa [Instr.wellFormed] using hw) l _
  case stageHeat => exact serve_stageHeat hw hlen
  case assignEntrant => exact serve_assignEntrant hlen
  case withdrawHeat event heat => exact (Reads.heatId event heat).withBody (performWithdrawHeat l)
  case setNoticeMask kinds => exact (Reads.word16 kinds).withBody (performSetNoticeMask l)
  case readRace part => exact (Reads.byte part).withBody performReadRace
  case scratchLane n => exact (Reads.byte n).withBody (performScratchLane l)
  case declareNoFinish n => exact (Reads.byte n).withBody (performDeclareNoFinish l)
  case readLane n => exact (Reads.byte n).withBody performReadLane
  case holdLane n => exact (Reads.byte n).withBody (performHoldLane l)
  case unholdLane n => exact (Reads.byte n).withBody (performUnholdLane l)
  case releaseLane n => exact (Reads.byte n).withBody (performReleaseLane l)
  case reinstate n => exact (Reads.byte n).withBody (performReinstate l)
  case getParameter p => exact (Reads.byte p).withBody performGetParameter
  case readFaults record => exact (Reads.byte record).withBody performReadFaults
  case clearFaults record => exact (Reads.byte record).withBody (performClearFaults l)
  case setLaneTiming n t => exact ((Reads.timing t).laneAnd n).withBody fun b => performSetLaneTiming b.1 b.2
  case promoteTouch n number => exact ((Reads.word16 number).laneAnd n).withBody fun b => performPromote l b.1 b.2
  case enterFinish n time => exact ((Reads.word32 time).laneAnd n).withBody fun b => performEnterFinish l b.1 b.2
  case adjustFinish n time => exact ((Reads.word32 time).laneAnd n).withBody fun b => performAdjustFinish l b.1 b.2
  case setParameter p value => exact ((Reads.word32 value).laneAnd p).withBody fun b => performSetParameter l b.1 b.2
  case readSplits n first => exact ((Reads.byte first).laneAnd n).withBody fun b => performReadSplits b.1 b.2
  case clearSystemHold n reasons =>
    exact ((Reads.byte reasons).laneAnd n).withBody fun b => performClearSystemHold l b.1 b.2
  case disqualify n code => exact ((Reads.byte code).laneAnd n).withBody fun b => performDisqualify l b.1 b.2

end Sys2Proof.Machine
end

section
/-! The Parameter Table under the requests (R184): SET PARAMETER alone writes it. -/

namespace Sys2Proof.Machine

open Sys2Proof

theorem load_params (l : Option Link) (s : State) : (load l s).params = s.params := by
  unfold load
  split <;> rfl

theorem emptyRace_params (cause : RaceCause) (l : Option Link) (s : State) : (emptyRace cause l s).params = s.params := rfl

theorem advanceRace_params (cause : RaceCause) (l : Option Link) (s : State) :
    (advanceRace cause l s).params = s.params := by
  unfold advanceRace
  split
  · exact emptyRace_params cause l s
  · exact load_params l s

theorem stage_params (l : Link) (d : Definition) (s : State) : (stage l d s).params = s.params := by
  unfold stage
  dsimp only
  split
  · exact load_params _ _
  · rfl

theorem clearFaults_params (is : List (Fin 71)) (ls : List Link) (l : Option Link) (s : State) :
    (clearFaults is ls l s).params = s.params := by
  have hlink : ∀ (t : State) (k : Link), (clearLink l t k).params = t.params := fun t k => by
    unfold clearLink
    dsimp only
    split <;> rfl
  have hlinks : ∀ t : State, (ls.foldl (clearLink l) t).params = t.params := by
    induction ls with
    | nil => exact fun _ => rfl
    | cons k ls ih => exact fun t => (ih _).trans (hlink t k)
  exact (hlinks _).trans (Supervises.moveFaults is _ _ _ _ s).params

section
variable (l : Link) (s : State)

theorem performStageHeat_params (b : HeatBody) : (performStageHeat l b s).state.params = s.params := by
  unfold performStageHeat
  split
  · rfl
  unfold stageDefinition
  split
  · rfl
  split
  · rfl
  split
  · rfl
  · exact stage_params l _ s

theorem performWithdrawHeat_params (i : HeatId) : (performWithdrawHeat l i s).state.params = s.params := by
  unfold performWithdrawHeat
  split
  · rfl
  split <;> rfl

theorem performAdvance_params : (performAdvance l s).state.params = s.params := by
  unfold performAdvance
  split
  · split
    · rfl
    · exact load_params _ s
  split
  · exact advanceRace_params _ _ _
  all_goals rfl

theorem performAbandon_params : (performAbandon l s).state.params = s.params := by
  unfold performAbandon
  split
  · rfl
  · exact (emptyRace_params _ _ _).trans (RaceOnly.heatEvent _ _ s).params

theorem performStartRace_params : (performStartRace l s).state.params = s.params := by
  unfold performStartRace
  split
  · rfl
  split
  · rfl
  split
  · exact (RaceOnly.startRace _ _ _ s).params
  · rfl

theorem performReadRace_params (part : Byte) : (performReadRace part s).state.params = s.params := by
  unfold performReadRace
  split
  · rfl
  split <;> rfl

theorem performGetParameter_params (p : Byte) : (performGetParameter p s).state.params = s.params := by
  unfold performGetParameter
  split <;> rfl

theorem performSetNoticeMask_params (kinds : Word16) : (performSetNoticeMask l kinds s).state.params = s.params := by
  unfold performSetNoticeMask
  split <;> rfl

theorem performReadFaults_params (record : Byte) : (performReadFaults record s).state.params = s.params := by
  unfold performReadFaults
  split <;> rfl

theorem performClearFaults_params (record : Byte) : (performClearFaults l record s).state.params = s.params := by
  unfold performClearFaults
  split
  · rfl
  · exact clearFaults_params _ _ _ s

theorem performResetDevice_params : (performResetDevice l s).state.params = s.params := by
  unfold performResetDevice
  split <;> rfl

end

theorem lanePerform_params {c : Instr} {b : Byte} (hb : laneOf c = some b) (s : State) :
    (lanePerform c s).state.params = s.params := by
  by_cases hn : b.toNat < 10
  · exact (lanePerform_laneOnly (n := ⟨b.toNat, hn⟩) rfl s hb).only.params
  · have hw : c.wellFormed = false := by
      refine Bool.eq_false_iff.mpr fun hw => ?_
      obtain ⟨n, hlane⟩ := lane_of_wellFormed hb hw
      rw [laneOfByte_of_ge (Nat.not_lt.mp hn)] at hlane
      cases hlane
    rw [lanePerform_malformed hb hw]
    rfl

/-- Every owner but SET PARAMETER's leaves the parameters as they were. -/
theorem ownerReply_params {c : Instr} (h : ∀ l tag p v, c ≠ .setParameter l tag p v) (s : State) :
    (ownerReply c s).state.params = s.params := by
  match hb : laneOf c with
  | some b =>
    rw [ownerReply_lane hb]
    exact lanePerform_params hb s
  | none =>
    cases c <;> cases hb
    case stageHeat l _ body => exact performStageHeat_params l s body
    case withdrawHeat l _ event heat => exact performWithdrawHeat_params l s ⟨event, heat⟩
    case advance l _ => exact performAdvance_params l s
    case abandon l _ => exact performAbandon_params l s
    case startRace l _ => exact performStartRace_params l s
    case readRace part => exact performReadRace_params s part
    case setParameter => exact absurd rfl (h _ _ _ _)
    case getParameter p => exact performGetParameter_params s p
    case setNoticeMask l _ kinds => exact performSetNoticeMask_params l s kinds
    case readFaults record => exact performReadFaults_params s record
    case clearFaults l _ record => exact performClearFaults_params l s record
    case resetDevice l _ => exact performResetDevice_params l s
    all_goals rfl

theorem arrive_params {perform : State → Reply} (l : Link) (tag kind : Byte)
    (h : ∀ s, (perform s).state.params = s.params) (s : State) : (arrive l tag kind perform s).params = s.params := by
  by_cases hrun : s.phase = .running
  · rw [arrive, event_running hrun, settle_params, judgeArrival]
    split
    · unfold refuseBusy
      split <;> rfl
    · exact h _
  · rw [arrive, event_idle hrun]

end Sys2Proof.Machine
end

section
/-! A request received byte by byte (R176, R178, R189): its last byte is the arrival that its own row is. -/

namespace Sys2Proof.Machine

open Sys2Proof

variable {c : Instr} {l : Link} {tag kind : Byte} {s : State}

/-- The second CRC byte that fits brings the frame to its arrival. -/
theorem frameByte_goodCrc {len : Byte} {bytes : List Byte} (h : bytes.length = len.toNat) (s : State) :
    frameByte l (len :: bytes ++ [crcHigh (crc16 (len :: bytes))]) (crcLow (crc16 (len :: bytes))) s =
      arriveFrame l len.toNat
        (len :: (bytes ++ [crcHigh (crc16 (len :: bytes))]) ++ [crcLow (crc16 (len :: bytes))])
        (setFramer l .hunt s) := by
  have hwhole : ¬ (len :: (bytes ++ [crcHigh (crc16 (len :: bytes))]) ++ [crcLow (crc16 (len :: bytes))]).length <
      len.toNat + 3 := by simp [h]
  exact (if_neg hwhole).trans (if_pos ((crcHolds_iff h).mpr ⟨rfl, rfl⟩))

theorem frameBuffer_eq (tag kind : Byte) (body : List Byte) :
    frameBuffer tag kind body =
      byteOf (body.length + 2) :: (tag :: kind :: body) ++
        [crcHigh (crc16 (byteOf (body.length + 2) :: tag :: kind :: body))] := by
  have hframe : (envelope tag kind body).drop 1 =
      byteOf (body.length + 2) :: (tag :: kind :: body) ++
          [crcHigh (crc16 (byteOf (body.length + 2) :: tag :: kind :: body))] ++
        [lastByte tag kind body] := by
    simp [envelope, lastByte]
  rw [frameBuffer, hframe, List.dropLast_concat]

/-- The last byte of a frame laid out by R189 (R176, R178). -/
theorem receive_lastByte {body : List Byte} {last : DeckTime} (hlen : body.length ≤ 248)
    (hf : (s.links.get l).framer = .frame (frameBuffer tag kind body) last) :
    receive l (lastByte tag kind body) s = judgeArrival l tag kind (serve l kind body) (setFramer l .hunt s) := by
  have hbyte : (byteOf (body.length + 2)).toNat = body.length + 2 := Nat.mod_eq_of_lt (by omega)
  have hcounted : (tag :: kind :: body).length = (byteOf (body.length + 2)).toNat := hbyte.symm
  rw [receive_frame hf, frameBuffer_eq, lastByte, frameByte_goodCrc hcounted, hbyte]
  simp [arriveFrame]

/-- A byte that brings a request's frame to its end, behind it the overtime that SET PARAMETER may bring (R34). -/
theorem exec_lastByte {body : List Byte} {last : DeckTime} (hlen : body.length ≤ 248) (hrun : s.phase = .running)
    (hf : (s.links.get l).framer = .frame (frameBuffer tag kind body) last) :
    exec (.receivedByte l (lastByte tag kind body)) s =
      .next (followedByOvertime (setFramer l .hunt s) (arrive l tag kind (serve l kind body) (setFramer l .hunt s))) := by
  have hrun' : (setFramer l .hunt s).phase = .running := hrun
  rw [arrive, event_running hrun', ← receive_lastByte hlen hf, ← event_running hrun]
  rfl

/-- A request's command, with the overtime that only SET PARAMETER can bring. -/
theorem exec_request_followed (hc : requestOf c = some (l, tag, kind)) (hk : NamesNoKnownKind c) (s : State) :
    exec c s = .next (followedByOvertime s (arrive l tag kind (ownerReply c) s)) := by
  by_cases hset : ∃ k t p v, c = .setParameter k t p v
  · obtain ⟨k, t, p, v, rfl⟩ := hset
    cases hc
    rfl
  · have hparams := arrive_params l tag kind (ownerReply_params fun k t p v h => hset ⟨k, t, p, v, h⟩) s
    rw [followedByOvertime_same hparams]
    exact exec_request_of_arrive hc hk rfl hparams

/-- A well-formed UNKNOWN_REQUEST names no request (log 24). -/
theorem namesNoKnownKind_of_wellFormed (hw : c.wellFormed = true) : NamesNoKnownKind c := by
  rintro k t m rfl
  simpa [Instr.wellFormed] using hw

/-- Settles O14: the frame's end serves the body that was laid out, and serving it is the row's own arrival. -/
theorem framedRequestIsItsRow : Obligations.FramedRequestIsItsRow := by
  intro c l tag kind last s hc hw hlen hrun hf
  rw [exec_lastByte hlen hrun hf, serve_requestBody hc hw hlen,
    exec_request_followed hc (namesNoKnownKind_of_wellFormed hw)]

end Sys2Proof.Machine
end

section
/-! The race emptied or replaced (R23, R24, R37): ABANDON, ADVANCE and the advance timer. -/

namespace Sys2Proof.Machine

open Sys2Proof

/-! ## The race state -/

theorem raceState_of_none {s : State} (hs : s.heat = none) : s.raceState = .empty := by
  simp only [State.raceState, hs]

theorem raceState_of_some {s : State} {h : Heat} (hs : s.heat = some h) : s.raceState = h.phase.state := by
  simp only [State.raceState, hs]

theorem raceState_eq_empty_iff (s : State) : s.raceState = .empty ↔ s.heat = none := by
  cases hs : s.heat with
  | none => simp [raceState_of_none hs]
  | some h => cases hp : h.phase <;> simp [raceState_of_some hs, hp, RacePhase.state]

/-- A race state other than EMPTY is that of a race. -/
theorem raceState_eq_iff (s : State) (p : RacePhase) : s.raceState = p.state ↔ ∃ h, s.heat = some h ∧ h.phase = p := by
  cases hs : s.heat with
  | none => cases p <;> simp [raceState_of_none hs, RacePhase.state]
  | some h => cases hp : h.phase <;> cases p <;> simp [raceState_of_some hs, hp, RacePhase.state]

/-! ## ABANDON (R37) -/

theorem emptyRace_eq_emptied (cause : RaceCause) (l : Option Link) (s : State) :
    emptyRace cause l s = emptied cause l s := rfl

theorem performAbandon_empty (l : Link) {s : State} (hs : s.heat = none) :
    performAbandon l s = ⟨s, .wrongState, [0, 0]⟩ := by
  rw [performAbandon, if_pos hs, wrongRace, raceState_of_none hs]
  rfl

theorem performAbandon_race (l : Link) {s : State} {h : Heat} (hs : s.heat = some h) :
    performAbandon l s = done [] (emptied .abandon (some l) (queueEvent ⟨.abandon, h.definition.id, 0⟩ s)) := by
  rw [performAbandon, if_neg (by simp [hs]), emptyRace_eq_emptied]
  simp only [heatEvent, hs]

theorem queueEvent_room (i : EventItem) {s : State} (h : s.board.events.length < 4) :
    queueEvent i s = { s with board := { s.board with events := s.board.events ++ [i] } } := by
  rw [queueEvent, State.modBoard, Board.queueEvent, if_pos h]

theorem queueEvent_full (i : EventItem) {s : State} (h : 4 ≤ s.board.events.length) : queueEvent i s = s := by
  rw [queueEvent, State.modBoard, Board.queueEvent, if_neg (Nat.not_lt.mpr h)]

/-- Settles O28: by whether a race stands, and whether the event list has room for its item. -/
theorem abandonEmptiesTheRace : Obligations.AbandonEmptiesTheRace := by
  intro l tag s htakes
  refine ⟨fun hs => ?_, fun h hs hroom => ?_, fun h hs hfull => ?_⟩
  · exact congrArg _ (arrive_of_reply htakes (performAbandon_empty (s := counted l s) l hs))
  · have hreply := performAbandon_race (s := counted l s) l hs
    rw [queueEvent_room (s := counted l s) _ hroom] at hreply
    exact congrArg _ (arrive_of_reply htakes hreply)
  · have hreply := performAbandon_race (s := counted l s) l hs
    rw [queueEvent_full (s := counted l s) _ hfull] at hreply
    exact congrArg _ (arrive_of_reply htakes hreply)

/-! ## ADVANCE (R23) -/

variable {s : State}

theorem advanceAnswer_empty (hs : s.heat = none) : advanceAnswer s = [0, 0] := by
  simp only [advanceAnswer, State.raceState, State.currentId, hs]
  rfl

theorem advanceAnswer_loaded {link : Option Link} {e : QueueEntry} {rest : List QueueEntry} {t : State}
    (h : Loaded link e rest s t) : advanceAnswer t = 1 :: 1 :: e.definition.id.bytes := by
  obtain ⟨g, hg, hdef, hphase, -⟩ := h.race
  simp only [advanceAnswer, State.raceState, State.currentId, hg, hphase, Option.map_some, hdef]
  simp [optionalGroup, RacePhase.state, RaceState.code, bitSet, bit, byteOf]

/-- The race of a moment is discarded by the next load, whatever stands in it. -/
theorem Loaded.of_modHeat {link : Option Link} {e : QueueEntry} {rest : List QueueEntry} {t : State} {f : Heat → Heat}
    (h : Loaded link e rest (s.modHeat f) t) : Loaded link e rest s t :=
  { h with }

theorem advanceRace_queued (cause : RaceCause) (link : Option Link) {e : QueueEntry} {rest : List QueueEntry}
    (f : Heat → Heat) (hq : s.queue = e :: rest) : Loaded link e rest s (advanceRace cause link (s.modHeat f)) := by
  rw [advanceRace, if_neg (by simp [hq])]
  exact (load_loaded link (s := s.modHeat f) hq).of_modHeat

theorem advanceRace_alone (cause : RaceCause) (link : Option Link) (f : Heat → Heat) (hq : s.queue = []) :
    advanceRace cause link (s.modHeat f) = emptied cause link s := if_pos hq

theorem performAdvance_nothing (l : Link) (hs : s.heat = none) (hq : s.queue = []) :
    performAdvance l s = refuse .queueEmpty s := by
  simp only [performAdvance, hs, if_pos hq]

theorem performAdvance_load (l : Link) {e : QueueEntry} {rest : List QueueEntry}
    (hr : s.raceState = .empty ∨ s.raceState = .final) (hq : s.queue = e :: rest) :
    ∃ t, Loaded (some l) e rest s t ∧ performAdvance l s = done (1 :: 1 :: e.definition.id.bytes) t := by
  rcases hr with hr | hr
  · have hload := load_loaded (some l) hq
    refine ⟨_, hload, ?_⟩
    simp only [performAdvance, (raceState_eq_empty_iff s).mp hr, if_neg (hq ▸ List.cons_ne_nil e rest),
      advanceAnswer_loaded hload]
  · obtain ⟨h, hs, hp⟩ := (raceState_eq_iff s .final).mp hr
    have hload := advanceRace_queued .advance (some l) (fun h => { h with advance := none }) hq
    refine ⟨_, hload, ?_⟩
    simp only [performAdvance, hs, hp, advanceAnswer_loaded hload]

theorem performAdvance_emptied (l : Link) (hr : s.raceState = .final) (hq : s.queue = []) :
    performAdvance l s = done [0, 0] (emptied .advance (some l) s) := by
  obtain ⟨h, hs, hp⟩ := (raceState_eq_iff s .final).mp hr
  simp only [performAdvance, hs, hp, advanceRace_alone .advance (some l) _ hq]
  rw [advanceAnswer_empty rfl]

theorem lanesWhere_congr (h : Heat) {p q : Lane → Bool} (hpq : ∀ r, p r = q r) : h.lanesWhere p = h.lanesWhere q := by
  rw [funext hpq]

theorem unreleased_eq (r : Lane) : r.unreleased = (r.state != .vacant && r.state != .released) := by
  cases hr : r.state <;> simp [Lane.unreleased, hr]

theorem performAdvance_held (l : Link) {h : Heat} (hs : s.heat = some h) (hp : h.phase = .review) :
    performAdvance l s =
      ⟨s, .held, laneSetBytes (h.lanesWhere fun r => r.state != .vacant && r.state != .released)⟩ := by
  simp only [performAdvance, hs, hp, lanesWhere_congr h unreleased_eq]

theorem performAdvance_refused (l : Link) (hr : s.raceState = .loaded ∨ s.raceState = .marks ∨ s.raceState = .running) :
    performAdvance l s = wrongRace s := by
  rcases hr with hr | hr | hr
  · obtain ⟨h, hs, hp⟩ := (raceState_eq_iff s .loaded).mp hr
    simp only [performAdvance, hs, hp]
  · obtain ⟨h, hs, hp⟩ := (raceState_eq_iff s .marks).mp hr
    simp only [performAdvance, hs, hp]
  · obtain ⟨h, hs, hp⟩ := (raceState_eq_iff s .running).mp hr
    simp only [performAdvance, hs, hp]

/-! ## The advance timer (R24) -/

theorem advanceDue_iff (s : State) :
    advanceDue s = true ↔ ∃ h t, s.heat = some h ∧ h.advance = some t ∧ t.limit ≤ elapsed t.start s.deckTime := by
  cases hs : s.heat with
  | none => simp [advanceDue, hs]
  | some h => simp [advanceDue, hs, Timer.due, Option.any_eq_true]

theorem exec_advanceTimerExpiry (hrun : s.phase = .running) :
    exec .advanceTimerExpiry s =
      .next (settle (if advanceDue s = true then
        advanceRace .advanceTimer none (s.modHeat fun h => { h with advance := none }) else s)) := by
  exact congrArg _ (event_running hrun _)

/-- Settles O27: the request by race state and queue, the timer by whether it has run out. -/
theorem advanceAndItsTimer : Obligations.AdvanceAndItsTimer := by
  refine ⟨fun l tag s htakes => ⟨fun hr hq => ?_, fun e rest hr hq => ?_, fun hr hq => ?_, fun h hs hp => ?_,
    fun hr => ?_⟩, fun s hrun => ⟨fun h t e rest hs ht hdue hq => ?_, fun h t hs ht hdue hq => ?_, fun hearly => ?_⟩⟩
  · exact congrArg _ (arrive_of_reply htakes
      (performAdvance_nothing (s := counted l s) l ((raceState_eq_empty_iff s).mp hr) hq))
  · obtain ⟨t, hload, hreply⟩ := performAdvance_load (s := counted l s) l hr hq
    exact ⟨t, hload, congrArg _ (arrive_of_reply htakes hreply)⟩
  · exact congrArg _ (arrive_of_reply htakes (performAdvance_emptied (s := counted l s) l hr hq))
  · exact congrArg _ (arrive_of_reply htakes (performAdvance_held (s := counted l s) l hs hp))
  · exact congrArg _ (arrive_of_reply htakes (performAdvance_refused (s := counted l s) l hr))
  · have hdue := (advanceDue_iff s).mpr ⟨h, t, hs, ht, hdue⟩
    exact ⟨_, advanceRace_queued .advanceTimer none (fun h => { h with advance := none }) hq,
      by rw [exec_advanceTimerExpiry hrun, if_pos hdue]⟩
  · have hdue := (advanceDue_iff s).mpr ⟨h, t, hs, ht, hdue⟩
    rw [exec_advanceTimerExpiry hrun, if_pos hdue, advanceRace_alone .advanceTimer none _ hq]
  · have hnot : ¬ advanceDue s = true := fun hdue => by
      obtain ⟨h, t, hs, ht, hlate⟩ := (advanceDue_iff s).mp hdue
      exact absurd (hearly h t hs ht) (Nat.not_lt.mpr hlate)
    rw [exec_advanceTimerExpiry hrun, if_neg hnot]

end Sys2Proof.Machine
end

section
/-! What an empty queue brings (logs 1, 3, 5): the events that have fallen due by phase (R187), one of them taken, else a unit. -/

namespace Sys2Proof.Machine

open Sys2Proof

variable {s : State}

/-! ## The event taken, or the unit that passes -/

theorem nextDue_nothing (h : dueCommands s = []) : nextDue s = none := by
  simp only [nextDue, h]

theorem nextDue_one {c : Instr} (h : dueCommands s = [c]) : nextDue s = some (c, s) := by
  simp only [nextDue, h]

/-- The free choice is among those that have fallen due (log 3). -/
theorem nextDue_several (h : 2 ≤ (dueCommands s).length) :
    ∃ c ∈ dueCommands s, nextDue s = some (c, { s with choices := s.choices + 1 }) := by
  match hd : dueCommands s with
  | [] => simp [hd] at h
  | [_] => simp [hd] at h
  | c :: d :: ds =>
    have hlt : Config.simultaneousChoice s.choices % (c :: d :: ds).length < (c :: d :: ds).length :=
      Nat.mod_lt _ (Nat.succ_pos _)
    refine ⟨(c :: d :: ds)[Config.simultaneousChoice s.choices % (c :: d :: ds).length], List.getElem_mem hlt, ?_⟩
    simp only [nextDue, hd, List.getElem?_eq_getElem hlt, Option.getD_some]

theorem step_nextDue {c : Instr} {t : State} (hp : s.pending = []) (h : nextDue s = some (c, t)) : step s = exec c t := by
  simp only [step, hp, h]

theorem step_tick (hp : s.pending = []) (h : nextDue s = none) : step s = .next (tick s) := by
  simp only [step, hp, h]

theorem tick_running (hrun : s.phase = .running) :
    tick s = { s with
      deckTime := s.deckTime + 1
      resetn := s.resetn.map (· + 1)
      board := { s.board with flight := s.board.flight.map fun f => ⟨f.frame, f.left - 288⟩ }
      links := s.links.map Clu.tick } := by
  simp only [tick, hrun, tickReset, Board.tick, Config.unitSubticks]

/-- Settles O2: by the number of events fallen due; then a unit by phase. -/
theorem emptyQueueTakesWhatIsDueOrAUnitPasses : Obligations.EmptyQueueTakesWhatIsDueOrAUnitPasses := by
  intro s hp
  refine ⟨fun hdue => step_tick hp (nextDue_nothing hdue), fun c hdue => step_nextDue hp (nextDue_one hdue),
    fun hdue => ?_, fun hrun => ?_, fun left cause hstart => ?_, fun hheld => ?_⟩
  · obtain ⟨c, hc, hnext⟩ := nextDue_several hdue
    exact ⟨c, hc, step_nextDue hp hnext⟩
  · rw [tick_running hrun]
    exact ⟨rfl, fun l => PerLink.get_map s.links Clu.tick l⟩
  · simp only [tick, hstart, tickReset]
  · simp only [tick, hheld, tickReset]

/-! ## What has fallen due: membership by command -/

@[simp] theorem mem_dueIf (b : Bool) (c d : Instr) : d ∈ dueIf b c ↔ b = true ∧ d = c := by
  unfold dueIf
  split
  · next hb => simp [hb]
  · next hb => simp [hb]

theorem longPulseDue_iff (hp : s.phase ≠ .held) : longPulseDue s = true ↔ ∃ n, s.resetn = some n ∧ 50 ≤ n := by
  simp only [longPulseDue, bne_iff_ne, ne_eq, hp, not_false_eq_true, Bool.and_eq_true, Option.any_eq_true,
    decide_eq_true_eq, true_and]
  rfl

theorem longPulseDue_held (hp : s.phase = .held) : longPulseDue s = false := by
  simp [longPulseDue, hp]

theorem gapDue_iff (l : Link) (s : State) :
    gapDue l s = true ↔ ∃ bytes last, (s.links.get l).framer = .frame bytes last ∧ 50 ≤ elapsed last s.deckTime := by
  unfold gapDue
  split
  · next hhunt => simp [hhunt]
  · next bytes last hframe =>
    have hgap : decide (Config.gapUnits ≤ elapsed last s.deckTime) = true ↔ 50 ≤ elapsed last s.deckTime := by
      rw [decide_eq_true_eq]
      rfl
    simp [hframe, hgap]

theorem overtimeDue_iff (s : State) :
    overtimeDue s = true ↔
      ∃ h, s.heat = some h ∧ h.phase = .running ∧ h.overtimeTimer = true ∧ s.params.raceTimeLimit ≤ h.raceTime s.deckTime := by
  cases hs : s.heat with
  | none => simp [overtimeDue, hs]
  | some h => simp [overtimeDue, hs, and_assoc]

theorem timerDue_iff (t : Option Timer) (now : DeckTime) :
    timerDue t now = true ↔ ∃ u, t = some u ∧ u.limit ≤ elapsed u.start now := by
  simp [timerDue, Timer.due, Option.any_eq_true]

theorem freezeDue_iff (z : Option Freeze) (now : DeckTime) :
    timerDue (z.map Freeze.timer) now = true ↔ ∃ y, z = some y ∧ y.timer.limit ≤ elapsed y.timer.start now := by
  rw [timerDue_iff]
  simp

theorem boardSent_iff (s : State) : boardSent s = true ↔ ∃ f, s.board.flight = some ⟨f, 0⟩ := by
  simp only [boardSent, Option.any_eq_true, beq_iff_eq]
  exact ⟨fun ⟨⟨f, _⟩, hf, hleft⟩ => ⟨f, hleft ▸ hf⟩, fun ⟨f, hf⟩ => ⟨_, hf, rfl⟩⟩

theorem linkSent_iff (s : State) (l : Link) : linkSent s l = true ↔ ∃ f, (s.links.get l).flight = some ⟨f, 0⟩ := by
  simp only [linkSent, Option.any_eq_true, beq_iff_eq]
  exact ⟨fun ⟨⟨f, _⟩, hf, hleft⟩ => ⟨f, hleft ▸ hf⟩, fun ⟨f, hf⟩ => ⟨_, hf, rfl⟩⟩

theorem candidateDue_iff (p : Params) (l : Line) (now : DeckTime) (d : Decoder) :
    d.candidateDue p l now = true ↔ ∃ c, d.candidate = some c ∧ p.deglitch l d.counted c.level ≤ elapsed c.since now := by
  simp [Decoder.candidateDue, Option.any_eq_true]

theorem stuckDue_iff (p : Params) (now : DeckTime) (d : Decoder) :
    d.stuckDue p now = true ↔ d.stuck = .running ∧ p.stuckTime ≤ elapsed d.since now := by
  simp [Decoder.stuckDue]

theorem retryDue_iff (p : Params) (now : DeckTime) (r : FaultRecord) :
    r.retryDue p now = true ↔
      r.state = .retryTiming ∧ ∃ t c n, r.retryStart = some t ∧ r.serviceClass = some c ∧
        p.retryTime (p.mode c) = some n ∧ n ≤ elapsed t now := by
  simp only [FaultRecord.retryDue, FaultRecord.retryLimit, Bool.and_eq_true, beq_iff_eq, Option.any_eq_true,
    Option.bind_eq_some_iff, decide_eq_true_eq]
  constructor
  · rintro ⟨hstate, t, ht, n, ⟨c, hc, hn⟩, hle⟩
    exact ⟨hstate, t, c, n, ht, hc, hn, hle⟩
  · rintro ⟨hstate, t, c, n, ht, hc, hn, hle⟩
    exact ⟨hstate, t, ht, n, ⟨c, hc, hn⟩, hle⟩

/-- The test of a running hub that puts a command among the events fallen due; the others never fall due there. -/
def dueTest (s : State) : Instr → Bool
  | .candidateCompletes l => (s.decoder l).candidateDue s.params l s.deckTime
  | .stuckTimerExpiry l => (s.decoder l).stuckDue s.params s.deckTime
  | .retryExpiry i => (s.faults.get i).retryDue s.params s.deckTime
  | .collecttimeExpiry n => collectDue n s
  | .overtimeExpiry => overtimeDue s
  | .advanceTimerExpiry => advanceDue s
  | .boardTransmissionCompletes => boardSent s
  | .clockTimerExpiry => timerDue s.board.clockTimer s.deckTime
  | .freezeTimerExpiry => timerDue (s.board.freeze.map Freeze.timer) s.deckTime
  | .idleTimerExpiry => timerDue s.board.idleTimer s.deckTime
  | .gapExpiry l => gapDue l s
  | .linkTransmissionCompletes l => linkSent s l
  | .longResetnPulse => longPulseDue s
  | _ => false

theorem mem_dueOnDeck (c : Instr) :
    c ∈ dueOnDeck s ↔
      (∃ l, (s.decoder l).candidateDue s.params l s.deckTime = true ∧ c = .candidateCompletes l) ∨
      (∃ l, (s.decoder l).stuckDue s.params s.deckTime = true ∧ c = .stuckTimerExpiry l) ∨
      ∃ i, (s.faults.get i).retryDue s.params s.deckTime = true ∧ c = .retryExpiry i := by
  simp only [dueOnDeck, List.mem_append, List.mem_map, List.mem_filter, mem_allLines, mem_allInputs, true_and, eq_comm,
    or_assoc]

theorem mem_dueInRace (c : Instr) :
    c ∈ dueInRace s ↔
      (∃ n, collectDue n s = true ∧ c = .collecttimeExpiry n) ∨ (overtimeDue s = true ∧ c = .overtimeExpiry) ∨
      (advanceDue s = true ∧ c = .advanceTimerExpiry) := by
  simp only [dueInRace, List.mem_append, List.mem_map, List.mem_filter, mem_dueIf, allLanes, List.mem_finRange, true_and,
    eq_comm, or_assoc]

theorem mem_dueOnLines (c : Instr) :
    c ∈ dueOnLines s ↔
      (boardSent s = true ∧ c = .boardTransmissionCompletes) ∨
      (timerDue s.board.clockTimer s.deckTime = true ∧ c = .clockTimerExpiry) ∨
      (timerDue (s.board.freeze.map Freeze.timer) s.deckTime = true ∧ c = .freezeTimerExpiry) ∨
      (timerDue s.board.idleTimer s.deckTime = true ∧ c = .idleTimerExpiry) ∨
      (∃ l, gapDue l s = true ∧ c = .gapExpiry l) ∨
      ∃ l, linkSent s l = true ∧ c = .linkTransmissionCompletes l := by
  simp only [dueOnLines, List.mem_append, List.mem_map, List.mem_filter, mem_dueIf, mem_allLinks, true_and, eq_comm,
    or_assoc]

theorem mem_dueCommands_running (hrun : s.phase = .running) (c : Instr) : c ∈ dueCommands s ↔ dueTest s c = true := by
  have hmem : c ∈ dueCommands s ↔
      (longPulseDue s = true ∧ c = .longResetnPulse) ∨ c ∈ dueOnDeck s ∨ c ∈ dueInRace s ∨ c ∈ dueOnLines s := by
    simp [dueCommands, dueInPhase, hrun]
  rw [hmem, mem_dueOnDeck, mem_dueInRace, mem_dueOnLines]
  cases c <;> simp [dueTest]

/-! ## What falls due, phase by phase -/

theorem dueCommands_startUp {left : Nat} {cause : StartCause} (hstart : s.phase = .startUp left cause) :
    dueCommands s = dueIf (longPulseDue s) .longResetnPulse ++ dueIf (left == 0) .startUpEnd := by
  simp only [dueCommands, dueInPhase, hstart]

theorem dueCommands_held (hheld : s.phase = .held) : dueCommands s = [] := by
  simp only [dueCommands, dueInPhase, hheld, longPulseDue_held hheld, dueIf, List.append_nil]
  rfl

/-- Settles O3: membership command by command, each due test read as its rule states it. -/
theorem whatFallsDue : Obligations.WhatFallsDue := by
  refine ⟨fun s left cause hstart => ?_, fun s hheld => dueCommands_held hheld, fun s hrun => ?_⟩
  · have hpulse := longPulseDue_iff (s := s) (by rw [hstart]; nofun)
    rw [dueCommands_startUp hstart]
    refine ⟨by simp, by simp [hpulse], fun c hc => ?_⟩
    rcases List.mem_append.mp hc with hc | hc
    · exact .inr ((mem_dueIf ..).mp hc).2
    · exact .inl ((mem_dueIf ..).mp hc).2
  · have hpulse := longPulseDue_iff (s := s) (by rw [hrun]; nofun)
    have hmem := mem_dueCommands_running hrun
    exact ⟨fun hc => absurd ((hmem _).mp hc) nofun,
      fun l => (hmem _).trans (candidateDue_iff ..),
      fun l => (hmem _).trans (stuckDue_iff ..),
      fun i => (hmem _).trans (retryDue_iff ..),
      fun n => (hmem _).trans collectDue_eq_true_iff,
      (hmem _).trans (overtimeDue_iff s),
      (hmem _).trans (advanceDue_iff s),
      (hmem _).trans (timerDue_iff ..),
      (hmem _).trans (timerDue_iff ..),
      (hmem _).trans (freezeDue_iff ..),
      fun l => (hmem _).trans (gapDue_iff l s),
      (hmem _).trans (boardSent_iff s),
      fun l => (hmem _).trans (linkSent_iff s l),
      (hmem _).trans hpulse⟩

end Sys2Proof.Machine
end

section
/-! Reset, start-up and the lines (R135, R145, R187): what the end of start-up begins, what is not taken before it, and a level that
a line moves to. -/

namespace Sys2Proof.Machine

open Sys2Proof

variable {s : State}

/-! ## Decoders begun (R145) -/

theorem lineOfDecoder_index (l : Line) : lineOfDecoder l.index = l := by
  have hall : ∀ m ∈ allLines, lineOfDecoder m.index = m := by decide +kernel
  exact hall l (mem_allLines l)

theorem beginDecoders_get (v : Vector Decoder 73) (l : Line) :
    (beginDecoders v).get l.index = (v.get l.index).begin l := by
  rw [beginDecoders, Vector.get_eq_getElem, Vector.getElem_ofFn, Fin.eta, lineOfDecoder_index]

theorem Decoder.begin_beginsAs (l : Line) (d : Decoder) : beginsAs l d (d.begin l) := by
  cases hd : d.sensed <;> simp [beginsAs, Decoder.begin, hd, Level.isFault]

/-! ## The end of start-up (R18, R171, R174, R187) -/

/-- STARTED passes every mask, and a link at rest sends it at once (R180, R183). -/
theorem started_inFlight (cause : StartCause) (m : List NoticeKind) :
    (Clu.offer (.started cause) (Clu.reset m)).arbitrate =
      Clu.send (.notice ⟨false, .started cause⟩) (Clu.reset m) := by
  simp [Clu.offer, Clu.admits, Clu.reset, Notice.kind, Clu.arbitrate, Clu.send]

/-- A board at rest sends IDLE when the idle run begins (R163, R171). -/
theorem idle_inFlight (p : Params) :
    (Board.startIdle p 0 Board.reset).arbitrate none p 0 =
      Board.send (.idle p.idlePattern) { Board.reset with idleTimer := some ⟨0, p.idleInterval⟩ } := rfl

/-- Settles O5: from what a reset leaves, the links send STARTED and the board IDLE; the decoders begin line by line. -/
theorem startUpEnds : Obligations.StartUpEnds := by
  intro s left cause m hstart hreset
  refine ⟨endStartUp cause s, ?_, rfl, rfl, fun l => ?_, fun l => ?_, ?_⟩
  · change execStartUpEnd s = _
    simp only [execStartUpEnd, hstart]
  · change beginsAs l (s.decoder l) ((beginDecoders s.decoders).get l.index)
    rw [beginDecoders_get]
    exact Decoder.begin_beginsAs l _
  · have hlink : (endStartUp cause s).links.get l = Clu.send (.notice ⟨false, .started cause⟩) (Clu.reset (m l)) := by
      simp only [endStartUp, settle_links, raise_links, PerLink.get_map, hreset.links l, started_inFlight]
    rw [hlink]
    exact ⟨rfl, rfl, rfl, rfl, rfl, rfl, rfl⟩
  · have hboard : (endStartUp cause s).board =
        Board.send (.idle s.params.idlePattern) { Board.reset with idleTimer := some ⟨0, s.params.idleInterval⟩ } := by
      simp only [endStartUp, settle_board, raise_board, raise_heat, raise_params, raise_deckTime, hreset.board,
        hreset.heat, idle_inFlight]
    rw [hboard]
    exact ⟨rfl, rfl, rfl, rfl, rfl, rfl, rfl, rfl, hreset.heat, hreset.queue, rfl, rfl, rfl, hreset.resetPending, rfl, rfl⟩

/-! ## Nothing is taken in reset and start-up (R145, R187) -/

theorem completeLink_idle (l : Link) (hidle : s.phase ≠ .running) : completeLink l s = s := by
  rw [completeLink, if_neg fun h => hidle h.1, event_idle hidle]

theorem execDeviceResetBegins_idle (hidle : s.phase ≠ .running) : execDeviceResetBegins s = .next s := by
  unfold execDeviceResetBegins
  split
  · rfl
  · rw [completeLink_idle _ hidle, ite_self]

/-- Settles O9: a request does not arrive and an event is not taken; the completions of a link come to nothing. -/
theorem nothingIsTakenInReset : Obligations.NothingIsTakenInReset := by
  intro c s hidle hw hlevel hhigh hpower hlow hlong hend
  have hevent : ∀ f, event f s = s := event_idle hidle
  match hc : requestOf c with
  | some (l, tag, kind) =>
    exact exec_request_of_arrive hc (namesNoKnownKind_of_wellFormed hw) (hevent _) rfl
  | none =>
    cases c <;> cases hc
    case receivedByte l b => exact congrArg _ ((congrArg _ (hevent _)).trans (followedByOvertime_same rfl))
    case linkTransmissionCompletes l => exact congrArg _ (completeLink_idle l hidle)
    case deviceResetBegins => exact execDeviceResetBegins_idle hidle
    case sensedLevelChange l v => exact absurd rfl (hlevel l v)
    case resetnHigh n => exact absurd rfl (hhigh n)
    case powerOnReset => exact absurd rfl hpower
    case resetnLow => exact absurd rfl hlow
    case longResetnPulse => exact absurd rfl hlong
    case startUpEnd => exact absurd rfl hend
    all_goals exact congrArg _ (hevent _)

/-! ## A level a line moves to (R135, R145) -/

theorem execSensedLevelChange_noBand {l : Line} {v : Level} (hl : l.fourLevel = false) (hv : v.isFault = true)
    (s : State) : execSensedLevelChange l v s = .fault .levelOfNoSuchBand := by
  simp [execSensedLevelChange, hl, hv]

theorem execSensedLevelChange_band {l : Line} {v : Level} (h : l.fourLevel = true ∨ v.isFault = false) (s : State) :
    execSensedLevelChange l v s = if (s.decoder l).sensed = v then .next s else .next (senseLevel l v s) := by
  have hband : (!l.fourLevel && v.isFault) = false := by rcases h with h | h <;> simp [h]
  simp [execSensedLevelChange, hband]

/-- Settles O47: by the line's bands, then by what it shows already and by phase. -/
theorem sensedLevels : Obligations.SensedLevels := by
  intro l v s
  refine ⟨fun hl hv => execSensedLevelChange_noBand hl hv s, fun hband => ⟨fun hv => ?_, fun hv hrun => ?_, fun hv hidle => ?_⟩⟩
  · exact (execSensedLevelChange_band hband s).trans (if_pos hv)
  · exact (execSensedLevelChange_band hband s).trans ((if_neg hv).trans (congrArg _ (if_pos hrun)))
  · exact (execSensedLevelChange_band hband s).trans ((if_neg hv).trans (congrArg _ (if_neg hidle)))

end Sys2Proof.Machine
end

section
/-! The reads (R38, R60, R156, R191): each layout of the model, item group by item group, is the one the statements write out. -/

namespace Sys2Proof.Machine

open Sys2Proof

/-! ## Bytes -/

theorem flag_eq_oneIf (b : Bool) : flag b = oneIf b := by cases b <;> rfl

theorem itemBytes_eq {α : Type} (f : α → List Byte) (a : Option α) : (a.map f).getD [] = itemBytes f a := by
  cases a <;> rfl

theorem optionalGroup_one_none : optionalGroup [none] = [0] := rfl

theorem optionalGroup_one_some (bs : List Byte) : optionalGroup [some bs] = 1 :: bs := by
  simp only [optionalGroup, List.map_cons, List.map_nil, Option.isSome_some, Option.getD_some, List.flatten_cons,
    List.flatten_nil, List.append_nil]
  rfl

/-! ## READ RACE (R38) -/

theorem raceClock_eq_clockAt (h : Heat) (now : DeckTime) : h.raceClock now = clockAt h now := by
  cases hp : h.phase <;> cases ht : h.startTime <;>
    simp only [Heat.raceClock, clockAt, hp, ht, Option.map_none, Option.map_some, raceTimeFrom]

theorem definition_bytes (d : Definition) : d.bytes = definitionItems d := by
  have hmask : le2 0x3FFF = [0xFF, 0x3F] := rfl
  have hsegments : Segment.bytes = fun g => [byteOf g.lengths, byteOf g.leg, byteOf g.stroke] := rfl
  simp only [Definition.bytes, definitionItems, HeatId.bytes, countedList, hmask, hsegments, List.append_assoc,
    List.cons_append, List.nil_append]

theorem readRaceState_eq (s : State) : readRaceState s = raceItems s := by
  cases hs : s.heat with
  | none => simp [readRaceState, raceItems, hs, raceState_of_none hs, RaceState.code, flag, bit, bitSet, byteOf]
  | some h =>
    have hclock := raceClock_eq_clockAt h s.deckTime
    simp only [readRaceState, raceItems, hs, raceState_of_some hs, Option.map_some, Option.getD_some, Option.bind_some,
      Option.any_some, Option.isSome_some, hclock, flag_eq_oneIf, definition_bytes, itemBytes_eq, Timer.remaining,
      List.cons_append, List.nil_append]
    rfl

theorem toList_eq_map_get {α : Type} (v : Vector α 10) : v.toList = allLanes.map v.get := by
  apply List.ext_getElem <;> simp [allLanes, Vector.get_eq_getElem]

theorem readRaceLanes_eq (s : State) : readRaceLanes s = assignmentItems s := by
  cases hs : s.heat with
  | none => simp only [readRaceLanes, assignmentItems, hs, Option.map_none, optionalGroup_one_none]
  | some h =>
    simp only [readRaceLanes, assignmentItems, hs, Option.map_some, optionalGroup_one_some, HeatId.bytes,
      Definition.laneBytes, toList_eq_map_get, List.map_map, List.cons_append, List.append_assoc]
    rfl

/-! ## READ LANE (R60) -/

theorem use_code (l : Lane) : byteOf l.use.code = if l.state = .vacant then 1 else 0 := by
  unfold Lane.use
  split <;> rfl

theorem exchange_bytes (x : Exchange) : x.bytes = exchangeItems x := by
  cases hv : x.verdict <;> simp only [Exchange.bytes, exchangeItems, hv] <;> rfl

theorem exchanges_group (xs : List Exchange) :
    optionalGroup [if xs = [] then none else some (countedList Exchange.bytes xs)] =
      if xs = [] then [0] else 1 :: countedList exchangeItems xs := by
  split
  · exact optionalGroup_one_none
  · rw [optionalGroup_one_some, funext exchange_bytes]

theorem core_bytes (r : ResultCore) : byteOf r.outcome :: r.fields = coreItems r := by cases r <;> rfl

theorem hold_bytes (k : HoldSet) :
    k.bytes = [byteOf (bitSet [k.cl0, k.cl1, k.cl2, !k.reasons.isEmpty]), k.reasons.byte] := rfl

theorem collection_bytes (h : Heat) (l : Lane) (now : DeckTime) :
    l.collection.map (fun c => c.bytes (collectRemaining h l now)) =
      l.collection.map (collectionItems h.definition (h.raceTime now)) := by
  cases hc : l.collection with
  | none => rfl
  | some c =>
    simp only [Option.map_some, collectRemaining, hc]
    rfl

theorem laneReport_eq (h : Heat) (n : LaneNo) (now : DeckTime) :
    laneReport n (h.lanes.get n) (h.desks.get n) (collectRemaining h (h.lanes.get n) now) = laneItems h n now := by
  simp only [laneReport, laneItems, use_code, exchanges_group, collection_bytes, core_bytes, hold_bytes, itemBytes_eq,
    placeByte]
  rfl

theorem performReadLane_race {b : Byte} {n : LaneNo} {s : State} {h : Heat} (hb : b.toNat = n.val) (hs : s.heat = some h) :
    performReadLane b s = done (laneItems h n s.deckTime) s := by
  rw [performReadLane, laneRequest_taken (laneOfByte_of_toNat hb) hs (by cases (h.lanes.get n).state <;> rfl),
    laneReport_eq]

/-! ## READ FAULTS (R156) -/

theorem linkFault_code (d : Option Discard) : LastCondition.optCode (d.map .link) = (d.map Discard.code).getD 0xFF := by
  cases d <;> rfl

theorem allFaults_eq (s : State) : allFaults s = faultItems s := by
  simp only [allFaults, faultItems, LinkFault.bytes, linkFault_code, flag_eq_oneIf]
  rfl

theorem inputFault_code (c : Option Condition) :
    LastCondition.optCode (c.map .input) = (c.map Condition.code).getD 0xFF := by
  cases c <;> rfl

theorem inService_eq (st : FaultState) : st.inService = (st == .clear || st == .reporting) := by cases st <;> rfl

theorem presentClass_bytes (i : Fin 71) (r : FaultRecord) :
    (presentClass i r).map (fun c => [byteOf c.code]) =
      if r.present = .none then none else some [byteOf (conditionClass i r.present).code] := by
  unfold presentClass
  split <;> rfl

theorem retryRemaining_bytes (p : Params) (now : DeckTime) (r : FaultRecord) :
    (r.retryRemaining p now).map le4 =
      match r.retryStart, r.serviceClass.bind fun c => p.retryTime (p.mode c) with
      | some t, some limit => some (le4 (limit - elapsed t now))
      | _, _ => none := by
  unfold FaultRecord.retryRemaining FaultRecord.retryLimit
  cases r.retryStart with
  | none => rfl
  | some t => cases r.serviceClass.bind fun c => p.retryTime (p.mode c) <;> rfl

theorem oneFault_eq (s : State) (i : Fin 71) : oneFault s i = inputItems s i := by
  simp only [oneFault, inputItems, inputFault_code, inService_eq, flag_eq_oneIf, presentClass_bytes,
    retryRemaining_bytes]
  rfl

theorem oneLinkFault_eq (f : LinkFault) :
    oneLinkFault f = [0, 1, 0, byteOf ((f.last.map Discard.code).getD 0xFF), if f.seen then 1 else 0, 0] := by
  simp only [oneLinkFault, linkFault_code, flag_eq_oneIf]
  rfl

theorem performReadFaults_all (s : State) : performReadFaults 0xFF s = done (faultItems s) s := by
  rw [← allFaults_eq]
  rfl

theorem performReadFaults_input {b : Byte} {i : Fin 71} (hb : b.toNat = i.val) (s : State) :
    performReadFaults b s = done (inputItems s i) s := by
  have hlt : b.toNat < 71 := hb ▸ i.isLt
  have hi : (⟨b.toNat, hlt⟩ : Fin 71) = i := Fin.ext hb
  simp only [performReadFaults, decodeRecord_input hlt, hi, oneFault_eq]

theorem performReadFaults_link {b : Byte} {k : Link} (hb : b.toNat = 71 + k.code) (s : State) :
    performReadFaults b s = done (oneLinkFault (s.linkFaults.get k)) s := by
  simp only [performReadFaults, decodeRecord_link hb]

/-- Settles O18: each read answers the state it was given, in the layout of R191. -/
theorem readsChangeNothing : Obligations.ReadsChangeNothing := by
  intro l tag s htakes
  have hread : ∀ {c : Instr} {kind : Byte} {data : List Byte}, requestOf c = some (l, tag, kind) →
      NamesNoKnownKind c → ownerReply c (counted l s) = done data (counted l s) →
      exec c s = .next (answered l tag kind .done data (counted l s)) :=
    fun hc hk hr => exec_request_of_unchanged hc hk htakes hr
  refine ⟨?_, ?_, fun b n h hb hs => ?_, ?_, fun b i hb => ?_, fun b k hb => ?_⟩
  · exact hread (c := .readRace l tag 0) rfl nofun (congrArg (done · _) (readRaceState_eq (counted l s)))
  · exact hread (c := .readRace l tag 1) rfl nofun (congrArg (done · _) (readRaceLanes_eq (counted l s)))
  · exact hread (c := .readLane l tag b) rfl nofun (performReadLane_race (s := counted l s) hb hs)
  · exact hread (c := .readFaults l tag 0xFF) rfl nofun (performReadFaults_all (counted l s))
  · exact hread (c := .readFaults l tag b) rfl nofun (performReadFaults_input hb (counted l s))
  · refine hread (c := .readFaults l tag b) rfl nofun ((performReadFaults_link hb (counted l s)).trans ?_)
    rw [oneLinkFault_eq]
    rfl

end Sys2Proof.Machine
end

section
/-! One induction for every invariant of race and decoders: a property that the operations on them keep is kept by every step. -/

namespace Sys2Proof.Machine

open Sys2Proof

/-- A property of race and decoders that every operation on them keeps, each under what stands when it is run. -/
structure KeptByOperations (P : State → Prop) : Prop where
  congr : ∀ {s t : State}, P s → (t.phase = .running → s.phase = .running) → t.heat = s.heat →
    t.decoders = s.decoders → P t
  lane : ∀ {c : Instr} {b : Byte} {n : LaneNo} {s : State}, laneOf c = some b → b.toNat = n.val → P s →
    P (lanePerform c s).state
  load : ∀ (l : Option Link) {s : State}, P s → P (load l s)
  empties : ∀ (cause : RaceCause) (l : Option Link) {s : State}, P s → P (emptyRace cause l s)
  advance : ∀ (a : Option Timer) {s : State}, P s → P (s.modHeat fun h => { h with advance := a })
  starts : ∀ (d : DeckTime) (cause : RaceCause) (l : Option Link) {s : State} {h : Heat}, s.heat = some h →
    h.phase = .loaded ∨ h.phase = .marks → P s → P (startRace d cause l s)
  resolves : ∀ (n : LaneNo) {s : State}, collectDue n s = true → P s → P (resolveFinish n s)
  overtime : ∀ {s : State}, overtimeDue s = true → P s → P (overtime s)
  faults : ∀ (is : List (Fin 71)) (f : Fin 71 → FaultRecord → FaultRecord) (c : Fin 71 → FaultRecord → FaultClass)
    (k : FaultCause) (l : Option Link) {s : State}, P s → P (moveFaults is f c k l s)
  completes : ∀ (ls : List Line) {s : State}, ls.Nodup → P s → P (completeLines ls s)
  expires : ∀ (ls : List Line) {s : State}, ls.Nodup → P s → P (expireLines ls s)
  senses : ∀ (l : Line) (v : Level) {s : State}, (l.fourLevel = false → v.isFault = false) → P s → P (senseLevel l v s)
  begins : ∀ (cause : StartCause) {s : State}, P s → P (endStartUp cause s)
  resets : ∀ {p : Params} {m : Link → List NoticeKind} {s t : State}, ResetTo p m s t → t.phase ≠ .running → P s → P t

namespace KeptByOperations

variable {P : State → Prop} (hP : KeptByOperations P) {s : State}

include hP

/-! ## Events -/

theorem same {t : State} (hs : P s) (hphase : t.phase = s.phase) (hheat : t.heat = s.heat)
    (hdecoders : t.decoders = s.decoders) : P t :=
  hP.congr hs (fun hrun => hphase ▸ hrun) hheat hdecoders

theorem settle (hs : P s) : P (Machine.settle s) := hP.same hs rfl rfl rfl

theorem event {f : State → State} (hs : P s) (hf : P (f s)) : P (event f s) := by
  unfold Machine.event
  split
  · exact hP.settle hf
  · exact hs

/-- An event that acts only while it is due. -/
theorem event_due {due : State → Bool} {f : State → State} (hs : P s) (hf : due s = true → P (f s)) :
    P (Machine.event (fun u => if due u then f u else u) s) := by
  refine hP.event hs ?_
  split
  · next hdue => exact hf hdue
  · exact hs

theorem overtimeIfDue (hs : P s) : P (overtimeIfDue s) := by
  unfold Machine.overtimeIfDue
  split
  · next hdue => exact hP.overtime hdue hs
  · exact hs

theorem followedByOvertime {t : State} (s : State) (ht : P t) : P (followedByOvertime s t) := by
  unfold Machine.followedByOvertime
  split
  · exact hP.event ht (hP.overtimeIfDue ht)
  · exact ht

theorem advanceRace (cause : RaceCause) (l : Option Link) (hs : P s) : P (advanceRace cause l s) := by
  unfold Machine.advanceRace
  split
  · exact hP.empties cause l hs
  · exact hP.load l hs

theorem clearFaults (is : List (Fin 71)) (ls : List Link) (l : Option Link) (hs : P s) : P (clearFaults is ls l s) := by
  have hlink : ∀ (t : State) (k : Link), P t → P (clearLink l t k) := fun t k ht => by
    unfold clearLink
    dsimp only
    split
    · exact hP.same ht rfl rfl rfl
    · exact ht
  have hlinks : ∀ t, P t → P (ls.foldl (clearLink l) t) := by
    induction ls with
    | nil => exact fun _ ht => ht
    | cons k ls ih => exact fun t ht => ih _ (hlink t k ht)
  exact hlinks _ (hP.faults is _ _ _ l hs)

/-! ## Requests -/

theorem stageHeat (l : Link) (b : HeatBody) (hs : P s) : P (performStageHeat l b s).state := by
  unfold performStageHeat
  split
  · exact hs
  unfold stageDefinition
  split
  · exact hs
  split
  · exact hs
  split
  · exact hs
  · change P (stage l _ s)
    unfold stage
    dsimp only
    split
    · exact hP.load _ (hP.same hs rfl rfl rfl)
    · exact hP.same hs rfl rfl rfl

theorem withdrawHeat (l : Link) (i : HeatId) (hs : P s) : P (performWithdrawHeat l i s).state := by
  unfold performWithdrawHeat
  split
  · exact hP.same hs rfl rfl rfl
  · split <;> exact hs

theorem performAdvance (l : Link) (hs : P s) : P (performAdvance l s).state := by
  unfold Machine.performAdvance
  split
  · split
    · exact hs
    · exact hP.load _ hs
  · split
    · exact hP.advanceRace _ _ (hP.advance none hs)
    all_goals exact hs

theorem abandon (l : Link) (hs : P s) : P (performAbandon l s).state := by
  unfold performAbandon
  split
  · exact hs
  · exact hP.empties _ _ (hP.same hs (RaceOnly.heatEvent _ _ s).phase (heatEvent_heat _ _ s)
      (RaceOnly.heatEvent _ _ s).decoders)

theorem startRace (l : Link) (hs : P s) : P (performStartRace l s).state := by
  unfold performStartRace
  split
  · exact hs
  split
  · exact hs
  split
  · next h hh hphase => exact hP.starts _ _ _ hh hphase hs
  · exact hs

theorem parameterWritten (p : ParamId) (hs : P s) : P (parameterWritten p s) := by
  have hdeglitch : P (deglitchWritten p s) := hP.completes _ (allLines_nodup.filter _) hs
  have hretry : ∀ m, P (retryWritten m s) := fun m => hP.faults _ _ _ _ _ hs
  unfold Machine.parameterWritten
  split
  iterate 5 exact hdeglitch
  · exact hP.expires _ allLines_nodup hs
  · exact hretry _
  · exact hretry _
  · unfold autoAdvanceWritten
    split
    · split
      · exact hs
      · split
        · exact hP.advance _ hs
        · exact hs
    · exact hP.advance _ hs
  · split
    · exact hP.faults _ _ _ _ _ hs
    · exact hs

theorem setParameter (l : Link) (p : Byte) (v : Word32) (hs : P s) : P (performSetParameter l p v s).state := by
  unfold performSetParameter
  split
  · exact hs
  split
  · exact hs
  split
  · change P (writeParameter l _ _ s)
    unfold writeParameter
    dsimp only
    split
    · exact hP.same hs rfl rfl rfl
    · exact hP.parameterWritten _ (hP.same hs rfl rfl rfl)
  · exact hs

theorem performClearFaults (l : Link) (record : Byte) (hs : P s) : P (performClearFaults l record s).state := by
  unfold Machine.performClearFaults
  split
  · exact hs
  · exact hP.clearFaults _ _ _ hs

theorem lanePerform {c : Instr} {b : Byte} (hb : laneOf c = some b) (hs : P s) : P (lanePerform c s).state := by
  by_cases hn : b.toNat < 10
  · exact hP.lane (n := ⟨b.toNat, hn⟩) hb rfl hs
  · have hw : c.wellFormed = false := by
      refine Bool.eq_false_iff.mpr fun hw => ?_
      obtain ⟨n, hlane⟩ := lane_of_wellFormed hb hw
      rw [laneOfByte_of_ge (Nat.not_lt.mp hn)] at hlane
      cases hlane
    rwa [lanePerform_malformed hb hw]

theorem ownerReply (c : Instr) (hs : P s) : P (ownerReply c s).state := by
  match hb : laneOf c with
  | some b =>
    rw [ownerReply_lane hb]
    exact hP.lanePerform hb hs
  | none =>
    cases c <;> cases hb
    case stageHeat l _ body => exact hP.stageHeat l body hs
    case withdrawHeat l _ event heat => exact hP.withdrawHeat l ⟨event, heat⟩ hs
    case advance l _ => exact hP.performAdvance l hs
    case abandon l _ => exact hP.abandon l hs
    case startRace l _ => exact hP.startRace l hs
    case readRace part => rwa [Machine.ownerReply, performReadRace_state]
    case setParameter l _ param value => exact hP.setParameter l param value hs
    case getParameter param => rwa [Machine.ownerReply, performGetParameter_state]
    case setNoticeMask l _ kinds =>
      change P (performSetNoticeMask l kinds s).state
      unfold performSetNoticeMask
      split
      · exact hs
      · exact hP.same hs rfl rfl rfl
    case readFaults record => rwa [Machine.ownerReply, performReadFaults_state]
    case clearFaults l _ record => exact hP.performClearFaults l record hs
    case resetDevice l _ =>
      change P (performResetDevice l s).state
      unfold performResetDevice
      split
      iterate 3 exact hP.same hs rfl rfl rfl
      all_goals exact hs
    all_goals exact hs

omit hP in
theorem withBody {α : Type} {perform : α → State → Reply} (r : Reader α) (body : List Byte) (hs : P s)
    (h : ∀ a, P (perform a s).state) : P (withBody r body perform s).state := by
  unfold Machine.withBody
  split
  · exact hs
  · exact h _

omit hP in
theorem withoutBody {perform : State → Reply} (body : List Byte) (hs : P s) (h : P (perform s).state) :
    P (withoutBody body perform s).state := by
  unfold Machine.withoutBody
  split
  · exact h
  · exact hs

/-- A request served from its bytes is its command's owner, or no request. -/
theorem serve (l : Link) (kind : Byte) (body : List Byte) (hs : P s) : P (serve l kind body s).state := by
  have hown : ∀ c, P (Machine.ownerReply c s).state := fun c => hP.ownerReply c hs
  unfold Machine.serve
  split
  · exact withBody _ _ hs fun b => hown (.stageHeat l 0 b)
  · exact withBody _ _ hs fun i => hP.withdrawHeat l i hs
  · exact withoutBody _ hs hs
  · exact withoutBody _ hs (hown (.advance l 0))
  · exact withoutBody _ hs (hown (.abandon l 0))
  · exact withoutBody _ hs (hown (.startRace l 0))
  · exact withBody _ _ hs fun b => hown (.readRace l 0 b)
  · exact withBody _ _ hs fun b => hown (.scratchLane l 0 b)
  · exact withBody _ _ hs fun b => hown (.assignEntrant l 0 b.1 b.2)
  · exact withBody _ _ hs fun b => hown (.setLaneTiming l 0 b.1 b.2)
  · exact withBody _ _ hs fun b => hown (.promoteTouch l 0 b.1 b.2)
  · exact withBody _ _ hs fun b => hown (.declareNoFinish l 0 b)
  · exact withBody _ _ hs fun b => hown (.enterFinish l 0 b.1 b.2)
  · exact withBody _ _ hs fun b => hown (.adjustFinish l 0 b.1 b.2)
  · exact withBody _ _ hs fun b => hown (.readLane l 0 b)
  · exact withBody _ _ hs fun b => hown (.readSplits l 0 b.1 b.2)
  · exact withBody _ _ hs fun b => hown (.holdLane l 0 b)
  · exact withBody _ _ hs fun b => hown (.unholdLane l 0 b)
  · exact withBody _ _ hs fun b => hown (.clearSystemHold l 0 b.1 b.2)
  · exact withBody _ _ hs fun b => hown (.releaseLane l 0 b)
  · exact withBody _ _ hs fun b => hown (.disqualify l 0 b.1 b.2)
  · exact withBody _ _ hs fun b => hown (.reinstate l 0 b)
  · exact withBody _ _ hs fun b => hown (.setParameter l 0 b.1 b.2)
  · exact withBody _ _ hs fun b => hown (.getParameter l 0 b)
  · exact withBody _ _ hs fun b => hown (.setNoticeMask l 0 b)
  · exact withBody _ _ hs fun b => hown (.readFaults l 0 b)
  · exact withBody _ _ hs fun b => hown (.clearFaults l 0 b)
  · exact withoutBody _ hs (hown (.resetDevice l 0))
  · exact hs

theorem judgeArrival {perform : State → Reply} (l : Link) (tag kind : Byte) (hs : P s)
    (hp : ∀ u, P u → P (perform u).state) : P (judgeArrival l tag kind perform s) := by
  unfold Machine.judgeArrival
  split
  · unfold refuseBusy
    split
    · exact hP.same hs rfl rfl rfl
    · exact hs
  · exact hP.same (hp (counted l s) (hP.same hs rfl rfl rfl)) rfl rfl rfl

theorem exec_request {c : Instr} {l : Link} {tag kind : Byte} (hc : requestOf c = some (l, tag, kind)) (hs : P s) :
    Ends P (exec c s) := by
  by_cases hk : NamesNoKnownKind c
  · have harrive : P (arrive l tag kind (Machine.ownerReply c) s) :=
      hP.event hs (hP.judgeArrival l tag kind hs fun _ hu => hP.ownerReply c hu)
    rcases Machine.exec_request hc hk s with h | h <;> rw [h]
    · exact harrive
    · exact hP.followedByOvertime s harrive
  · simp only [NamesNoKnownKind, not_forall] at hk
    obtain ⟨k, t, m, rfl, hm⟩ := hk
    change Ends P (execUnknownRequest k t m s)
    rw [execUnknownRequest, if_pos (by simpa using hm)]
    trivial

/-! ## Received bytes -/

theorem discard (l : Link) (d : Discard) (hs : P s) : P (discard l d s) := by
  have hhunt : P (setFramer l .hunt s) := hP.same hs rfl rfl rfl
  unfold Machine.discard reportDiscard
  split
  · exact hhunt
  · exact hP.same hhunt rfl rfl rfl

theorem frameByte (l : Link) (buffer : List Byte) (b : Byte) (hs : P s) : P (frameByte l buffer b s) := by
  have hset : ∀ f, P (setFramer l f s) := fun f => hP.same hs rfl rfl rfl
  unfold Machine.frameByte
  split
  · split
    · exact hP.discard l .length hs
    · exact hset _
  · dsimp only
    split
    · exact hset _
    · split
      · unfold arriveFrame
        split
        · exact hP.judgeArrival l _ _ (hset _) fun _ hu => hP.serve l _ _ hu
        · exact hset _
      · exact hP.discard l .crc hs

theorem receive (l : Link) (b : Byte) (hs : P s) : P (receive l b s) := by
  unfold Machine.receive
  split
  · split
    · exact hP.same hs rfl rfl rfl
    · exact hs
  · exact hP.frameByte l _ b hs

/-! ## Transmissions, levels, resets -/

theorem completeLink (l : Link) (hs : P s) : P (completeLink l s) := by
  unfold Machine.completeLink
  split
  · exact hP.resets (resetState_resetTo s.params s.masks _ s) nofun hs
  · exact hP.event hs (hP.same hs rfl rfl rfl)

theorem execDeviceResetBegins (hs : P s) : Ends P (execDeviceResetBegins s) := by
  unfold Machine.execDeviceResetBegins
  split
  · exact hs
  · split
    · exact hP.completeLink _ hs
    · exact hs

theorem execSensedLevelChange (l : Line) (v : Level) (hs : P s) : Ends P (execSensedLevelChange l v s) := by
  unfold Machine.execSensedLevelChange
  split
  · trivial
  · next hband =>
    split
    · exact hs
    · refine hP.senses l v (fun hl => ?_) hs
      simpa [hl] using hband

theorem endPulse (micros : Nat) (hs : P s) : P (endPulse micros s) := by
  have hreleased : P (resetnReleased s) := hP.same hs rfl rfl rfl
  unfold Machine.endPulse
  split
  · exact hreleased
  · split
    · exact hP.event hreleased (hP.clearFaults _ _ none hreleased)
    · exact hP.resets (fullReset_resetTo _ _) nofun hreleased

theorem execResetnHigh (micros : Nat) (hs : P s) : Ends P (execResetnHigh micros s) := by
  unfold Machine.execResetnHigh
  split
  · exact hs
  · split
    · exact hP.congr hs nofun rfl rfl
    · exact hP.endPulse _ hs

theorem execResetnLow (hs : P s) : Ends P (execResetnLow s) := by
  unfold Machine.execResetnLow
  split
  · exact hP.same hs rfl rfl rfl
  · exact hs

theorem execLongResetnPulse (hs : P s) : Ends P (execLongResetnPulse s) := by
  unfold Machine.execLongResetnPulse
  split
  · exact hP.resets (fullReset_resetTo .held s) nofun hs
  · exact hs

theorem execStartUpEnd (hs : P s) : Ends P (execStartUpEnd s) := by
  unfold Machine.execStartUpEnd
  split
  · exact hP.begins _ hs
  · exact hs
  · exact hs

theorem execPowerOnReset (hs : P s) : Ends P (execPowerOnReset s) :=
  hP.same (hP.resets (fullReset_resetTo (.startUp Config.startUpUnits .powerOn) s) nofun hs) rfl rfl rfl

/-! ## The step -/

theorem exec (c : Instr) (hs : P s) : Ends P (exec c s) := by
  match hc : requestOf c with
  | some (l, tag, kind) => exact hP.exec_request hc hs
  | none =>
    have hboard : ∀ f, P (s.modBoard f) := fun f => hP.same hs rfl rfl rfl
    cases c <;> cases hc
    case receivedByte l b => exact hP.followedByOvertime s (hP.event hs (hP.receive l b hs))
    case gapExpiry l => exact hP.event_due hs fun _ => hP.discard l .gap hs
    case linkTransmissionCompletes l => exact hP.completeLink l hs
    case deviceResetBegins => exact hP.execDeviceResetBegins hs
    case sensedLevelChange l v => exact hP.execSensedLevelChange l v hs
    case candidateCompletes l => exact hP.event hs (hP.completes _ (List.nodup_singleton l) hs)
    case stuckTimerExpiry l => exact hP.event hs (hP.expires _ (List.nodup_singleton l) hs)
    case retryExpiry i => exact hP.event hs (hP.faults _ _ _ _ _ hs)
    case collecttimeExpiry n => exact hP.event_due hs fun hdue => hP.resolves n hdue hs
    case overtimeExpiry => exact hP.event hs (hP.overtimeIfDue hs)
    case advanceTimerExpiry => exact hP.event_due hs fun _ => hP.advanceRace _ _ (hP.advance none hs)
    case boardTransmissionCompletes => exact hP.event hs (hboard _)
    case clockTimerExpiry => exact hP.event hs (hboard _)
    case freezeTimerExpiry => exact hP.event hs (hboard _)
    case idleTimerExpiry => exact hP.event hs (hboard _)
    case powerOnReset => exact hP.execPowerOnReset hs
    case resetnLow => exact hP.execResetnLow hs
    case longResetnPulse => exact hP.execLongResetnPulse hs
    case resetnHigh micros => exact hP.execResetnHigh micros hs
    case startUpEnd => exact hP.execStartUpEnd hs

theorem tick (hs : P s) : P (tick s) := by
  unfold Machine.tick
  split
  · next hrun => exact hP.congr hs (fun _ => hrun) rfl rfl
  · exact hP.congr hs nofun rfl rfl
  · exact hP.same hs rfl rfl rfl

theorem step (hs : P s) : Ends P (step s) := by
  unfold Machine.step
  split
  · exact hP.exec _ (hP.same hs rfl rfl rfl)
  · split
    · next c t hnext =>
      refine hP.exec c ?_
      unfold nextDue at hnext
      split at hnext <;> cases hnext
      · exact hs
      · exact hP.same hs rfl rfl rfl
    · exact hP.tick hs

/-- An invariant of the operations holds after every step that leaves a state. -/
theorem step_next {t : State} (hs : P s) (ht : Machine.step s = .next t) : P t := by
  have hstep := hP.step hs
  rwa [ht] at hstep

end KeptByOperations

end Sys2Proof.Machine
end

section
/-! Every step keeps every decoder to its line (R135, R143): a level sensed, a candidate counted, a stuck timer expired, the decoders
begun or stopped. -/

namespace Sys2Proof.Machine

open Sys2Proof

variable {l : Line} {d : Decoder}

/-! ## One decoder -/

theorem Decoder.sense_shaped (v : Level) (now : DeckTime) (h : d.shaped l) : (d.sense v now).shaped l := by
  refine ⟨?_, h.stuck, h.band⟩
  by_cases hv : v = d.counted <;> simp [Decoder.sense, hv]

/-- The candidate that is counted is the level the line shows. -/
theorem Decoder.shaped_candidate (h : d.shaped l) {c : Candidate} (hc : d.candidate = some c) : d.sensed = c.level := by
  have hlevel := h.candidate
  rw [hc] at hlevel
  split at hlevel
  · cases hlevel
  · exact (Option.some.inj hlevel).symm

theorem Decoder.counts_shaped (hband : l.fourLevel = false → d.sensed.isFault = false) (h : d.shaped l) :
    (d.counts l).shaped l := by
  unfold Decoder.counts
  split
  · exact h
  · next c hc =>
    have hlevel := Decoder.shaped_candidate h hc
    refine ⟨by simp [Decoder.count, hlevel], ?_, fun hl => ?_⟩
    · by_cases hrun : l.hasStuckTimer = true ∧ c.level = .active
      · simp [Decoder.count, hrun]
      · simp only [Decoder.count, if_neg hrun, true_iff]
        exact fun ⟨hactive, htimer⟩ => hrun ⟨htimer, hactive⟩
    · change c.level.isFault = false
      exact hlevel ▸ hband hl

/-- The stuck timer that expires was running. -/
theorem Decoder.expired_shaped (h : d.shaped l) (hrun : d.stuck = .running) : ({ d with stuck := .expired }).shaped l := by
  refine ⟨h.candidate, ?_, h.band⟩
  have hstuck := h.stuck
  rw [hrun] at hstuck
  simpa using hstuck

/-- A decoder that begins counts ACTIVE or IDLE, whatever its line shows. -/
theorem Decoder.begin_shaped (l : Line) (d : Decoder) : (d.begin l).shaped l := by
  cases hd : d.sensed <;>
    exact ⟨by simp [Decoder.begin, hd], by simp [Decoder.begin, hd], fun _ => by simp [Decoder.begin, hd, Level.isFault]⟩

theorem Decoder.begin_sensed (l : Line) (d : Decoder) : (d.begin l).sensed = d.sensed := by
  cases hd : d.sensed <;> simp [Decoder.begin, hd]

theorem Decoder.counts_sensed (l : Line) (d : Decoder) : (d.counts l).sensed = d.sensed := by
  unfold Decoder.counts
  split <;> rfl

/-! ## The operations -/

variable {s t : State}

/-- Decoders changed each by itself: the line's level stays, and a shaped decoder stays one. -/
theorem DecodersShaped.of_decoder (hs : DecodersShaped s) (hphase : t.phase = s.phase)
    (h : ∀ m, (t.decoder m).sensed = (s.decoder m).sensed ∧
      ((m.fourLevel = false → (s.decoder m).sensed.isFault = false) → (s.decoder m).shaped m → (t.decoder m).shaped m)) :
    DecodersShaped t := fun m =>
  ⟨fun hm => by rw [(h m).1]; exact (hs m).1 hm, fun hrun => (h m).2 (hs m).1 ((hs m).2 (hphase ▸ hrun))⟩

theorem DecodersShaped.congr (hs : DecodersShaped s) (hphase : t.phase = .running → s.phase = .running)
    (hdecoders : t.decoders = s.decoders) : DecodersShaped t := by
  intro m
  rw [State.decoder, hdecoders]
  exact ⟨(hs m).1, fun hrun => (hs m).2 (hphase hrun)⟩

theorem RaceOnly.decodersShaped (h : RaceOnly s t) (hs : DecodersShaped s) : DecodersShaped t :=
  hs.congr (fun hrun => h.phase ▸ hrun) h.decoders

theorem load_decodersShaped (link : Option Link) (hs : DecodersShaped s) : DecodersShaped (load link s) := by
  cases hq : s.queue with
  | nil =>
    rw [load, hq]
    exact hs
  | cons e rest =>
    obtain ⟨hphase, -, -, hdecoders, -⟩ := (load_loaded link hq).others
    exact hs.congr (fun hrun => hphase ▸ hrun) hdecoders

theorem completeLines_decodersShaped {ls : List Line} (hd : ls.Nodup) (hs : DecodersShaped s) :
    DecodersShaped (completeLines ls s) := by
  refine hs.of_decoder (Owned.completeLines ls s).phase fun m => ?_
  rw [completeLines_decoder ls hd]
  split
  · exact ⟨Decoder.counts_sensed m _, Decoder.counts_shaped⟩
  · exact ⟨rfl, fun _ h => h⟩

theorem expireLines_decodersShaped {ls : List Line} (hd : ls.Nodup) (hs : DecodersShaped s) :
    DecodersShaped (expireLines ls s) := by
  refine hs.of_decoder (Owned.expireLines ls s).phase fun m => ?_
  rw [expireLines_decoder ls hd]
  split
  · next hdue => exact ⟨rfl, fun _ h => Decoder.expired_shaped h ((stuckDue_iff ..).mp hdue.1.2).1⟩
  · exact ⟨rfl, fun _ h => h⟩

theorem senseLevel_decodersShaped {v : Level} (hv : l.fourLevel = false → v.isFault = false) (hs : DecodersShaped s) :
    DecodersShaped (senseLevel l v s) := by
  have hsensed : ∀ f : Decoder → Decoder, (∀ d, (f d).sensed = v) →
      (s.phase = .running → ∀ d, d.shaped l → (f d).shaped l) → DecodersShaped (s.modDecoder l f) := by
    intro f hf hshape m
    rw [State.modDecoder_decoder]
    split
    · next hm =>
      subst hm
      exact ⟨fun hm => by rw [hf]; exact hv hm, fun hrun => hshape hrun _ ((hs m).2 hrun)⟩
    · exact hs m
  unfold senseLevel
  split
  · exact (hsensed _ (fun _ => rfl) fun _ _ h => Decoder.sense_shaped v _ h).congr id rfl
  · next hidle => exact hsensed _ (fun _ => rfl) fun hrun => absurd hrun hidle

theorem endStartUp_decodersShaped (cause : StartCause) (hs : DecodersShaped s) : DecodersShaped (endStartUp cause s) := by
  intro m
  have hbegun : (endStartUp cause s).decoder m = (s.decoder m).begin m := beginDecoders_get s.decoders m
  rw [hbegun, Decoder.begin_sensed]
  exact ⟨(hs m).1, fun _ => Decoder.begin_shaped m _⟩

theorem ResetTo.decodersShaped {p : Params} {m : Link → List NoticeKind} (h : ResetTo p m s t) (hidle : t.phase ≠ .running)
    (hs : DecodersShaped s) : DecodersShaped t := by
  refine fun k => ⟨fun hk => ?_, fun hrun => absurd hrun hidle⟩
  rw [State.decoder, h.decoders]
  exact (hs k).1 hk

theorem decodersShaped_kept : KeptByOperations DecodersShaped where
  congr hs hphase _ hdecoders := hs.congr hphase hdecoders
  lane hb hn hs := (lanePerform_laneOnly hn _ hb).only.decodersShaped hs
  load link _ hs := load_decodersShaped link hs
  empties _ _ _ hs := hs.congr id rfl
  advance _ _ hs := hs.congr id rfl
  starts d cause link s _ _ _ hs := (RaceOnly.startRace d cause link s).decodersShaped hs
  resolves n s _ hs := (RaceOnly.resolveFinish n s).decodersShaped hs
  overtime {s} _ hs := (RaceOnly.overtime s).decodersShaped hs
  faults is f c k link s hs := hs.congr (fun hrun => (Owned.moveFaults is f c k link s).phase ▸ hrun) (moveFaults_decoders ..)
  completes _ _ hd hs := completeLines_decodersShaped hd hs
  expires _ _ hd hs := expireLines_decodersShaped hd hs
  senses _ _ _ hv hs := senseLevel_decodersShaped hv hs
  begins cause _ hs := endStartUp_decodersShaped cause hs
  resets h hidle hs := h.decodersShaped hidle hs

/-- Settles O59: the operations on decoders keep them shaped, and no other command moves one. -/
theorem stepsKeepTheDecoders : Obligations.StepsKeepTheDecoders := fun _ _ hs ht => decodersShaped_kept.step_next hs ht

end Sys2Proof.Machine
end

section
/-! The placing list sorted (R100): what a recomputation of the places makes of any race. -/

namespace Sys2Proof.Machine

open Sys2Proof

/-! ## A lane put into the sorted list -/

/-- The order of the placing list: by hundredths, then by lane number (R100). -/
def ranksBefore (a b : LaneNo × Nat) : Prop := a.2 < b.2 ∨ (a.2 = b.2 ∧ a.1 < b.1)

theorem insertRanked_perm (n : LaneNo) (t : Nat) (ps : List (LaneNo × Nat)) : (insertRanked n t ps).Perm ((n, t) :: ps) := by
  induction ps with
  | nil => exact .refl _
  | cons p ps ih =>
    unfold insertRanked
    split
    · exact .refl _
    · exact (ih.cons p).trans (.swap ..)

/-- A lane above all those listed goes behind the ones with its hundredths. -/
theorem insertRanked_ordered {n : LaneNo} (t : Nat) {ps : List (LaneNo × Nat)} (hn : ∀ p ∈ ps, p.1 < n)
    (hps : ps.Pairwise ranksBefore) : (insertRanked n t ps).Pairwise ranksBefore := by
  induction ps with
  | nil => exact List.pairwise_singleton ..
  | cons p ps ih =>
    obtain ⟨hp, hps⟩ := List.pairwise_cons.mp hps
    have hnps : ∀ q ∈ ps, q.1 < n := fun q hq => hn q (List.mem_cons_of_mem _ hq)
    unfold insertRanked
    split
    · next hlt =>
      refine List.pairwise_cons.mpr ⟨fun q hq => ?_, List.pairwise_cons.mpr ⟨hp, hps⟩⟩
      rcases List.mem_cons.mp hq with rfl | hq
      · exact .inl hlt
      · rcases hp q hq with h | h
        · exact .inl (Nat.lt_trans hlt h)
        · exact .inl (h.1 ▸ hlt)
    · next hge =>
      refine List.pairwise_cons.mpr ⟨fun q hq => ?_, ih hnps hps⟩
      rcases List.mem_cons.mp ((insertRanked_perm n t ps).mem_iff.mp hq) with rfl | hq
      · rcases Nat.lt_or_eq_of_le (Nat.not_lt.mp hge) with h | h
        · exact .inl h
        · exact .inr ⟨h, hn p List.mem_cons_self⟩
      · exact hp q hq

/-! ## The lanes put in one by one -/

/-- Lanes put into a sorted list one after the other, those that are ranked. -/
def Heat.rankInto (h : Heat) (ps : List (LaneNo × Nat)) (ns : List LaneNo) : List (LaneNo × Nat) :=
  ns.foldl (fun acc n => ((h.rankTime n).map fun t => insertRanked n t acc).getD acc) ps

theorem rankedLanes_eq (h : Heat) : h.rankedLanes = (h.rankInto [] allLanes).map Prod.fst := rfl

variable (h : Heat)

theorem rankInto_perm (ns : List LaneNo) (ps : List (LaneNo × Nat)) :
    (h.rankInto ps ns).Perm (ps ++ ns.filterMap fun n => (h.rankTime n).map fun t => (n, t)) := by
  induction ns generalizing ps with
  | nil => simp [Heat.rankInto]
  | cons n ns ih =>
    have hstep : h.rankInto ps (n :: ns) = h.rankInto (((h.rankTime n).map fun t => insertRanked n t ps).getD ps) ns := rfl
    rw [hstep]
    cases ht : h.rankTime n with
    | none => simpa [ht] using ih ps
    | some t =>
      refine (ih _).trans ?_
      simp only [Option.map_some, Option.getD_some, List.filterMap_cons, ht]
      exact ((insertRanked_perm n t ps).append_right _).trans List.perm_middle.symm

theorem rankInto_ordered {ns : List LaneNo} (hns : ns.Pairwise (· < ·)) {ps : List (LaneNo × Nat)}
    (hps : ps.Pairwise ranksBefore) (hlt : ∀ p ∈ ps, ∀ n ∈ ns, p.1 < n) : (h.rankInto ps ns).Pairwise ranksBefore := by
  induction ns generalizing ps with
  | nil => exact hps
  | cons n ns ih =>
    obtain ⟨hn, hns⟩ := List.pairwise_cons.mp hns
    have hrest : ∀ p ∈ ps, ∀ m ∈ ns, p.1 < m := fun p hp m hm => hlt p hp m (List.mem_cons_of_mem _ hm)
    change (h.rankInto (((h.rankTime n).map fun t => insertRanked n t ps).getD ps) ns).Pairwise ranksBefore
    cases h.rankTime n with
    | none => exact ih hns hps hrest
    | some t =>
      refine ih hns (insertRanked_ordered t (fun p hp => hlt p hp n List.mem_cons_self) hps) fun p hp m hm => ?_
      rcases List.mem_cons.mp ((insertRanked_perm n t ps).mem_iff.mp hp) with rfl | hp
      · exact hn m hm
      · exact hrest p hp m hm

theorem mem_rankInto {p : LaneNo × Nat} : p ∈ h.rankInto [] allLanes ↔ h.rankTime p.1 = some p.2 := by
  rw [(rankInto_perm h allLanes []).mem_iff]
  simp only [List.nil_append, List.mem_filterMap, Option.map_eq_some_iff]
  constructor
  · rintro ⟨n, -, t, ht, rfl⟩
    exact ht
  · exact fun ht => ⟨p.1, List.mem_finRange p.1, p.2, ht, rfl⟩

/-! ## The list and the places (R100) -/

theorem rankTime_eq_placed : h.rankTime = h.placed := by
  funext n
  unfold Heat.rankTime Heat.placed
  cases (h.desks.get n).dq <;> cases (h.lanes.get n).result with
  | none => rfl
  | some core => cases core <;> rfl

/-- Two races whose lanes with a place are the same. -/
theorem placed_congr {h g : Heat} {n : LaneNo} (hdq : (g.desks.get n).dq = (h.desks.get n).dq)
    (hresult : (g.lanes.get n).result = (h.lanes.get n).result) : g.placed n = h.placed n := by
  unfold Heat.placed
  rw [hdq, hresult]

theorem replaced_placed : h.replaced.placed = h.placed := by
  funext n
  exact placed_congr (by rw [replaced_get]) rfl

theorem rankedLanes_pairwise : h.rankedLanes.Pairwise fun m n =>
    (h.placed m).getD 0 < (h.placed n).getD 0 ∨ ((h.placed m).getD 0 = (h.placed n).getD 0 ∧ m < n) := by
  rw [rankedLanes_eq, List.pairwise_map]
  refine List.Pairwise.imp_of_mem (fun {a b} ha hb hab => ?_)
    (rankInto_ordered h (List.pairwise_lt_finRange 10) List.Pairwise.nil nofun)
  rw [← rankTime_eq_placed, (mem_rankInto h).mp ha, (mem_rankInto h).mp hb]
  exact hab

theorem rankedLanes_nodup : h.rankedLanes.Nodup := by
  refine (rankedLanes_pairwise h).imp fun {m n} hmn heq => ?_
  subst heq
  simp at hmn

theorem mem_rankedLanes (n : LaneNo) : n ∈ h.rankedLanes ↔ (h.placed n).isSome = true := by
  rw [rankedLanes_eq, ← rankTime_eq_placed, List.mem_map, Option.isSome_iff_exists]
  constructor
  · rintro ⟨p, hp, rfl⟩
    exact ⟨p.2, (mem_rankInto h).mp hp⟩
  · rintro ⟨t, ht⟩
    exact ⟨(n, t), (mem_rankInto h).mpr ht, rfl⟩

/-- Places recomputed are those of R100, whatever stood before. -/
theorem replaced_ranked : h.replaced.ranked where
  members n := by
    rw [replaced_placed]
    exact mem_rankedLanes h n
  nodup := rankedLanes_nodup h
  ordered := by
    rw [replaced_placed]
    exact rankedLanes_pairwise h
  places n := by
    rw [replaced_get, replaced_placed, ← rankTime_eq_placed]
    rfl

end Sys2Proof.Machine
end

section
/-! The relation of race, lanes, holds and places (R19 to R21, R42, R100, R119), under a change of one lane and under the moves of
the race that follow a finish or a release (R35, R36, R127). -/

namespace Sys2Proof.Machine

open Sys2Proof

/-- A race in order: its phase, lanes and holds related as R21, R42 and R119 say, its places those of R100. -/
structure Heat.sound (h : Heat) : Prop where
  shaped : h.shaped
  ranked : h.ranked

theorem sound_iff (s : State) : (∀ h, s.heat = some h → h.sound) ↔ RaceShaped s ∧ Placed s :=
  ⟨fun hs => ⟨fun h hh => (hs h hh).shaped, fun h hh => (hs h hh).ranked⟩, fun hs h hh => ⟨hs.1 h hh, hs.2 h hh⟩⟩

/-! ## Phases and lane states (R21) -/

theorem RacePhase.past_eq_true_iff (p : RacePhase) : p.past = true ↔ p = .review ∨ p = .final := by
  cases p <;> simp [RacePhase.past]

theorem RacePhase.admits_released {p : RacePhase} (h : p.admits .released = true) : p ≠ .loaded ∧ p ≠ .marks := by
  cases p <;> simp_all [RacePhase.admits]

/-- A lane in COLLECT or SWIMMING stands in a RUNNING race alone. -/
theorem RacePhase.running_of_admits {p : RacePhase} {st : LaneState} (h : p.admits st = true)
    (hst : st = .swimming ∨ st = .collect) : p = .running := by
  rcases hst with rfl | rfl <;> cases p <;> simp_all [RacePhase.admits]

/-- A FINISHED lane stands in RUNNING or REVIEW alone. -/
theorem RacePhase.of_admits_finished {p : RacePhase} (h : p.admits .finished = true) : p = .running ∨ p = .review := by
  cases p <;> simp_all [RacePhase.admits]

/-- A READY lane stands in LOADED or MARKS alone. -/
theorem RacePhase.of_admits_ready {p : RacePhase} (h : p.admits .ready = true) : p = .loaded ∨ p = .marks := by
  cases p <;> simp_all [RacePhase.admits]

theorem unreleased_congr {l m : Lane} (h : m.state = l.state) : m.unreleased = l.unreleased := by
  unfold Lane.unreleased
  rw [h]

theorem lanesWhere_eq {h g : Heat} {p : Lane → Bool} (hp : ∀ n, p (g.lanes.get n) = p (h.lanes.get n)) :
    g.lanesWhere p = h.lanesWhere p := by
  simp only [Heat.lanesWhere, hp]

/-- A result core stands in FINISHED and RELEASED alone, so a lane elsewhere has no place. -/
theorem Heat.shaped.placed_none {h : Heat} (hs : h.shaped) {n : LaneNo} (hf : (h.lanes.get n).state ≠ .finished)
    (hr : (h.lanes.get n).state ≠ .released) : h.placed n = none := by
  have hres : (h.lanes.get n).result = none := by
    rw [← Option.not_isSome_iff_eq_none, (hs.lanes n).result]
    exact fun h => h.elim hf hr
  unfold Heat.placed
  rw [hres]
  cases (h.desks.get n).dq <;> rfl

/-! ## One lane record -/

/-- A lane that keeps its state and what belongs to the state keeps its shape. -/
theorem Lane.shaped.congr {l m : Lane} (h : l.shaped) (hstate : m.state = l.state)
    (hexp : m.expectation.isSome = l.expectation.isSome) (hcoll : m.collection.isSome = l.collection.isSome)
    (hres : m.result.isSome = l.result.isSome) (hleg : m.leg.isSome = l.leg.isSome)
    (hpend : m.pendingTiming.isSome = true → l.state = .swimming) (hrej : m.rejected.length ≤ 8) : m.shaped where
  expectation := by rw [hexp, hstate]; exact h.expectation
  collection := by rw [hcoll, hstate]; exact h.collection
  result := by rw [hres, hstate]; exact h.result
  leg := by rw [hleg, hstate]; exact h.leg
  pending hp := by rw [hstate]; exact hpend hp
  rejected := hrej

/-- A lane record whose state, shape items and rejected list stay. -/
theorem Lane.shaped.of_same {l m : Lane} (h : l.shaped) (hstate : m.state = l.state)
    (hexp : m.expectation.isSome = l.expectation.isSome) (hcoll : m.collection.isSome = l.collection.isSome)
    (hres : m.result.isSome = l.result.isSome) (hleg : m.leg.isSome = l.leg.isSome) (hpend : m.pendingTiming = l.pendingTiming)
    (hrej : m.rejected = l.rejected) : m.shaped :=
  h.congr hstate hexp hcoll hres hleg (fun hp => h.pending (hpend ▸ hp)) (hrej ▸ h.rejected)

/-! ## One lane and its desk changed -/

/-- One lane and its desk alone have changed, to a record of the lane's shape in a state that the phase admits, which is not
RELEASED, and in REVIEW and FINAL is the state it had. -/
structure LaneChanged (n : LaneNo) (h g : Heat) : Prop where
  rest : g = { h with lanes := g.lanes, desks := g.desks }
  others : othersAsBefore n h g
  shaped : (g.lanes.get n).shaped
  admitted : h.phase.admits (g.lanes.get n).state = true
  past : h.phase.past = true → (g.lanes.get n).state = (h.lanes.get n).state
  standing : (g.lanes.get n).state ≠ .released

/-- A lane RELEASED in the later race has the record it had. -/
def ReleasedStand (h g : Heat) : Prop := ∀ n, (g.lanes.get n).state = .released → g.lanes.get n = h.lanes.get n

namespace LaneChanged

variable {n : LaneNo} {h g : Heat} (c : LaneChanged n h g)

include c

theorem fields : g.phase = h.phase ∧ g.startTime = h.startTime ∧ g.stopTime = h.stopTime ∧ g.placing = h.placing := by
  rw [c.rest]
  exact ⟨rfl, rfl, rfl, rfl⟩

theorem raceShaped (hs : h.shaped) : g.shaped := by
  obtain ⟨hphase, hstart, hstop, -⟩ := c.fields
  have hlane : ∀ m, m ≠ n → g.lanes.get m = h.lanes.get m := fun m hm => (c.others m hm).1
  refine ⟨fun m => ?_, fun m => ?_, ?_, ?_, ?_, fun m hm => ?_⟩
  · by_cases hmn : m = n
    · exact hmn ▸ c.shaped
    · exact hlane m hmn ▸ hs.lanes m
  · rw [hphase]
    by_cases hmn : m = n
    · exact hmn ▸ c.admitted
    · rw [hlane m hmn]
      exact hs.admits m
  · rw [hphase, hs.final]
    refine and_congr_right fun hpast => ?_
    rw [lanesWhere_eq (h := h) (g := g) fun m => ?_]
    by_cases hmn : m = n
    · rw [hmn]
      exact unreleased_congr (c.past hpast)
    · rw [hlane m hmn]
  · rw [hstart, hphase]
    exact hs.start
  · rw [hstop, hphase]
    exact hs.stop
  · have hmn : m ≠ n := fun hmn => c.standing (hmn ▸ hm)
    obtain ⟨hl, hd⟩ := c.others m hmn
    rw [hd]
    exact hs.released m (hl ▸ hm)

/-- The places stand while the lane's own do. -/
theorem raceRanked (hplace : (g.desks.get n).place = (h.desks.get n).place) (hplaced : g.placed n = h.placed n)
    (hr : h.ranked) : g.ranked := by
  obtain ⟨-, -, -, hplacing⟩ := c.fields
  have hsame : g.placed = h.placed := by
    funext m
    by_cases hmn : m = n
    · rw [hmn, hplaced]
    · obtain ⟨hl, hd⟩ := c.others m hmn
      exact placed_congr (by rw [hd]) (by rw [hl])
  refine ⟨fun m => ?_, ?_, ?_, fun m => ?_⟩
  · rw [hplacing, hsame]
    exact hr.members m
  · rw [hplacing]
    exact hr.nodup
  · rw [hplacing, hsame]
    exact hr.ordered
  · rw [hsame, ← hr.places m]
    by_cases hmn : m = n
    · rw [hmn, hplace]
    · rw [(c.others m hmn).2]

theorem sound (hplace : (g.desks.get n).place = (h.desks.get n).place) (hplaced : g.placed n = h.placed n)
    (hs : h.sound) : g.sound :=
  ⟨c.raceShaped hs.shaped, c.raceRanked hplace hplaced hs.ranked⟩

theorem releasedStand : ReleasedStand h g := fun m hm => by
  have hmn : m ≠ n := fun hmn => c.standing (hmn ▸ hm)
  exact (c.others m hmn).1

end LaneChanged

/-! ## The places recomputed -/

theorem Heat.shaped.replaced {h : Heat} (hs : h.shaped) : h.replaced.shaped where
  lanes := hs.lanes
  admits := hs.admits
  final := hs.final
  start := hs.start
  stop := hs.stop
  released n hn := by
    rw [replaced_get]
    exact hs.released n hn

theorem Heat.shaped.replaced_sound {h : Heat} (hs : h.shaped) : h.replaced.sound := ⟨hs.replaced, replaced_ranked h⟩

/-- A race that ranks as another, lane by lane, keeps its places. -/
theorem Heat.ranked.congr {h g : Heat} (hr : h.ranked) (hplacing : g.placing = h.placing)
    (hdesk : ∀ n, (g.desks.get n).dq = (h.desks.get n).dq ∧ (g.desks.get n).place = (h.desks.get n).place)
    (hresult : ∀ n, (g.lanes.get n).result = (h.lanes.get n).result) : g.ranked := by
  have hsame : g.placed = h.placed := funext fun n => placed_congr (hdesk n).1 (hresult n)
  refine ⟨?_, ?_, ?_, fun n => ?_⟩
  · rw [hplacing, hsame]
    exact hr.members
  · rw [hplacing]
    exact hr.nodup
  · rw [hplacing, hsame]
    exact hr.ordered
  · rw [(hdesk n).2, hsame]
    exact hr.places n

/-! ## The race moves on (R35, R36) -/

/-- The relation of a race whose entry to FINAL is still to be tested. -/
structure Heat.untested (h : Heat) : Prop where
  lanes : ∀ n, (h.lanes.get n).shaped
  admits : ∀ n, h.phase.admits (h.lanes.get n).state = true
  final : h.phase = .final → h.lanesWhere Lane.unreleased = []
  start : h.startTime.isSome = true ↔ h.phase.started = true
  stop : h.stopTime.isSome = true ↔ h.phase.past = true
  released : ∀ n, (h.lanes.get n).state = .released → (h.desks.get n).hold.isEmpty = true

theorem Heat.shaped.untested {h : Heat} (hs : h.shaped) : h.untested :=
  ⟨hs.lanes, hs.admits, fun hf => (hs.final.mp hf).2, hs.start, hs.stop, hs.released⟩

/-- A lane in use that is neither unfinished nor unreleased is RELEASED. -/
theorem admits_final_of_unreleased {st : LaneState} {l : Lane} (hst : l.state = st) (h : l.unreleased = false) :
    RacePhase.final.admits st = true := by
  subst hst
  cases hl : l.state <;> simp_all [Lane.unreleased, RacePhase.admits]

theorem admits_review_of_unfinished {l : Lane} (h : l.unfinished = false) : RacePhase.review.admits l.state = true := by
  cases hl : l.state <;> simp_all [Lane.unfinished, RacePhase.admits]

namespace Heat.untested

variable {h : Heat} (hu : h.untested)

include hu

/-- R36 tested, the race has its relation again. -/
theorem finalised (p : Params) (now : DeckTime) : (h.finalised p now).shaped := by
  unfold Heat.finalised
  split
  · next hfinal =>
    obtain ⟨hphase, hnone⟩ := hfinal
    have hlanes := (lanesWhere_nil h _).mp hnone
    refine ⟨hu.lanes, fun n => admits_final_of_unreleased rfl (hlanes n), ?_, ?_, ?_, hu.released⟩
    · exact iff_of_true rfl ⟨rfl, hnone⟩
    · rw [hu.start, hphase]
      rfl
    · rw [hu.stop, hphase]
      rfl
  · next hfinal =>
    refine ⟨hu.lanes, hu.admits, ?_, hu.start, hu.stop, hu.released⟩
    rw [RacePhase.past_eq_true_iff]
    constructor
    · exact fun hf => ⟨.inr hf, hu.final hf⟩
    · rintro ⟨hphase | hphase, hnone⟩
      · exact absurd ⟨hphase, hnone⟩ hfinal
      · exact hphase

/-- R35 tested. -/
theorem reviewed (now : DeckTime) : (h.reviewed now).untested := by
  unfold Heat.reviewed
  split
  · next hreview =>
    obtain ⟨hphase, hnone⟩ := hreview
    have hlanes := (lanesWhere_nil h _).mp hnone
    refine ⟨hu.lanes, fun n => admits_review_of_unfinished (hlanes n), nofun, ?_, by simp [RacePhase.past], hu.released⟩
    rw [hu.start, hphase]
    rfl
  · exact hu

/-- A FINISHED lane with an empty hold set released. -/
theorem released_lane {n : LaneNo} (hst : (h.lanes.get n).state = .finished) (hhold : (h.desks.get n).hold.isEmpty = true) :
    (h.modLane n fun l => { l with state := .released }).untested := by
  have hshape := hu.lanes n
  refine ⟨fun m => ?_, fun m => ?_, fun hf => ?_, hu.start, hu.stop, fun m hm => ?_⟩
  · rw [modLane_get]
    split
    · refine ⟨?_, ?_, ?_, ?_, ?_, hshape.rejected⟩
      · exact hshape.expectation.trans (by simp [hst])
      · exact hshape.collection.trans (by simp [hst])
      · exact hshape.result.trans (by simp [hst])
      · exact hshape.leg.trans (by simp [hst])
      · exact fun hp => absurd (hst.symm.trans (hshape.pending hp)) nofun
    · exact hu.lanes m
  · rw [modLane_get]
    split
    · have hadmits := hu.admits n
      rw [hst] at hadmits
      rcases RacePhase.of_admits_finished hadmits with hp | hp <;> simp [hp, RacePhase.admits]
    · exact hu.admits m
  · have hadmits := hu.admits n
    rw [hst] at hadmits
    rcases RacePhase.of_admits_finished hadmits with hp | hp
    · cases hp.symm.trans hf
    · cases hp.symm.trans hf
  · by_cases hmn : m = n
    · exact hmn ▸ hhold
    · rw [modLane_get, if_neg hmn] at hm
      exact hu.released m hm

end Heat.untested

theorem Heat.ranked.finalised {h : Heat} (hr : h.ranked) (p : Params) (now : DeckTime) : (h.finalised p now).ranked :=
  hr.congr (finalised_fields h p now).2.2.2.2 (fun n => by rw [finalised_desks]; exact ⟨rfl, rfl⟩) fun n => by
    rw [finalised_lanes]

theorem Heat.ranked.reviewed {h : Heat} (hr : h.ranked) (now : DeckTime) : (h.reviewed now).ranked :=
  hr.congr (reviewed_fields h now).2.2.2 (fun n => by rw [reviewed_desks]; exact ⟨rfl, rfl⟩) fun n => by rw [reviewed_lanes]

namespace Heat.sound

variable {h : Heat} (hs : h.sound) (n : LaneNo) (p : Params) (now : DeckTime)

include hs

theorem releasedLane (hst : (h.lanes.get n).state = .finished) (hhold : (h.desks.get n).hold.isEmpty = true) :
    (h.releasedLane n p now).sound := by
  unfold Heat.releasedLane
  split
  · exact hs
  · refine ⟨(hs.shaped.untested.released_lane hst hhold).finalised p now, Heat.ranked.finalised ?_ p now⟩
    refine hs.ranked.congr rfl (fun _ => ⟨rfl, rfl⟩) fun m => ?_
    rw [modLane_get]
    split
    · next hmn => rw [hmn]
    · rfl

theorem checked : (h.checked n p now).sound := by
  unfold Heat.checked
  split
  · next hc => exact hs.releasedLane n p now hc.2.1 hc.2.2
  · exact hs

theorem tested : ((h.reviewed now).finalised p now).sound :=
  ⟨(hs.shaped.untested.reviewed now).finalised p now, (hs.ranked.reviewed now).finalised p now⟩

end Heat.sound

/-! ## A lane finished (R56) -/

theorem Lane.finish_shaped (core : ResultCore) {l : Lane} (hl : l.shaped) (hst : l.state ≠ .vacant) :
    (l.finish core).shaped where
  expectation := by simp [Lane.finish]
  collection := by simp [Lane.finish]
  result := by simp [Lane.finish]
  leg := by
    change l.leg.isSome = true ↔ LaneState.finished ≠ .vacant
    rw [hl.leg]
    simp [hst]
  pending := nofun
  rejected := hl.rejected

theorem addReasons_kept (rs : List Reason) (k : Desk) :
    (Desk.addReasons rs k).dq = k.dq ∧ (Desk.addReasons rs k).place = k.place := by
  obtain ⟨r, hk, -⟩ := addReasons_desk rs k
  rw [hk]
  exact ⟨rfl, rfl⟩

/-- A SWIMMING or COLLECT lane finished, with its reasons, places, release check and the tests of R35 and R36. -/
theorem Heat.sound.finishedLane {h : Heat} (hs : h.sound) (n : LaneNo) (core : ResultCore) (rs : List Reason) (p : Params)
    (now : DeckTime) (hst : (h.lanes.get n).state = .swimming ∨ (h.lanes.get n).state = .collect) :
    (h.finishedLane n core rs p now).sound := by
  have hrun : h.phase = .running := RacePhase.running_of_admits (hs.shaped.admits n) hst
  have hlane : ((h.modLane n (Lane.finish core)).modDesk n (Desk.addReasons rs)).lanes.get n = (h.lanes.get n).finish core := by
    simp
  have hdesk : ((h.modLane n (Lane.finish core)).modDesk n (Desk.addReasons rs)).desks.get n =
      Desk.addReasons rs (h.desks.get n) := by simp
  have hkept := addReasons_kept rs (h.desks.get n)
  have hchanged : LaneChanged n h ((h.modLane n (Lane.finish core)).modDesk n (Desk.addReasons rs)) := by
    refine ⟨rfl, othersAsBefore_trans (modLane_othersAsBefore n h _) (modDesk_othersAsBefore n _ _), ?_, ?_, ?_, ?_⟩ <;>
      rw [hlane]
    · exact Lane.finish_shaped core (hs.shaped.lanes n) (by rcases hst with h | h <;> simp [h])
    · simp [hrun, Lane.finish, RacePhase.admits]
    · simp [hrun, RacePhase.past]
    · exact nofun
  unfold Heat.finishedLane
  refine Heat.sound.tested (Heat.sound.checked ?_ n p now) p now
  split
  · exact (hchanged.raceShaped hs.shaped).replaced_sound
  · next hcore =>
    refine hchanged.sound (by rw [hdesk, hkept.2]) ?_ hs
    have hnone : core = .noFinish := by
      cases core
      · exact absurd rfl hcore
      · rfl
    rw [hs.shaped.placed_none (by rcases hst with h | h <;> simp [h]) (by rcases hst with h | h <;> simp [h])]
    unfold Heat.placed
    rw [hlane, hnone]
    cases (Desk.dq _) <;> rfl

end Sys2Proof.Machine
end

section
/-! Operations on one lane that keep its state: exchange judging, inference, acceptance, rejection, slots, reactions, holds. -/

namespace Sys2Proof.Machine

open Sys2Proof

/-! ## The race -/

/-- One lane and its desk alone have changed; the lane keeps its state, its shape and its result, the desk its mark and place. -/
structure LaneStep (n : LaneNo) (h g : Heat) : Prop where
  rest : g = { h with lanes := g.lanes, desks := g.desks }
  others : othersAsBefore n h g
  state : (g.lanes.get n).state = (h.lanes.get n).state
  shaped : (h.lanes.get n).shaped → (g.lanes.get n).shaped
  result : (g.lanes.get n).result = (h.lanes.get n).result
  desk : (g.desks.get n).dq = (h.desks.get n).dq ∧ (g.desks.get n).place = (h.desks.get n).place

namespace LaneStep

variable {n : LaneNo} {h g k : Heat}

theorem refl (n : LaneNo) (h : Heat) : LaneStep n h h := ⟨rfl, fun _ _ => ⟨rfl, rfl⟩, rfl, id, rfl, rfl, rfl⟩

theorem trans (a : LaneStep n h g) (b : LaneStep n g k) : LaneStep n h k where
  rest := by
    rw [b.rest, a.rest]
  others := othersAsBefore_trans a.others b.others
  state := b.state.trans a.state
  shaped hs := b.shaped (a.shaped hs)
  result := b.result.trans a.result
  desk := ⟨b.desk.1.trans a.desk.1, b.desk.2.trans a.desk.2⟩

theorem modLane (n : LaneNo) (h : Heat) {f : Lane → Lane} (hstate : (f (h.lanes.get n)).state = (h.lanes.get n).state)
    (hresult : (f (h.lanes.get n)).result = (h.lanes.get n).result)
    (hshaped : (h.lanes.get n).shaped → (f (h.lanes.get n)).shaped) : LaneStep n h (h.modLane n f) := by
  refine ⟨rfl, modLane_othersAsBefore n h f, ?_, ?_, ?_, rfl, rfl⟩ <;> rwa [modLane_get_self]

theorem modDesk (n : LaneNo) (h : Heat) {f : Desk → Desk} (hdq : (f (h.desks.get n)).dq = (h.desks.get n).dq)
    (hplace : (f (h.desks.get n)).place = (h.desks.get n).place) : LaneStep n h (h.modDesk n f) := by
  refine ⟨rfl, modDesk_othersAsBefore n h f, rfl, id, rfl, ?_⟩
  rw [modDesk_get_self]
  exact ⟨hdq, hplace⟩

theorem changed (c : LaneStep n h g) (hs : h.shaped) (hst : (h.lanes.get n).state ≠ .released) : LaneChanged n h g where
  rest := c.rest
  others := c.others
  shaped := c.shaped (hs.lanes n)
  admitted := by
    rw [c.state]
    exact hs.admits n
  past _ := c.state
  standing := by rwa [c.state]

theorem sound (c : LaneStep n h g) (hs : h.sound) (hst : (h.lanes.get n).state ≠ .released) : g.sound :=
  (c.changed hs.shaped hst).sound c.desk.2 (placed_congr c.desk.1 c.result) hs

end LaneStep

theorem Judged.laneStep {n : LaneNo} {h g : Heat} (j : Judged n h g) : LaneStep n h g := by
  obtain ⟨xs, r, hlane, -⟩ := j.lane
  obtain ⟨a, b, hdesk, -, -⟩ := j.desk
  refine ⟨j.rest, j.others, ?_, fun hs => ?_, ?_, ?_⟩
  · rw [hlane]
  · rw [hlane]
    exact hs.of_same rfl rfl rfl rfl rfl rfl rfl
  · rw [hlane]
  · rw [hdesk]
    exact ⟨rfl, rfl⟩

/-- A chain of inferences on a SWIMMING lane. -/
theorem Inferred.laneStep {n : LaneNo} {h g : Heat} (i : Inferred n h g) (hst : (h.lanes.get n).state = .swimming) :
    LaneStep n h g := by
  obtain ⟨more, x, j, hlane, -, hx, hj⟩ := i.lane
  obtain ⟨a, hdesk, -⟩ := i.desk
  refine ⟨i.rest, i.others, ?_, fun hs => ?_, ?_, ?_⟩
  · rw [hlane]
  · have hexp : (h.lanes.get n).expectation.isSome = true := hs.expectation.mpr hst
    have hleg : (h.lanes.get n).leg.isSome = true := hs.leg.mpr (by simp [hst])
    rw [hlane]
    exact hs.congr rfl (by simp only [hx hexp, hexp]) rfl rfl (by simp only [hj hleg, hleg]) hs.pending hs.rejected
  · rw [hlane]
  · rw [hdesk]
    exact ⟨rfl, rfl⟩

/-! ## Operations from a lane state -/

/-- An operation that takes a lane in a state by a `LaneStep`. -/
def StepsLane (st : LaneState) (n : LaneNo) (s t : State) : Prop :=
  ∀ h, s.heat = some h → (h.lanes.get n).state = st → ∃ g, t.heat = some g ∧ LaneStep n h g

namespace StepsLane

variable {st : LaneState} {n : LaneNo} {s t u : State}

theorem refl (st : LaneState) (n : LaneNo) (s : State) : StepsLane st n s s := fun h hh _ => ⟨h, hh, .refl n h⟩

theorem trans (a : StepsLane st n s t) (b : StepsLane st n t u) : StepsLane st n s u := fun h hh hst => by
  obtain ⟨g, hg, hstep⟩ := a h hh hst
  obtain ⟨k, hk, hstep'⟩ := b g hg (hstep.state.trans hst)
  exact ⟨k, hk, hstep.trans hstep'⟩

theorem of_heat (h : t.heat = s.heat) : StepsLane st n s t := fun x hx _ => ⟨x, h.trans hx, .refl n x⟩

theorem of_map (f : Heat → Heat) (ht : t.heat = s.heat.map f)
    (hf : ∀ h, (h.lanes.get n).state = st → LaneStep n h (f h)) : StepsLane st n s t :=
  fun h hh hst => ⟨f h, by rw [ht, hh, Option.map_some], hf h hst⟩

theorem foldl {α : Type} {f : State → α → State} (hf : ∀ s a, StepsLane st n s (f s a)) (as : List α) (s : State) :
    StepsLane st n s (as.foldl f s) := by
  induction as generalizing s with
  | nil => exact refl st n s
  | cons a as ih => exact (hf s a).trans (ih _)

end StepsLane

theorem JudgedTo.stepsLane {st : LaneState} {n : LaneNo} {s t : State} (j : JudgedTo n s t) : StepsLane st n s t :=
  fun h hh _ => by
    obtain ⟨g, hg, hj⟩ := j h hh
    exact ⟨g, hg, hj.laneStep⟩

namespace StepsLane

/-! ## Any lane -/

section
variable (st : LaneState) (n : LaneNo) (s : State)

/-- A hold set changed (R122). -/
theorem changeDesk (c : HoldCause) (l : Option Link) {f : Desk → Desk} (hdq : ∀ k, (f k).dq = k.dq)
    (hplace : ∀ k, (f k).place = k.place) : StepsLane st n s (Machine.changeDesk n c l f s) :=
  of_map _ (changeDesk_heat ..) fun h _ => .modDesk n h (hdq _) (hplace _)

theorem addReason (r : Reason) : StepsLane st n s (Machine.addReason n r s) :=
  changeDesk st n s _ _ (fun _ => rfl) fun _ => rfl

theorem modLane {f : Lane → Lane} (hstate : ∀ l, (f l).state = l.state) (hresult : ∀ l, (f l).result = l.result)
    (hshaped : ∀ l, l.state = st → l.shaped → (f l).shaped) : StepsLane st n s (s.modLane n f) :=
  of_map _ (s.modLane_heat n f) fun h hst => .modLane n h (hstate _) (hresult _) (hshaped _ hst)

theorem writeReaction (r : Reaction) (c : Option DeckTime) : StepsLane st n s (Machine.writeReaction n r c s) :=
  (modLane st n s (f := fun l => { l with reaction := some r }) (fun _ => rfl) (fun _ => rfl) fun _ _ hl =>
    hl.of_same rfl rfl rfl rfl rfl rfl rfl).trans (of_heat (raise_heat _ _))

theorem earlyRelease (r : Reaction) (c : DeckTime) : StepsLane st n s (Machine.earlyRelease n r c s) := by
  unfold Machine.earlyRelease
  split
  · exact refl st n s
  · exact (writeReaction st n s _ _).trans (addReason st n _ _)

theorem offerToReaction (h : Heat) (r : Reaction) (c : DeckTime) : StepsLane st n s (Machine.offerToReaction n h r c s) := by
  unfold Machine.offerToReaction
  split
  · split
    · exact earlyRelease st n s r c
    · dsimp only
      split
      · exact earlyRelease st n s r c
      · exact writeReaction st n s _ _
  · exact refl st n s

theorem offerToExchange (h : Heat) (x : Exchange) (c : DeckTime) : StepsLane st n s (Machine.offerToExchange n h x c s) := by
  unfold Machine.offerToExchange
  split
  · exact refl st n s
  · split
    · exact (modExchange_exchanged s n _ _).judged.stepsLane
    · exact refl st n s

theorem addSplit (e : SplitEntry) (p : Option Promotion) : StepsLane st n s (Machine.addSplit n e p s) :=
  of_map _ (addSplit_heat n e p s) fun h _ => .modLane n h rfl rfl fun hl => hl.of_same rfl rfl rfl rfl rfl rfl rfl

theorem addFinalSplit (t : Nat) (q : SplitSource) : StepsLane st n s (Machine.addFinalSplit n t q s) := by
  unfold Machine.addFinalSplit
  split
  · exact refl st n s
  · exact (addSplit st n s _ _).trans (judgeFrom_judged _ n _).stepsLane

/-- A slot filled: a collection stays one (R87). -/
theorem fillSlot (k : CollectionSlot) (t : Nat) : StepsLane st n s (Machine.fillSlot n k t s) := by
  refine of_map _ (s.modLane_heat n _) fun h _ => ?_
  cases hc : (h.lanes.get n).collection with
  | none => exact .modLane n h (by simp [hc]) (by simp [hc]) (by simp [hc])
  | some c =>
    by_cases hno : (beforeStart t || decide (t ≤ lastTimedTime (h.lanes.get n).splits) || (c.read k).isSome) = true
    · exact .modLane n h (by simp [hc, hno]) (by simp [hc, hno]) (by simp [hc, hno])
    · refine .modLane n h (by simp [hc, hno]) (by simp [hc, hno]) fun hl => ?_
      simp only [hc, hno]
      exact hl.of_same rfl rfl (by simp [hc]) rfl rfl rfl rfl

/-- A touch turned away: the oldest entry of a full list makes room (R59). -/
theorem rejectTouch (t : Nat) (e : End) (r : RejectReason) (k : Nat) :
    StepsLane st n s (Machine.rejectTouch n t e r k s) := fun h hh _ => by
  refine ⟨_, by simp only [Machine.rejectTouch, hh, raise_heat, State.modLane_heat, Option.map_some]; rfl,
    .modLane n h rfl rfl fun hl => hl.congr rfl rfl rfl rfl rfl hl.pending ?_⟩
  have hlength := hl.rejected
  dsimp only
  rw [List.length_append]
  split
  · next hfull =>
    simp only [decide_eq_true_eq] at hfull
    simp only [List.length_drop, List.length_singleton]
    omega
  · next hroom =>
    simp only [decide_eq_true_eq] at hroom
    simp only [List.length_singleton]
    omega

end

/-! ## A SWIMMING lane -/

section
variable (n : LaneNo) (s : State)

theorem expectLength (k r : Nat) : StepsLane .swimming n s (Machine.expectLength n k r s) :=
  of_map _ (expectLength_heat n k r s) fun h hst => .modLane n h rfl rfl fun hl =>
    hl.congr rfl (by simp [Lane.expect, hl.expectation.mpr hst]) rfl rfl
      (by simp [Lane.expect, hl.leg.mpr (by rw [hst]; exact nofun)]) hl.pending hl.rejected

theorem addMissed (k : Nat) : StepsLane .swimming n s (Machine.addMissed n k s) := by
  unfold Machine.addMissed
  split
  · exact refl _ n s
  · exact (addSplit _ n s _ _).trans (addReason _ n _ _)

theorem inferAll : StepsLane .swimming n s (Machine.inferAll n s) := fun h hh hst => by
  obtain ⟨g, hg, hi⟩ := inferAll_inferred n s h hh
  exact ⟨g, hg, hi.laneStep hst⟩

theorem acceptLength (k t : Nat) (q : SplitSource) (p : Option Promotion) :
    StepsLane .swimming n s (Machine.acceptLength n k t q p s) := by
  unfold Machine.acceptLength
  split
  · exact refl _ n s
  · split
    · exact refl _ n s
    · refine (((addSplit _ n s _ _).trans (modLane _ n _ ?_ ?_ ?_)).trans (expectLength n _ _ _)).trans (inferAll n _)
      iterate 2
        · intro l
          rw [applyPending_eq, shiftDurations_eq]
      · intro l _ hl
        rw [applyPending_eq, shiftDurations_eq]
        exact hl.congr rfl rfl rfl rfl rfl nofun hl.rejected

theorem skipExpected (x : Expectation) : StepsLane .swimming n s (Machine.skipExpected n x s) :=
  (addMissed n s _).trans (expectLength n _ _ _)

end

end StepsLane

end Sys2Proof.Machine
end

section
/-! What touches, presses, releases and lost inputs make of a race in order: it stays so, and a RELEASED lane stands as it did, so
that no verdict reaches it (R42, R114, R119, R129). -/

namespace Sys2Proof.Machine

open Sys2Proof

theorem ReleasedStand.refl (h : Heat) : ReleasedStand h h := fun _ _ => rfl

theorem ReleasedStand.trans {h g k : Heat} (a : ReleasedStand h g) (b : ReleasedStand g k) : ReleasedStand h k := fun n hn => by
  have hg := b n hn
  exact hg.trans (a n (hg ▸ hn))

/-- An operation that keeps a race in order and lets every RELEASED lane stand. -/
def KeepsOrder (s t : State) : Prop :=
  ∀ h, s.heat = some h → h.sound → ∃ g, t.heat = some g ∧ g.sound ∧ ReleasedStand h g

theorem LaneStep.keeps {n : LaneNo} {h g : Heat} (c : LaneStep n h g) (hst : (h.lanes.get n).state ≠ .released)
    (hs : h.sound) : g.sound ∧ ReleasedStand h g :=
  ⟨c.sound hs hst, (c.changed hs.shaped hst).releasedStand⟩

/-- A race in LOADED or MARKS has no RELEASED lane. -/
theorem Heat.sound.releasedStand_of_phase {h g : Heat} (hg : g.sound) (hp : g.phase = .loaded ∨ g.phase = .marks) :
    ReleasedStand h g := fun n hn => by
  have hadmits := hg.shaped.admits n
  rw [hn] at hadmits
  obtain ⟨hl, hm⟩ := RacePhase.admits_released hadmits
  exact absurd hp (not_or.mpr ⟨hl, hm⟩)

namespace KeepsOrder

section
variable {s t u : State} {h : Heat} {n : LaneNo} {st : LaneState}

theorem refl (s : State) : KeepsOrder s s := fun h hh hs => ⟨h, hh, hs, .refl h⟩

theorem of_heat (ht : t.heat = s.heat) : KeepsOrder s t := fun h hh hs => ⟨h, ht.trans hh, hs, .refl h⟩

theorem trans (a : KeepsOrder s t) (b : KeepsOrder t u) : KeepsOrder s u := fun h hh hs => by
  obtain ⟨g, hg, hgs, hstand⟩ := a h hh hs
  obtain ⟨k, hk, hks, hstand'⟩ := b g hg hgs
  exact ⟨k, hk, hks, hstand.trans hstand'⟩

theorem foldl {α : Type} {f : State → α → State} (hf : ∀ s a, KeepsOrder s (f s a)) (as : List α) (s : State) :
    KeepsOrder s (as.foldl f s) := by
  induction as generalizing s with
  | nil => exact refl s
  | cons a as ih => exact (hf s a).trans (ih _)

/-- A fold of which every step keeps what holds against the state `j`. -/
theorem foldl_from {α : Type} {f : State → α → State} {j : State} (hf : ∀ s a, KeepsOrder j s → KeepsOrder j (f s a))
    (as : List α) (hs : KeepsOrder j s) : KeepsOrder j (as.foldl f s) := by
  induction as generalizing s with
  | nil => exact hs
  | cons a as ih => exact ih (hf s a hs)

/-- A step on a lane that is not RELEASED. -/
theorem of_steps (hh : s.heat = some h) (hst : (h.lanes.get n).state = st) (hne : st ≠ .released)
    (a : StepsLane st n s t) : KeepsOrder s t := fun x hx hs => by
  obtain rfl : h = x := Option.some.inj (hh.symm.trans hx)
  obtain ⟨g, hg, hstep⟩ := a h hh hst
  exact ⟨g, hg, hstep.keeps (hst ▸ hne) hs⟩

/-! ## Touches and presses -/

/-- COLLECT opens on a SWIMMING lane (R72, R85, R86). -/
theorem openCollect (hh : s.heat = some h) (hst : (h.lanes.get n).state = .swimming) (opening : Nat) (k : CollectionSlot)
    (t : Nat) : KeepsOrder s (Machine.openCollect n opening k t s) := fun x hx hs => by
  obtain rfl : h = x := Option.some.inj (hh.symm.trans hx)
  have hlane := hs.shaped.lanes n
  have hrun := RacePhase.running_of_admits (hs.shaped.admits n) (.inl hst)
  have hwrite : ∀ c, (Lane.open h.definition opening k t c).collection.isSome = true := fun _ => rfl
  have hopened : (Lane.open h.definition opening k t (h.lanes.get n)).shaped := by
    refine ⟨by simp [Lane.open], by simp [Lane.open], ?_, by simp [Lane.open], nofun, hlane.rejected⟩
    exact hlane.result.trans (by simp [Lane.open, hst])
  have c : LaneChanged n h (h.modLane n (Lane.open h.definition opening k t)) := by
    refine ⟨rfl, modLane_othersAsBefore n h _, ?_, ?_, fun hpast => ?_, ?_⟩
    · rwa [modLane_get_self]
    · rw [modLane_get_self, hrun]
      rfl
    · rw [hrun] at hpast
      cases hpast
    · rw [modLane_get_self]
      exact nofun
  refine ⟨_, by rw [Machine.openCollect, queueLane_heat, State.modHeat_heat, hh]; rfl,
    c.sound rfl (placed_congr rfl ?_) hs, c.releasedStand⟩
  rw [modLane_get_self]
  rfl

/-- COLLECT opens behind steps on a SWIMMING lane. -/
theorem openCollect_after (hh : s.heat = some h) (hst : (h.lanes.get n).state = .swimming) (a : StepsLane .swimming n s u)
    (opening : Nat) (k : CollectionSlot) (t : Nat) : KeepsOrder s (Machine.openCollect n opening k t u) := by
  obtain ⟨g, hg, hstep⟩ := a h hh hst
  exact (of_steps hh hst nofun a).trans (openCollect hg (hstep.state.trans hst) opening k t)

theorem judgeTouch (hh : s.heat = some h) (hst : (h.lanes.get n).state = .swimming) (x : Expectation) (e : End) (t : Nat) :
    KeepsOrder s (Machine.judgeTouch n h x e t s) := by
  have hstep : ∀ {v}, StepsLane .swimming n s v → KeepsOrder s v := of_steps hh hst nofun
  unfold Machine.judgeTouch
  dsimp only
  split
  · exact refl s
  split
  · split
    · exact hstep (StepsLane.rejectTouch _ n s _ _ _ _)
    · split
      · exact hstep (StepsLane.acceptLength n s _ _ _ _)
      · exact openCollect hh hst _ _ _
  split
  · exact refl s
  split
  · rw [takeSkip_eq]
    have hskip := StepsLane.skipExpected n s x
    split
    · exact hstep (hskip.trans (StepsLane.acceptLength n _ _ _ _ _))
    · exact openCollect_after hh hst hskip _ _ _
  · exact hstep (StepsLane.rejectTouch _ n s _ _ _ _)

theorem state_of_unfinished (hu : (h.lanes.get n).unfinished = true) : (h.lanes.get n).state ≠ .released := by
  rw [unfinished_iff] at hu
  rcases hu with e | e | e <;> simp [e]

end

section
variable (n : LaneNo) (s : State)

theorem takeTouch (e : End) (c : DeckTime) : KeepsOrder s (Machine.takeTouch n e c s) := by
  unfold Machine.takeTouch
  split
  · exact refl s
  · next h hh =>
    split
    · next x hst hx => exact judgeTouch hh hst x e _
    · next hst =>
      split
      · exact of_steps hh hst nofun (StepsLane.fillSlot _ n s _ _)
      · exact refl s
    · exact refl s

theorem takePress (k : Slot) (c : DeckTime) : KeepsOrder s (Machine.takePress n k c s) := by
  unfold Machine.takePress
  split
  · exact refl s
  · next h hh =>
    dsimp only
    split
    · next x hst hx =>
      split
      · exact openCollect hh hst _ _ _
      · exact refl s
    · next hst => exact of_steps hh hst nofun (StepsLane.fillSlot _ n s _ _)
    · exact refl s

/-! ## Releases and lost inputs -/

theorem takeRelease (e : End) (c : DeckTime) : KeepsOrder s (Machine.takeRelease n e c s) := by
  unfold Machine.takeRelease
  split
  · exact refl s
  · next h hh =>
    split
    · next hu =>
      have hstep : ∀ {v}, StepsLane (h.lanes.get n).state n s v → KeepsOrder s v := of_steps hh rfl (state_of_unfinished hu)
      split
      · exact hstep (StepsLane.offerToReaction _ n s h _ c)
      · exact hstep (StepsLane.offerToExchange _ n s h _ c)
      · exact refl s
    · exact refl s

theorem platformLost (e : End) : KeepsOrder s (Machine.platformLost n e s) := by
  unfold Machine.platformLost
  split
  · exact refl s
  · next h hh =>
    split
    · next hu =>
      have hstep : ∀ {v}, StepsLane (h.lanes.get n).state n s v → KeepsOrder s v := of_steps hh rfl (state_of_unfinished hu)
      split
      · split
        · exact hstep (StepsLane.writeReaction _ n s _ _)
        · exact refl s
      · exact hstep (giveVerdict_exchanged s n _ _).judged.stepsLane
      · exact refl s
    · exact refl s

theorem padLost (e : End) : KeepsOrder s (Machine.padLost n e s) := by
  unfold Machine.padLost
  split
  · exact refl s
  · next h hh =>
    split
    · next x hst hx =>
      split
      · exact of_steps hh hst nofun (StepsLane.inferAll n s)
      · exact refl s
    · exact refl s

theorem losePads (lost : List (Fin 71)) : KeepsOrder s (Machine.losePads lost s n) := by
  refine foldl (fun v e => ?_) [End.a, .b] s
  split
  · exact padLost n v e
  · exact refl v

theorem losePlatforms (lost : List (Fin 71)) : KeepsOrder s (Machine.losePlatforms lost n s) := by
  refine foldl (fun v e => ?_) [End.a, .b] s
  split
  · exact platformLost n v e
  · exact refl v

end

/-! ## The end of an event -/

section
variable {n : LaneNo} {s : State}

/-- Where every RELEASED lane stands as in `j`, judging what a lane took since `j` keeps the race in order. -/
theorem judged_since {j : State} {f : State → State} (hs : KeepsOrder j s) (hf : JudgedTo n s (f s))
    (hstays : laneView s n = laneView j n → f s = s) : KeepsOrder j (f s) := fun x hx hxs => by
  obtain ⟨h, hh, hsound, hstand⟩ := hs x hx hxs
  by_cases hst : (h.lanes.get n).state = .released
  · have hview : laneView s n = laneView j n := by simp only [laneView, hh, hx, Option.map_some, hstand n hst]
    exact ⟨h, by rw [hstays hview, hh], hsound, hstand⟩
  · obtain ⟨g, hg, hj⟩ := hf h hh
    obtain ⟨hgs, hgstand⟩ := hj.laneStep.keeps hst hsound
    exact ⟨g, hg, hgs, hstand.trans hgstand⟩

theorem reportLane {j : State} (n : LaneNo) (hs : KeepsOrder j s) : KeepsOrder j (Machine.reportLane j s n) := by
  have hjudged : KeepsOrder j (judgeTakeoffs j n s) :=
    judged_since (f := judgeTakeoffs j n) hs (judgeTakeoffs_exchanged j s n).judged fun hview =>
      judgeTakeoffs_same j s n (by rw [exchangesOf_view, exchangesOf_view, hview])
  exact hjudged.trans (of_heat (reportLane_heat j s n))

theorem settleLane {j : State} (lost : List (Fin 71)) (n : LaneNo) (hs : KeepsOrder j s) :
    KeepsOrder j (Machine.settleLane j lost s n) := by
  have hjudged : KeepsOrder j (judgeFrom n (j.splitCount n) (judgeTakeoffs j n s)) :=
    judged_since (f := fun v => judgeFrom n (j.splitCount n) (judgeTakeoffs j n v)) hs
      ((judgeTakeoffs_exchanged j s n).judged.trans (judgeFrom_judged _ n _)) fun hview => judgeLane_same j s n hview
  exact hjudged.trans (losePlatforms n _ lost)

/-- The service changes of an event handed on, its lanes judged since `j`. -/
theorem handServices {j : State} (before : State) (is : List (Fin 71)) (hs : KeepsOrder j s) :
    KeepsOrder j (Machine.handServices before j is s) :=
  foldl_from (fun _ n hv => settleLane _ n hv) allLanes
    (foldl_from (fun v n hv => hv.trans (losePads n v _)) allLanes hs)

theorem moveFaults (is : List (Fin 71)) (f : Fin 71 → FaultRecord → FaultRecord) (cls : Fin 71 → FaultRecord → FaultClass)
    (k : FaultCause) (l : Option Link) (s : State) : KeepsOrder s (Machine.moveFaults is f cls k l s) :=
  handServices s is (of_heat (writeFaults_heat is f cls k l s))

end

end KeepsOrder

/-! ## Reports leave the race alone -/

theorem countLines_heat (ls : List Line) (s : State) : (ls.foldl countLine s).heat = s.heat :=
  (RecordsOnly.foldl RecordsOnly.countLine ls s).heat

theorem reportStucks_heat (ls : List Line) (s : State) : (ls.foldl reportStuck s).heat = s.heat :=
  (RecordsOnly.foldl RecordsOnly.reportStuck ls s).heat

theorem KeepsOrder.expireLines (ls : List Line) (s : State) : KeepsOrder s (Machine.expireLines ls s) :=
  KeepsOrder.handServices s _ (.of_heat (reportStucks_heat _ s))

end Sys2Proof.Machine
end

section
/-! The start of a race, lane by lane (R21, R27, R65, R77, R105, R108): first every READY lane started, then its exchange judging. -/

namespace Sys2Proof.Machine

open Sys2Proof

/-! ## An operation on each of some lanes -/

/-- One lane and its desk alone have changed. -/
structure OneLane (n : LaneNo) (h g : Heat) : Prop where
  rest : g = { h with lanes := g.lanes, desks := g.desks }
  others : othersAsBefore n h g

/-- Operations on lanes, each on one that stood until then as in `h₀`: every lane has what its own operation makes of it. -/
theorem foldl_lanes {f : State → LaneNo → State} {s₀ : State} {h₀ : Heat} {Q : LaneNo → Lane → Desk → Prop}
    (hs₀ : s₀.heat = some h₀) (hrace : ∀ s n, RaceOnly s (f s n)) {ns : List LaneNo} (hd : ns.Nodup)
    (hf : ∀ n ∈ ns, ∀ s h, RaceOnly s₀ s → s.heat = some h → h = { h₀ with lanes := h.lanes, desks := h.desks } →
      h.lanes.get n = h₀.lanes.get n → h.desks.get n = h₀.desks.get n →
      ∃ g, (f s n).heat = some g ∧ OneLane n h g ∧ Q n (g.lanes.get n) (g.desks.get n)) :
    ∃ g, (ns.foldl f s₀).heat = some g ∧ g = { h₀ with lanes := g.lanes, desks := g.desks } ∧
      (∀ n ∈ ns, Q n (g.lanes.get n) (g.desks.get n)) ∧
      ∀ n ∉ ns, g.lanes.get n = h₀.lanes.get n ∧ g.desks.get n = h₀.desks.get n := by
  suffices hrest : ∀ ms : List LaneNo, ms.Nodup → (∀ n ∈ ms, n ∈ ns) → ∀ s h, RaceOnly s₀ s → s.heat = some h →
      h = { h₀ with lanes := h.lanes, desks := h.desks } →
      (∀ n ∈ ms, h.lanes.get n = h₀.lanes.get n ∧ h.desks.get n = h₀.desks.get n) →
      ∃ g, (ms.foldl f s).heat = some g ∧ g = { h₀ with lanes := g.lanes, desks := g.desks } ∧
        (∀ n ∈ ms, Q n (g.lanes.get n) (g.desks.get n)) ∧
        ∀ n ∉ ms, g.lanes.get n = h.lanes.get n ∧ g.desks.get n = h.desks.get n from
    hrest ns hd (fun _ hn => hn) s₀ h₀ (.refl s₀) hs₀ rfl fun _ _ => ⟨rfl, rfl⟩
  intro ms
  induction ms with
  | nil => exact fun _ _ s h _ hh hr _ => ⟨h, hh, hr, nofun, fun _ _ => ⟨rfl, rfl⟩⟩
  | cons m ms ih =>
    intro hnd hsub s h ho hh hr hsame
    obtain ⟨hm, hnd⟩ := List.nodup_cons.mp hnd
    obtain ⟨hl, hk⟩ := hsame m List.mem_cons_self
    obtain ⟨g, hg, hone, hq⟩ := hf m (hsub m List.mem_cons_self) s h ho hh hr hl hk
    have hne : ∀ n ∈ ms, n ≠ m := fun n hn hnm => hm (hnm ▸ hn)
    have hrest : g = { h₀ with lanes := g.lanes, desks := g.desks } := by
      rw [hone.rest, hr]
    obtain ⟨k, hk, hkr, hkq, hks⟩ := ih hnd (fun n hn => hsub n (List.mem_cons_of_mem _ hn)) (f s m) g (ho.trans (hrace s m))
      hg hrest fun n hn => by
        obtain ⟨ol, od⟩ := hone.others n (hne n hn)
        obtain ⟨sl, sd⟩ := hsame n (List.mem_cons_of_mem _ hn)
        exact ⟨ol.trans sl, od.trans sd⟩
    refine ⟨k, hk, hkr, fun n hn => ?_, fun n hn => ?_⟩
    · rcases List.mem_cons.mp hn with rfl | hn
      · obtain ⟨kl, kd⟩ := hks n hm
        rw [kl, kd]
        exact hq
      · exact hkq n hn
    · obtain ⟨hnm, hnms⟩ := not_or.mp (List.mem_cons.not.mp hn)
      obtain ⟨kl, kd⟩ := hks n hnms
      obtain ⟨ol, od⟩ := hone.others n hnm
      exact ⟨kl.trans ol, kd.trans od⟩

/-! ## One lane started -/

/-- The reaction record a start leaves: none for a WATER start, UNMEASURED while the platform is out of service (R105, R108). -/
def Lane.startReaction (d : Definition) (start : DeckTime) (platform : Bool) (l : Lane) : Option Reaction :=
  match d.startKind with
  | .water => none
  | .block =>
    let r := l.reaction.getD (Reaction.new start)
    some (if platform then r else r.lost)

/-- A READY lane started, before its exchanges are judged: SWIMMING, expecting length 1, or beyond it with NONE entries behind while
the pads are out of service (R27, R65, R77). `pad` and `platform` say whether the first pad and the start-end platform are in
service. -/
structure StartedLane (start : DeckTime) (d : Definition) (pad platform : Bool) (l : Lane) (k : Desk) (m : Lane) (j : Desk) :
    Prop where
  lane : ∃ sp x leg, m =
    { l.start d start with
      reaction := l.startReaction d start platform
      splits := sp
      expectation := some x
      leg := some leg }
  expecting : pad = true ∨ d.lengths ≤ 1 → m.expectation = some ⟨1, d.endOf 1, 0, d.firstGuard⟩ ∧ m.splits = []
  missed : pad = false → 1 < d.lengths →
    m.splits.head? = some ⟨1, d.endOf 1, d.legOf 1, none, .none⟩ ∧ j.hold.reasons.skippedLength = true
  desk : ∃ a, j = { k with hold := { k.hold with reasons := { k.hold.reasons with skippedLength := a } } }

/-- An inference misses the expected length and goes on to the next (R77). -/
theorem inferAll_skips {n : LaneNo} {s : State} {h : Heat} {x : Expectation} (hh : s.heat = some h)
    (hx : (h.lanes.get n).expectation = some x) (hlen : x.length < h.definition.lengths)
    (hpad : s.inService (padInput n x.finish) = false) :
    ∃ fuel, inferAll n s = infer n fuel (skipExpected n x s) := by
  obtain ⟨fuel, hfuel⟩ : ∃ fuel, h.definition.lengths = fuel + 1 := ⟨h.definition.lengths - 1, by omega⟩
  refine ⟨fuel, ?_⟩
  simp only [inferAll, hh, hfuel, infer, hx]
  rw [if_pos ⟨by omega, hpad⟩]
  rfl

/-- A length missed and the chain behind it, while its pad is out of service (R77). -/
theorem inferAll_misses {n : LaneNo} {s : State} {h : Heat} {x : Expectation} (hh : s.heat = some h)
    (hx : (h.lanes.get n).expectation = some x) (hlen : x.length < h.definition.lengths)
    (hpad : s.inService (padInput n x.finish) = false) :
    ∃ g, (inferAll n s).heat = some g ∧ Inferred n (h.skipExpected n x) g := by
  obtain ⟨fuel, hskips⟩ := inferAll_skips hh hx hlen hpad
  rw [hskips]
  exact infer_inferred n fuel _ _ (skipExpected_heat n x hh)

section
variable (start : DeckTime) {n : LaneNo} {s : State} {h : Heat}

/-- The start of a READY lane up to its reaction record. -/
theorem testStartPlatform_heat (hh : s.heat = some h) :
    (testStartPlatform n (queueLane n (s.modLane n (Lane.start h.definition start)))).heat =
      some (h.modLane n fun l =>
        { l.start h.definition start with
          reaction := l.startReaction h.definition start (s.inService (platformInput n h.definition.startEnd)) }) := by
  have hstarted : (queueLane n (s.modLane n (Lane.start h.definition start))).heat =
      some (h.modLane n (Lane.start h.definition start)) := by rw [queueLane_heat, State.modLane_heat, hh]; rfl
  have hserve : ∀ i, (queueLane n (s.modLane n (Lane.start h.definition start))).inService i = s.inService i := fun _ => rfl
  unfold testStartPlatform
  simp only [hstarted, modLane_get_self, modLane_definition, hserve]
  cases hkind : h.definition.startKind with
  | water =>
    simp only [Lane.start, hkind]
    rw [hstarted]
    exact congrArg some (modLane_congr (by simp [Lane.start, Lane.startReaction, hkind]))
  | block =>
    simp only [Lane.start, hkind]
    split
    · next hp =>
      rw [hstarted]
      exact congrArg some (modLane_congr (by simp [Lane.start, Lane.startReaction, hkind, hp]))
    · next hp =>
      rw [writeReaction_heat hstarted, modLane_modLane]
      exact congrArg some (modLane_congr (by simp [Lane.start, Lane.startReaction, hkind, hp]))

/-- The race a READY lane is started in, before any inference. -/
def Heat.startedLane (h : Heat) (n : LaneNo) (start : DeckTime) (platform : Bool) : Heat :=
  h.modLane n fun l =>
    { l.start h.definition start with
      reaction := l.startReaction h.definition start platform
      expectation := some ⟨1, h.definition.endOf 1, 0, h.definition.firstGuard⟩
      leg := some (h.definition.legOf 1) }

theorem startLane_eq (hh : s.heat = some h) (hst : (h.lanes.get n).state = .ready) :
    ∃ u, startLane start s n = inferAll n u ∧ u.faults = s.faults ∧
      u.heat = some (h.startedLane n start (s.inService (platformInput n h.definition.startEnd))) := by
  refine ⟨_, by simp only [startLane, hh, if_pos hst]; rfl, ?_, ?_⟩
  · exact ((RaceOnly.modLane s n _).trans (RaceOnly.queueLane n _)).trans (RaceOnly.testStartPlatform n _) |>.faults
  · rw [expectLength_heat, testStartPlatform_heat start hh, Option.map_some, modLane_modLane]
    refine congrArg some (modLane_congr ?_)
    simp [Lane.expect, Lane.start, Lane.span, Lane.offset, lastTimedLength]

theorem startLane_started (hh : s.heat = some h) (hst : (h.lanes.get n).state = .ready) :
    ∃ g, (startLane start s n).heat = some g ∧ OneLane n h g ∧
      StartedLane start h.definition (s.inService (firstPad h.definition n))
        (s.inService (platformInput n h.definition.startEnd)) (h.lanes.get n) (h.desks.get n) (g.lanes.get n)
        (g.desks.get n) := by
  obtain ⟨u, hu, hfaults, huh⟩ := startLane_eq start hh hst
  rw [hu]
  let k := h.startedLane n start (s.inService (platformInput n h.definition.startEnd))
  have hlane : k.lanes.get n =
      { (h.lanes.get n).start h.definition start with
        reaction := (h.lanes.get n).startReaction h.definition start (s.inService (platformInput n h.definition.startEnd))
        expectation := some ⟨1, h.definition.endOf 1, 0, h.definition.firstGuard⟩
        leg := some (h.definition.legOf 1) } := modLane_get_self ..
  have hothers : othersAsBefore n h k := modLane_othersAsBefore n h _
  have hserve : u.inService (firstPad h.definition n) = s.inService (firstPad h.definition n) := by
    rw [State.inService, State.inService, hfaults]
  obtain ⟨g, hg, hi⟩ := inferAll_inferred n u k huh
  obtain ⟨more, x, j, hgl, -, hx, hj⟩ := hi.lane
  obtain ⟨a, hgd, -⟩ := hi.desk
  rw [hlane] at hgl hx hj
  obtain ⟨x, rfl⟩ := Option.isSome_iff_exists.mp (hx rfl)
  obtain ⟨j, rfl⟩ := Option.isSome_iff_exists.mp (hj rfl)
  refine ⟨g, hg, ⟨by rw [hi.rest]; rfl, othersAsBefore_trans hothers hi.others⟩, ⟨_, x, j, hgl⟩, fun hstay => ?_,
    fun hpad hlen => ?_, ⟨a, hgd⟩⟩
  · have hsame : inferAll n u = u := inferAll_stays n u k ⟨1, h.definition.endOf 1, 0, h.definition.firstGuard⟩ huh
      (by rw [hlane])
      (hstay.symm.imp id fun hpad => hserve.trans hpad)
    have hgk : g = k := Option.some.inj (by rw [← hg, hsame, huh])
    rw [hgk, hlane]
    exact ⟨rfl, rfl⟩
  · obtain ⟨g', hg', hmiss⟩ := inferAll_misses (x := ⟨1, h.definition.endOf 1, 0, h.definition.firstGuard⟩) huh
      (by rw [hlane]) hlen (hserve.trans hpad)
    obtain rfl : g = g' := Option.some.inj (hg.symm.trans hg')
    refine ⟨?_, hmiss.skippedLength (skipExpected_skippedLength ..)⟩
    obtain ⟨more', x', j', hgl', -⟩ := hmiss.lane
    rw [hgl', skipExpected_lane, hlane]
    rfl

end

end Sys2Proof.Machine
end

section
/-! The race a start leaves (R21, R27, R109, R110): every READY lane started, then judged, and every other lane as it was. -/

namespace Sys2Proof.Machine

open Sys2Proof

/-! ## Judging keeps the number of exchange records (R109) -/

/-- How many exchange records a lane has. -/
def State.exchangeCount (s : State) (n : LaneNo) : Nat := (s.exchangesOf n).length

theorem exchangeCount_of_heat {s : State} {h : Heat} (n : LaneNo) (hh : s.heat = some h) :
    s.exchangeCount n = (h.lanes.get n).exchanges.length := by simp [State.exchangeCount, State.exchangesOf, hh]

theorem exchangeCount_congr {s t : State} (n : LaneNo) (h : t.heat = s.heat) : t.exchangeCount n = s.exchangeCount n := by
  simp only [State.exchangeCount, State.exchangesOf, h]

theorem exchangeCount_map {s t : State} {n : LaneNo} {f : Heat → Heat} (ht : t.heat = s.heat.map f)
    (hf : ∀ h, ((f h).lanes.get n).exchanges.length = (h.lanes.get n).exchanges.length) :
    t.exchangeCount n = s.exchangeCount n := by
  cases hh : s.heat with
  | none => exact exchangeCount_congr n (by rw [ht, hh, Option.map_none])
  | some h =>
    rw [exchangeCount_of_heat n hh, exchangeCount_of_heat n (by rw [ht, hh, Option.map_some]), hf]

section
variable (n : LaneNo) (s : State)

theorem addReason_exchangeCount (r : Reason) : (addReason n r s).exchangeCount n = s.exchangeCount n :=
  exchangeCount_map (addReason_heat ..) fun _ => rfl

theorem modExchange_exchangeCount (leg : Nat) (f : Exchange → Exchange) :
    (s.modExchange n leg f).exchangeCount n = s.exchangeCount n :=
  exchangeCount_map (s.modLane_heat n _) fun h => by simp

theorem completeExchange_exchangeCount (x : Exchange) (r : Option Reason) :
    (completeExchange n x r s).exchangeCount n = s.exchangeCount n := by
  have hraise : (raise (.exchange n x) (s.modExchange n x.leg fun _ => x)).exchangeCount n = s.exchangeCount n :=
    (exchangeCount_congr n (raise_heat ..)).trans (modExchange_exchangeCount n s _ _)
  unfold completeExchange
  cases r with
  | none => exact hraise
  | some r => exact (addReason_exchangeCount n _ r).trans hraise

theorem giveVerdict_exchangeCount (x : Exchange) (v : Verdict) : (giveVerdict n x v s).exchangeCount n = s.exchangeCount n :=
  completeExchange_exchangeCount n s _ _

theorem judgeMargin_exchangeCount (a : Nat) (x : Exchange) : (judgeMargin n a x s).exchangeCount n = s.exchangeCount n := by
  unfold judgeMargin
  split
  · exact giveVerdict_exchangeCount n s _ _
  · exact modExchange_exchangeCount n s _ _

theorem settleTouch_exchangeCount (e : SplitEntry) : (settleTouch n e s).exchangeCount n = s.exchangeCount n := by
  unfold settleTouch
  split
  · rfl
  · split
    · rfl
    · split
      · exact giveVerdict_exchangeCount n s _ _
      · exact judgeMargin_exchangeCount n s _ _

theorem settleTakeoff_exchangeCount (e : SplitEntry) : (settleTakeoff n e s).exchangeCount n = s.exchangeCount n := by
  unfold settleTakeoff
  split
  · rfl
  · split
    · rfl
    · split
      · exact giveVerdict_exchangeCount n s _ _
      · rfl

theorem armExchange_exchangeCount (m : Nat) : (armExchange n m s).exchangeCount n = s.exchangeCount n := by
  unfold armExchange
  split
  · rfl
  · split
    · rfl
    · split
      · exact modExchange_exchangeCount n s _ _
      · exact giveVerdict_exchangeCount n s _ _

theorem judgeEntry_exchangeCount (e : SplitEntry) : (judgeEntry n s e).exchangeCount n = s.exchangeCount n := by
  have hends : (if e.length = 1 then endReactionArming n s else s).exchangeCount n = s.exchangeCount n := by
    split
    · exact exchangeCount_map (s.modLane_heat n _) fun h => by simp
    · rfl
  unfold judgeEntry
  dsimp only
  rw [armExchange_exchangeCount, settleTakeoff_exchangeCount, settleTouch_exchangeCount, hends]

theorem judgeFrom_exchangeCount (count : Nat) : (judgeFrom n count s).exchangeCount n = s.exchangeCount n := by
  have hfold : ∀ (es : List SplitEntry) (t : State), (es.foldl (judgeEntry n) t).exchangeCount n = t.exchangeCount n := by
    intro es
    induction es with
    | nil => exact fun _ => rfl
    | cons e es ih => exact fun t => (ih _).trans (judgeEntry_exchangeCount n t e)
  unfold judgeFrom
  split
  · rfl
  · exact hfold _ s

theorem judgeStart_exchangeCount : (judgeStart s n).exchangeCount n = s.exchangeCount n := by
  rw [judgeStart, judgeFrom_exchangeCount, armExchange_exchangeCount]

end

/-! ## One started lane judged -/

/-- A started lane judged (R110, R115): its exchange records, as many as they were, its reaction arming, which stays while its list
is empty, and the two exchange reasons alone may have changed. -/
structure StartJudged (l : Lane) (k : Desk) (m : Lane) (j : Desk) : Prop where
  lane : ∃ xs r, m = { l with exchanges := xs, reaction := r } ∧ xs.length = l.exchanges.length ∧
    reactionEnds l.reaction r ∧ (l.splits = [] → r = l.reaction)
  desk : ∃ a b, j =
    { k with
      hold := { k.hold with reasons := { k.hold.reasons with exchangeEarly := a, exchangeUnjudged := b } } }

theorem judgeStart_judged (n : LaneNo) (s : State) : JudgedTo n s (judgeStart s n) :=
  (armExchange_exchanged s n 1).judged.trans (judgeFrom_judged _ n 0)

/-- With no entry in its list a lane is judged for its first boundary alone. -/
theorem judgeStart_exchanged {n : LaneNo} {s : State} {h : Heat} (hh : s.heat = some h) (he : (h.lanes.get n).splits = []) :
    ExchangedTo n s (judgeStart s n) := by
  have harm := armExchange_exchanged s n 1
  obtain ⟨g, hg, hx⟩ := harm h hh
  obtain ⟨xs, hlane⟩ := hx.lane
  rwa [judgeStart, judgeFrom_none _ n 0 g hg (by rw [hlane, he]; exact Nat.le_refl 0)]

theorem judgeStart_startJudged {n : LaneNo} {s : State} {h : Heat} (hh : s.heat = some h) :
    ∃ g, (judgeStart s n).heat = some g ∧ OneLane n h g ∧
      StartJudged (h.lanes.get n) (h.desks.get n) (g.lanes.get n) (g.desks.get n) := by
  obtain ⟨g, hg, hj⟩ := judgeStart_judged n s h hh
  obtain ⟨xs, r, hlane, hr⟩ := hj.lane
  obtain ⟨a, b, hdesk, -, -⟩ := hj.desk
  have hcount := judgeStart_exchangeCount n s
  rw [exchangeCount_of_heat n hg, exchangeCount_of_heat n hh, hlane] at hcount
  refine ⟨g, hg, ⟨hj.rest, hj.others⟩, ⟨xs, r, hlane, hcount, hr, fun he => ?_⟩, ⟨a, b, hdesk⟩⟩
  obtain ⟨g', hg', hx⟩ := judgeStart_exchanged hh he h hh
  obtain rfl : g = g' := Option.some.inj (hg.symm.trans hg')
  obtain ⟨ys, hlane'⟩ := hx.lane
  have hreaction := congrArg Lane.reaction (hlane.symm.trans hlane')
  exact hreaction

/-! ## The race started -/

/-- The race at its start deck time, its lanes still to be started (R27). -/
def Heat.begun (h : Heat) (start : DeckTime) : Heat :=
  { h with phase := .running, startTime := some start, overtimeFlag := false, overtimeTimer := true }

section
variable (start : DeckTime) (cause : RaceCause) (link : Option Link) {s : State} {h : Heat}

/-- The state the lanes are started in: RACE_STATE raised, the board's START item and clock (R39, R164, R169). -/
def raceBegun (h : Heat) (s : State) : State :=
  boardStart h (raceNotice cause link (s.modHeat fun k => k.begun start))

theorem startRace_eq (hh : s.heat = some h) :
    startRace start cause link s =
      (h.lanesWhere fun l => l.state == .ready).foldl judgeStart
        (allLanes.foldl (startLane start) (raceBegun start cause link h s)) := by
  simp only [startRace, hh]
  rfl

theorem RaceOnly.raceBegun : RaceOnly s (raceBegun start cause link h s) :=
  ((RaceOnly.modHeat s (fun k => k.begun start) fun _ => rfl).trans (RaceOnly.raceNotice cause link _)).trans
    (RaceOnly.boardStart h _)

theorem raceBegun_heat (hh : s.heat = some h) : (raceBegun start cause link h s).heat = some (h.begun start) := by
  rw [raceBegun, boardStart, State.modBoard_heat, heatEvent_heat, raceNotice_heat, State.modHeat_heat, hh]
  rfl

/-- A READY lane of the race, started and judged. -/
def StartsLane (s : State) (h : Heat) (n : LaneNo) (m : Lane) (j : Desk) : Prop :=
  ∃ l k, StartedLane start h.definition (s.inService (firstPad h.definition n))
    (s.inService (platformInput n h.definition.startEnd)) (h.lanes.get n) (h.desks.get n) l k ∧ StartJudged l k m j

/-- What the first fold leaves: every READY lane started. -/
theorem startLanes_started (hh : s.heat = some h) :
    ∃ g, (allLanes.foldl (startLane start) (raceBegun start cause link h s)).heat = some g ∧
      g = { h.begun start with lanes := g.lanes, desks := g.desks } ∧
      ∀ n, ((h.lanes.get n).state = .ready →
          StartedLane start h.definition (s.inService (firstPad h.definition n))
            (s.inService (platformInput n h.definition.startEnd)) (h.lanes.get n) (h.desks.get n) (g.lanes.get n)
            (g.desks.get n)) ∧
        ((h.lanes.get n).state ≠ .ready → g.lanes.get n = h.lanes.get n ∧ g.desks.get n = h.desks.get n) := by
  let Q : LaneNo → Lane → Desk → Prop := fun n m j =>
    ((h.lanes.get n).state = .ready →
      StartedLane start h.definition (s.inService (firstPad h.definition n))
        (s.inService (platformInput n h.definition.startEnd)) (h.lanes.get n) (h.desks.get n) m j) ∧
    ((h.lanes.get n).state ≠ .ready → m = h.lanes.get n ∧ j = h.desks.get n)
  have hlane : ∀ n ∈ allLanes, ∀ u k, RaceOnly (raceBegun start cause link h s) u → u.heat = some k →
      k = { h.begun start with lanes := k.lanes, desks := k.desks } → k.lanes.get n = h.lanes.get n →
      k.desks.get n = h.desks.get n →
      ∃ g, (startLane start u n).heat = some g ∧ OneLane n k g ∧ Q n (g.lanes.get n) (g.desks.get n) := by
    intro n _ u k ho hk hrest hkl hkd
    have hdef : k.definition = h.definition := by rw [hrest]; rfl
    have hserve : ∀ i, u.inService i = s.inService i := fun i => by
      rw [State.inService, State.inService, ((RaceOnly.raceBegun start cause link).trans ho).faults]
    by_cases hst : (h.lanes.get n).state = .ready
    · obtain ⟨g, hg, hone, hq⟩ := startLane_started start hk (by rw [hkl]; exact hst)
      rw [hdef, hserve, hserve, hkl, hkd] at hq
      exact ⟨g, hg, hone, fun _ => hq, fun hne => absurd hst hne⟩
    · have hsame : startLane start u n = u := by simp only [startLane, hk, hkl, if_neg hst]
      exact ⟨k, by rw [hsame, hk], ⟨rfl, fun _ _ => ⟨rfl, rfl⟩⟩, fun h => absurd h hst, fun _ => ⟨hkl, hkd⟩⟩
  obtain ⟨g, hg, hrest, hq, -⟩ := foldl_lanes (Q := Q) (raceBegun_heat start cause link hh)
    (fun v n => RaceOnly.startLane start v n) (List.nodup_finRange 10) hlane
  exact ⟨g, hg, hrest, fun n => hq n (List.mem_finRange n)⟩

/-- What the second fold leaves of the lanes it judges. -/
theorem judgeLanes_judged {t : State} {k : Heat} {ns : List LaneNo} (hk : t.heat = some k) (hd : ns.Nodup) :
    ∃ g, (ns.foldl judgeStart t).heat = some g ∧ g = { k with lanes := g.lanes, desks := g.desks } ∧
      (∀ n ∈ ns, StartJudged (k.lanes.get n) (k.desks.get n) (g.lanes.get n) (g.desks.get n)) ∧
      ∀ n ∉ ns, g.lanes.get n = k.lanes.get n ∧ g.desks.get n = k.desks.get n :=
  foldl_lanes (f := judgeStart) (Q := fun n m j => StartJudged (k.lanes.get n) (k.desks.get n) m j) hk
    (fun v n => RaceOnly.judgeStart v n) hd fun n _ u x _ hx _ hxl hxd => by
      obtain ⟨g, hg, hone, hq⟩ := judgeStart_startJudged (n := n) hx
      rw [hxl, hxd] at hq
      exact ⟨g, hg, hone, hq⟩

theorem mem_startedLanes (h : Heat) (n : LaneNo) :
    n ∈ (h.lanesWhere fun l => l.state == .ready) ↔ (h.lanes.get n).state = .ready := by
  simp [Heat.lanesWhere]

/-- The race a start leaves. -/
theorem startRace_starts (hh : s.heat = some h) :
    ∃ g, (startRace start cause link s).heat = some g ∧
      g = { h.begun start with lanes := g.lanes, desks := g.desks } ∧
      ∀ n, ((h.lanes.get n).state = .ready → StartsLane start s h n (g.lanes.get n) (g.desks.get n)) ∧
        ((h.lanes.get n).state ≠ .ready → g.lanes.get n = h.lanes.get n ∧ g.desks.get n = h.desks.get n) := by
  rw [startRace_eq start cause link hh]
  obtain ⟨k, hk, hkr, hkq⟩ := startLanes_started start cause link hh
  obtain ⟨g, hg, hgr, hgq, hgs⟩ := judgeLanes_judged (ns := h.lanesWhere fun l => l.state == .ready) hk
    ((List.nodup_finRange 10).filter _)
  refine ⟨g, hg, by rw [hgr, hkr], fun n => ⟨fun hst => ?_, fun hst => ?_⟩⟩
  · exact ⟨_, _, (hkq n).1 hst, hgq n ((mem_startedLanes h n).mpr hst)⟩
  · obtain ⟨hgl, hgd⟩ := hgs n fun hn => hst ((mem_startedLanes h n).mp hn)
    obtain ⟨hkl, hkd⟩ := (hkq n).2 hst
    exact ⟨hgl.trans hkl, hgd.trans hkd⟩

end

end Sys2Proof.Machine
end

section
/-! The race that marks, their cancellation and a recall leave (R25, R26, R30, R32, R62, R105, R107), and why it is in order as the
started race is. -/

namespace Sys2Proof.Machine

open Sys2Proof

/-! ## The lanes changed in a row -/

theorem vector_get_map {α β : Type} {n : Nat} (v : Vector α n) (f : α → β) (i : Fin n) : (v.map f).get i = f (v.get i) := by
  change (v.map f)[i.val] = f v[i.val]
  simp

/-- Every desk changed, each as R122 says. -/
theorem changeDesks_heat (c : HoldCause) (l : Option Link) (f : Desk → Desk) {s : State} {h : Heat} (hh : s.heat = some h) :
    ∃ g, (allLanes.foldl (fun s n => changeDesk n c l f s) s).heat = some g ∧ g = { h with desks := g.desks } ∧
      ∀ n, g.desks.get n = f (h.desks.get n) := by
  obtain ⟨g, hg, hrest, hq, -⟩ := foldl_lanes (f := fun s n => changeDesk n c l f s)
    (Q := fun n m j => m = h.lanes.get n ∧ j = f (h.desks.get n)) hh (fun s n => RaceOnly.changeDesk n c l f s)
    (List.nodup_finRange 10) fun n _ u k _ hk _ hkl hkd =>
      ⟨k.modDesk n f, by rw [changeDesk_heat, hk]; rfl, ⟨rfl, modDesk_othersAsBefore n k f⟩, hkl, by
        rw [modDesk_get_self, hkd]⟩
  have hlanes : g.lanes = h.lanes := vector_ext_get fun n => (hq n (List.mem_finRange n)).1
  refine ⟨g, hg, ?_, fun n => (hq n (List.mem_finRange n)).2⟩
  rw [hrest, hlanes]

/-! ## Marks (R25, R26) -/

/-- A lane at the rise of MARKS: armed when it is READY and the start a BLOCK start (R105). -/
def Lane.marked (d : Definition) (now : DeckTime) (l : Lane) : Lane :=
  if d.startKind = .block ∧ l.state = .ready then { l with reaction := some (Reaction.new now) } else l

theorem armLanes_heat {s : State} {h : Heat} (hh : s.heat = some h) :
    ∃ g, (allLanes.foldl (fun s n => armForMarks n s) s).heat = some g ∧ g = { h with lanes := g.lanes } ∧
      ∀ n, g.lanes.get n =
        if (h.lanes.get n).state = .ready then { h.lanes.get n with reaction := some (Reaction.new s.deckTime) }
        else h.lanes.get n := by
  obtain ⟨g, hg, hrest, hq, -⟩ := foldl_lanes (f := fun s n => armForMarks n s)
    (Q := fun n m j =>
      (m = if (h.lanes.get n).state = .ready then { h.lanes.get n with reaction := some (Reaction.new s.deckTime) }
        else h.lanes.get n) ∧ j = h.desks.get n) hh (fun s n => RaceOnly.armForMarks n s) (List.nodup_finRange 10)
    fun n _ u k ho hk _ hkl hkd =>
      ⟨_, by rw [armForMarks, State.modLane_heat, hk, Option.map_some], ⟨rfl, modLane_othersAsBefore n k _⟩, by
        rw [modLane_get_self, hkl, ho.deckTime], hkd⟩
  have hdesks : g.desks = h.desks := vector_ext_get fun n => (hq n (List.mem_finRange n)).2
  refine ⟨g, hg, ?_, fun n => (hq n (List.mem_finRange n)).1⟩
  rw [hrest, hdesks]

theorem marksRise_heat {s : State} {h : Heat} (hh : s.heat = some h) (hp : h.phase = .loaded) :
    ∃ g, (marksRise s).heat = some g ∧ g = { h with phase := .marks, lanes := g.lanes } ∧
      ∀ n, g.lanes.get n = (h.lanes.get n).marked h.definition s.deckTime := by
  have hmarks : (s.modHeat fun h => { h with phase := .marks }).heat = some { h with phase := .marks } := by
    rw [State.modHeat_heat, hh, Option.map_some]
  simp only [marksRise, hh, if_pos hp]
  by_cases hb : h.definition.startKind = .block
  · obtain ⟨g, hg, hrest, hlanes⟩ := armLanes_heat hmarks
    refine ⟨g, by rw [if_pos hb, raceNotice_heat, hg], hrest, fun n => ?_⟩
    simp only [hlanes n, Lane.marked, hb, true_and]
    rfl
  · refine ⟨_, by rw [if_neg hb, raceNotice_heat, hmarks], rfl, fun n => ?_⟩
    rw [Lane.marked, if_neg fun hc => hb hc.1]

theorem dropFalseStart_eq (k : Desk) :
    Desk.dropReasons falseStartOnly k =
      { k with hold := { k.hold with reasons := { k.hold.reasons with falseStart := false } } } := by
  simp [Desk.dropReasons, falseStartOnly, ReasonSet.without, ReasonSet.put, ReasonSet.empty]

theorem cancelMarks_heat (cause : RaceCause) {s : State} {h : Heat} (hh : s.heat = some h) :
    ∃ g, (cancelMarks cause s).heat = some g ∧
      g = { h with phase := .loaded, lanes := g.lanes, desks := g.desks } ∧
      (∀ n, g.lanes.get n = { h.lanes.get n with reaction := none }) ∧
      ∀ n, g.desks.get n =
        { h.desks.get n with
          hold := { (h.desks.get n).hold with reasons := { (h.desks.get n).hold.reasons with falseStart := false } } } := by
  have hloaded : (raceNotice cause none (s.modHeat fun h =>
      { h with phase := .loaded, lanes := h.lanes.map fun l => { l with reaction := none } })).heat =
      some { h with phase := .loaded, lanes := h.lanes.map fun l => { l with reaction := none } } := by
    rw [raceNotice_heat, State.modHeat_heat, hh, Option.map_some]
  obtain ⟨g, hg, hrest, hdesks⟩ := changeDesks_heat .reasonRemoved none (Desk.dropReasons falseStartOnly) hloaded
  refine ⟨g, hg, ?_, fun n => ?_, fun n => by rw [hdesks, dropFalseStart_eq]⟩
  · rw [hrest]
  · rw [hrest]
    exact vector_get_map ..

/-! ## A recall honoured (R32, R62) -/

/-- The race recalled, its hold sets still to be changed. -/
def Heat.recalled (h : Heat) : Heat :=
  { h with
    phase := .loaded
    startTime := none
    overtimeTimer := false
    overtimeFlag := false
    recalls := nextRecall h.recalls
    lanes := h.lanes.map Lane.recall }

theorem honourRecall_heat {s : State} {h : Heat} (hh : s.heat = some h) :
    ∃ g, (honourRecall s).heat = some g ∧ g = { h.recalled with desks := g.desks } ∧
      ∀ n, g.desks.get n = (h.desks.get n).recall := by
  have hqueued : ∀ (ns : List LaneNo) (t : State), (ns.foldl (fun s n => queueLane n s) t).heat = t.heat := by
    intro ns
    induction ns with
    | nil => exact fun _ => rfl
    | cons n ns ih => exact fun t => (ih _).trans (queueLane_heat n t)
  simp only [honourRecall, hh]
  refine changeDesks_heat .recall none Desk.recall (h := h.recalled) ?_
  rw [hqueued, owesHeader_heat, heatEvent_heat, State.modBoard_heat, raceNotice_heat, State.modHeat_heat, hh]
  rfl

/-! ## These races are in order -/

/-- A race whose desks keep mark and place and whose lanes their result, with no lane RELEASED, before REVIEW: in order again. -/
theorem Heat.sound.before_review {h g : Heat} (hs : h.sound) (hplacing : g.placing = h.placing)
    (hdesk : ∀ n, (g.desks.get n).dq = (h.desks.get n).dq ∧ (g.desks.get n).place = (h.desks.get n).place)
    (hresult : ∀ n, (g.lanes.get n).result = (h.lanes.get n).result) (hlanes : ∀ n, (g.lanes.get n).shaped)
    (hadmits : ∀ n, g.phase.admits (g.lanes.get n).state = true) (hpast : g.phase.past = false)
    (hstart : g.startTime.isSome = true ↔ g.phase.started = true) (hstop : g.stopTime = none)
    (hreleased : ∀ n, (g.lanes.get n).state ≠ .released) : g.sound := by
  refine ⟨⟨hlanes, hadmits, ?_, hstart, by simp [hstop, hpast], fun n hn => absurd hn (hreleased n)⟩,
    hs.ranked.congr hplacing hdesk hresult⟩
  rw [hpast]
  refine iff_of_false (fun hf => ?_) (by simp)
  rw [hf] at hpast
  cases hpast

theorem Heat.shaped.stopTime_none {h : Heat} (hs : h.shaped) (hp : h.phase.past = false) : h.stopTime = none := by
  rw [← Option.not_isSome_iff_eq_none, hs.stop, hp]
  exact nofun

theorem Heat.shaped.startTime_none {h : Heat} (hs : h.shaped) (hp : h.phase.started = false) : h.startTime = none := by
  rw [← Option.not_isSome_iff_eq_none, hs.start, hp]
  exact nofun

/-- No lane is RELEASED before RUNNING. -/
theorem Heat.shaped.unstarted {h : Heat} (hs : h.shaped) (hp : h.phase = .loaded ∨ h.phase = .marks) (n : LaneNo) :
    (h.lanes.get n).state = .vacant ∨ (h.lanes.get n).state = .ready := by
  have hadmits := hs.admits n
  rcases hp with hp | hp <;> rw [hp] at hadmits <;> simpa [RacePhase.admits] using hadmits

theorem Lane.shaped.result_none {l : Lane} (hl : l.shaped) (hf : l.state ≠ .finished) (hr : l.state ≠ .released) :
    l.result = none := by
  rw [← Option.not_isSome_iff_eq_none, hl.result]
  exact not_or.mpr ⟨hf, hr⟩

/-- A reaction record changes nothing of a lane's shape. -/
theorem Lane.shaped.withReaction {l : Lane} (hl : l.shaped) (r : Option Reaction) : ({ l with reaction := r }).shaped :=
  hl.of_same rfl rfl rfl rfl rfl rfl rfl

theorem Lane.marked_kept (d : Definition) (now : DeckTime) (l : Lane) :
    ∃ r, l.marked d now = { l with reaction := r } := by
  unfold Lane.marked
  split
  · exact ⟨_, rfl⟩
  · exact ⟨l.reaction, rfl⟩

theorem StartsLane.kept {start : DeckTime} {s : State} {h : Heat} {n : LaneNo} {m : Lane} {j : Desk}
    (c : StartsLane start s h n m j) (hl : (h.lanes.get n).shaped) (hst : (h.lanes.get n).state = .ready) :
    m.shaped ∧ m.state = .swimming ∧ m.result = (h.lanes.get n).result ∧ j.dq = (h.desks.get n).dq ∧
      j.place = (h.desks.get n).place := by
  obtain ⟨l, k, hstarted, hjudged⟩ := c
  obtain ⟨sp, x, leg, rfl⟩ := hstarted.lane
  obtain ⟨a, rfl⟩ := hstarted.desk
  obtain ⟨xs, r, rfl, -⟩ := hjudged.lane
  obtain ⟨b, d, rfl⟩ := hjudged.desk
  refine ⟨⟨by simp [Lane.start], ?_, ?_, by simp [Lane.start], fun _ => rfl, by simp [Lane.start]⟩, rfl, rfl, rfl, rfl⟩
  · exact hl.collection.trans (by simp [hst, Lane.start])
  · exact hl.result.trans (by simp [hst, Lane.start])

namespace KeepsOrder

variable {s : State} {h : Heat}

theorem marksRise (s : State) : KeepsOrder s (Machine.marksRise s) := fun h hh hs => by
  by_cases hp : h.phase = .loaded
  · obtain ⟨g, hg, hrest, hlanes⟩ := marksRise_heat hh hp
    have hphase : g.phase = .marks := by rw [hrest]
    have hlane : ∀ n, ∃ r, g.lanes.get n = { h.lanes.get n with reaction := r } := fun n => by
      obtain ⟨r, hr⟩ := Lane.marked_kept h.definition s.deckTime (h.lanes.get n)
      exact ⟨r, (hlanes n).trans hr⟩
    have hstate : ∀ n, (g.lanes.get n).state = (h.lanes.get n).state := fun n => by
      obtain ⟨r, hr⟩ := hlane n
      rw [hr]
    have hgs : g.sound := by
      refine hs.before_review ?_ (fun n => ?_) (fun n => ?_) (fun n => ?_) (fun n => ?_) ?_ ?_ ?_ fun n => ?_
      · rw [hrest]
      · rw [hrest]
        exact ⟨rfl, rfl⟩
      · obtain ⟨r, hr⟩ := hlane n
        rw [hr]
      · obtain ⟨r, hr⟩ := hlane n
        rw [hr]
        exact (hs.shaped.lanes n).withReaction r
      · rw [hphase, hstate]
        have hadmits := hs.shaped.admits n
        rwa [hp] at hadmits
      · rw [hphase]
        rfl
      · rw [hphase, hrest, hs.shaped.startTime_none (by rw [hp]; rfl)]
        simp [RacePhase.started]
      · rw [hrest]
        exact hs.shaped.stopTime_none (by rw [hp]; rfl)
      · rw [hstate]
        rcases hs.shaped.unstarted (.inl hp) n with e | e <;> simp [e]
    exact ⟨g, hg, hgs, hgs.releasedStand_of_phase (.inr hphase)⟩
  · refine ⟨h, ?_, hs, .refl h⟩
    simp only [Machine.marksRise, hh, if_neg hp]

theorem cancelMarks (cause : RaceCause) (hh : s.heat = some h) (hp : h.phase = .marks) :
    KeepsOrder s (Machine.cancelMarks cause s) := fun x hx hs => by
  obtain rfl : h = x := Option.some.inj (hh.symm.trans hx)
  obtain ⟨g, hg, hrest, hlanes, hdesks⟩ := cancelMarks_heat cause hh
  have hphase : g.phase = .loaded := by rw [hrest]
  have hgs : g.sound := by
    refine hs.before_review ?_ (fun n => ?_) (fun n => ?_) (fun n => ?_) (fun n => ?_) ?_ ?_ ?_ fun n => ?_
    · rw [hrest]
    · rw [hdesks]
      exact ⟨rfl, rfl⟩
    · rw [hlanes]
    · rw [hlanes]
      exact (hs.shaped.lanes n).withReaction none
    · rw [hphase, hlanes]
      have hadmits := hs.shaped.admits n
      rwa [hp] at hadmits
    · rw [hphase]
      rfl
    · rw [hphase, hrest, hs.shaped.startTime_none (by rw [hp]; rfl)]
      simp [RacePhase.started]
    · rw [hrest]
      exact hs.shaped.stopTime_none (by rw [hp]; rfl)
    · rw [hlanes]
      rcases hs.shaped.unstarted (.inr hp) n with e | e <;> simp [e]
  exact ⟨g, hg, hgs, hgs.releasedStand_of_phase (.inl hphase)⟩

theorem marksFall (s : State) : KeepsOrder s (Machine.marksFall s) := by
  unfold Machine.marksFall
  split
  · exact refl s
  · next h hh =>
    split
    · next hp => exact cancelMarks _ hh hp
    · exact refl s

theorem closesRecall_iff (l : Lane) : l.closesRecall = true ↔ l.state = .collect ∨ l.state = .finished ∨ l.state = .released := by
  cases hl : l.state <;> simp [Lane.closesRecall, hl]

theorem recall_shaped {l : Lane} (hl : l.shaped) : l.recall.shaped := by
  unfold Lane.recall
  split
  · exact hl
  · exact ⟨by simp, by simp, by simp, by simp, nofun, by simp⟩

/-- A race RUNNING with no lane past SWIMMING, recalled. -/
theorem honourRecall (hh : s.heat = some h) (hp : h.phase = .running) (hopen : h.lanesWhere Lane.closesRecall = []) :
    KeepsOrder s (Machine.honourRecall s) := fun x hx hs => by
  obtain rfl : h = x := Option.some.inj (hh.symm.trans hx)
  obtain ⟨g, hg, hrest, hdesks⟩ := honourRecall_heat hh
  have hphase : g.phase = .loaded := by rw [hrest]; rfl
  have hlanes : ∀ n, g.lanes.get n = (h.lanes.get n).recall := fun n => by
    rw [hrest]
    exact vector_get_map ..
  have hstate : ∀ n, (g.lanes.get n).state = .vacant ∨ (g.lanes.get n).state = .ready := fun n => by
    rw [hlanes, Lane.recall]
    split
    · next hv => exact .inl hv
    · exact .inr rfl
  have hclosed : ∀ n, (h.lanes.get n).result = none := fun n => by
    have hnot : ¬ ((h.lanes.get n).state = .collect ∨ (h.lanes.get n).state = .finished ∨ (h.lanes.get n).state = .released) := by
      rw [← closesRecall_iff, (lanesWhere_nil h _).mp hopen n]
      exact nofun
    obtain ⟨-, hf, hr⟩ := not_or.mp hnot |>.imp_right not_or.mp
    exact (hs.shaped.lanes n).result_none hf hr
  have hgs : g.sound := by
    refine hs.before_review ?_ (fun n => ?_) (fun n => ?_) (fun n => ?_) (fun n => ?_) ?_ ?_ ?_ fun n => ?_
    · rw [hrest]
      rfl
    · rw [hdesks]
      exact ⟨rfl, rfl⟩
    · rw [hlanes, hclosed, Lane.recall]
      split
      · exact hclosed n
      · rfl
    · rw [hlanes]
      exact recall_shaped (hs.shaped.lanes n)
    · rw [hphase]
      rcases hstate n with e | e <;> rw [e] <;> rfl
    · rw [hphase]
      rfl
    · rw [hphase, hrest]
      simp [Heat.recalled, RacePhase.started]
    · rw [hrest]
      exact hs.shaped.stopTime_none (by rw [hp]; rfl)
    · rcases hstate n with e | e <;> simp [e]
  exact ⟨g, hg, hgs, hgs.releasedStand_of_phase (.inl hphase)⟩

theorem takeRecall (c : DeckTime) (s : State) : KeepsOrder s (Machine.takeRecall c s) := by
  have hraise : ∀ q, KeepsOrder s (raise q s) := fun q => of_heat (raise_heat q s)
  unfold Machine.takeRecall
  split
  · exact hraise _
  · next h hh =>
    split
    · next hp => exact cancelMarks _ hh hp
    · next hp =>
      split
      · next htest =>
        refine honourRecall hh hp ?_
        unfold Heat.recallTest at htest
        split at htest
        · cases htest
        · split at htest
          · cases htest
          · next hno => exact not_not.mp hno
      · exact hraise _
    iterate 3 exact hraise _

/-! ## The start -/

theorem startRace (start : DeckTime) (cause : RaceCause) (link : Option Link) (hh : s.heat = some h)
    (hp : h.phase = .loaded ∨ h.phase = .marks) : KeepsOrder s (Machine.startRace start cause link s) := fun x hx hs => by
  obtain rfl : h = x := Option.some.inj (hh.symm.trans hx)
  obtain ⟨g, hg, hrest, hlanes⟩ := startRace_starts start cause link hh
  have hphase : g.phase = .running := by rw [hrest]; rfl
  have hbefore : h.phase.past = false := by rcases hp with e | e <;> rw [e] <;> rfl
  have hlane : ∀ n, (g.lanes.get n).shaped ∧ ((g.lanes.get n).state = .vacant ∨ (g.lanes.get n).state = .swimming) ∧
      (g.lanes.get n).result = (h.lanes.get n).result ∧ (g.desks.get n).dq = (h.desks.get n).dq ∧
      (g.desks.get n).place = (h.desks.get n).place := fun n => by
    by_cases hst : (h.lanes.get n).state = .ready
    · obtain ⟨hm, hms, hrest⟩ := ((hlanes n).1 hst).kept (hs.shaped.lanes n) hst
      exact ⟨hm, .inr hms, hrest⟩
    · obtain ⟨hl, hd⟩ := (hlanes n).2 hst
      rw [hl, hd]
      exact ⟨hs.shaped.lanes n, .inl ((hs.shaped.unstarted hp n).resolve_right hst), rfl, rfl, rfl⟩
  have hreleased : ∀ n, (g.lanes.get n).state ≠ .released := fun n => by
    rcases (hlane n).2.1 with e | e <;> simp [e]
  refine ⟨g, hg, hs.before_review (by rw [hrest]; rfl) (fun n => (hlane n).2.2.2) (fun n => (hlane n).2.2.1)
    (fun n => (hlane n).1) (fun n => ?_) (by rw [hphase]; rfl) ?_ ?_ hreleased, fun n hn => absurd hn (hreleased n)⟩
  · rw [hphase]
    rcases (hlane n).2.1 with e | e <;> rw [e] <;> rfl
  · rw [hphase, hrest]
    simp [Heat.begun, RacePhase.started]
  · rw [hrest]
    exact hs.shaped.stopTime_none hbefore

theorem startEvent (c : DeckTime) (s : State) : KeepsOrder s (Machine.startEvent c s) := by
  unfold Machine.startEvent
  split
  · exact refl s
  · next h hh =>
    split
    · next hp => exact startRace _ _ _ hh hp
    · exact refl s

/-! ## Deck events -/

theorem deliver (l : Line) (old new : Level) (since : DeckTime) (s : State) :
    KeepsOrder s (Machine.deliver l old new since s) := by
  unfold Machine.deliver
  split
  · exact takeTouch _ s _ _
  · exact takeRelease _ s _ _
  · exact takePress _ s _ _
  · exact startEvent _ s
  · exact marksRise s
  · exact marksFall s
  · exact takeRecall _ s
  · exact refl s

theorem deliverCounted (before s : State) (l : Line) : KeepsOrder s (Machine.deliverCounted before s l) := by
  unfold Machine.deliverCounted deliverGated
  split
  · exact refl s
  · split
    · exact deliver _ _ _ _ s
    · exact refl s

theorem handEvents (before : State) (ls : List Line) (s : State) : KeepsOrder s (Machine.handEvents before ls s) :=
  foldl (deliverCounted before) _ s

theorem handTogether (before : State) (ls : List Line) (s : State) : KeepsOrder s (Machine.handTogether before ls s) :=
  have hmasked : KeepsOrder s (s.withMasks (s.masks.map fun m => m.filter fun j => j != .holdChange)) := of_heat rfl
  have hhanded : KeepsOrder s (holdingBack .holdChange (Machine.handEvents before ls) s) :=
    (hmasked.trans (handEvents before ls _)).trans (of_heat rfl)
  foldl_from (fun _ n hv => reportLane n hv) allLanes hhanded

theorem completeLines (ls : List Line) (s : State) : KeepsOrder s (Machine.completeLines ls s) := by
  unfold Machine.completeLines
  dsimp only
  have htold : KeepsOrder s (if 1 < (ls.filter fun l => (s.decoder l).candidateDue s.params l s.deckTime).countP Line.isLane
      then Machine.handTogether s (ls.filter fun l => (s.decoder l).candidateDue s.params l s.deckTime)
        ((ls.filter fun l => (s.decoder l).candidateDue s.params l s.deckTime).foldl countLine s)
      else Machine.handEvents s (ls.filter fun l => (s.decoder l).candidateDue s.params l s.deckTime)
        ((ls.filter fun l => (s.decoder l).candidateDue s.params l s.deckTime).foldl countLine s)) := by
    split
    · exact (of_heat (countLines_heat _ s)).trans (handTogether s _ _)
    · exact (of_heat (countLines_heat _ s)).trans (handEvents s _ _)
  split
  · exact handServices s _ htold
  · exact htold.trans (handServices s _ (refl _))

end KeepsOrder

end Sys2Proof.Machine
end

section
/-! Every step keeps the race in order (R19 to R21, R42, R45, R100, R119, R129). -/

namespace Sys2Proof.Machine

open Sys2Proof

/-- The current race, where there is one, is in order. -/
def InOrder (s : State) : Prop := ∀ h, s.heat = some h → h.sound

theorem inOrder_iff (s : State) : InOrder s ↔ RaceShaped s ∧ Placed s := sound_iff s

namespace InOrder

variable {s t : State} {h g : Heat}

theorem of_some (hg : t.heat = some g) (hs : g.sound) : InOrder t := fun k hk => by
  obtain rfl : g = k := Option.some.inj (hg.symm.trans hk)
  exact hs

theorem of_none (ht : t.heat = none) : InOrder t := fun k hk => by
  rw [ht] at hk
  cases hk

theorem congr (hs : InOrder s) (ht : t.heat = s.heat) : InOrder t := fun k hk => hs k (ht ▸ hk)

theorem of_keeps (hs : InOrder s) (k : KeepsOrder s t) (hid : t.currentId = s.currentId) : InOrder t := by
  cases hh : s.heat with
  | none =>
    refine of_none ((heat_eq_none_iff_currentId t).mpr ?_)
    rw [hid]
    exact (heat_eq_none_iff_currentId s).mp hh
  | some h =>
    obtain ⟨g, hg, hgs, -⟩ := k h hh (hs h hh)
    exact of_some hg hgs

theorem of_steps {n : LaneNo} {st : LaneState} (hs : h.sound) (hh : s.heat = some h) (hst : (h.lanes.get n).state = st)
    (hne : st ≠ .released) (a : StepsLane st n s t) : InOrder t := by
  obtain ⟨g, hg, hstep⟩ := a h hh hst
  exact of_some hg (hstep.sound hs (hst ▸ hne))

/-- A lane finished behind steps on it, out of SWIMMING or COLLECT (R56). -/
theorem finishLane_after {n : LaneNo} {st : LaneState} (hs : h.sound) (hh : s.heat = some h)
    (hst : (h.lanes.get n).state = st) (hopen : st = .swimming ∨ st = .collect) (a : StepsLane st n s t) (core : ResultCore)
    (l : Option Link) (rs : List Reason) : InOrder (finishLane n core l rs t) := by
  obtain ⟨g, hg, hstep⟩ := a h hh hst
  have hne : st ≠ .released := by rcases hopen with e | e <;> simp [e]
  refine of_some (by rw [finishLane_heat, hg, Option.map_some]) ?_
  exact (hstep.sound hs (hst ▸ hne)).finishedLane n core rs _ _ (by rw [hstep.state, hst]; exact hopen)

/-- The release check (R127). -/
theorem releaseCheck {n : LaneNo} (hs : InOrder s) : InOrder (Machine.releaseCheck n s) := by
  cases hh : s.heat with
  | none => exact of_none (by rw [releaseCheck_heat, hh, Option.map_none])
  | some h => exact of_some (by rw [releaseCheck_heat, hh, Option.map_some]) ((hs h hh).checked n _ _)

end InOrder

/-! ## Timers of the race -/

/-- Timers and flag of the race are none of its relation. -/
theorem Heat.sound.withTimers {h : Heat} (hs : h.sound) (flag timer : Bool) (a : Option Timer) :
    ({ h with overtimeFlag := flag, overtimeTimer := timer, advance := a }).sound :=
  ⟨⟨hs.shaped.lanes, hs.shaped.admits, hs.shaped.final, hs.shaped.start, hs.shaped.stop, hs.shaped.released⟩,
    ⟨hs.ranked.members, hs.ranked.nodup, hs.ranked.ordered, hs.ranked.places⟩⟩

theorem inOrder_withTimers {s : State} (hs : InOrder s) (f : Heat → Heat)
    (hf : ∀ h, ∃ flag timer a, f h = { h with overtimeFlag := flag, overtimeTimer := timer, advance := a }) :
    InOrder (s.modHeat f) := by
  cases hh : s.heat with
  | none => exact .of_none (by rw [State.modHeat_heat, hh, Option.map_none])
  | some h =>
    obtain ⟨flag, timer, a, hfh⟩ := hf h
    exact .of_some (by rw [State.modHeat_heat, hh, Option.map_some]) (hfh ▸ (hs h hh).withTimers flag timer a)

/-! ## Loading (R22, R43) -/

theorem builtLane_shaped (d : Definition) (n : LaneNo) : (builtLane d n).shaped := by
  cases hu : (d.lanes.get n).use <;> exact ⟨by simp [builtLane, hu], by simp [builtLane, hu], by simp [builtLane, hu],
    by simp [builtLane, hu], nofun, Nat.zero_le 8⟩

theorem Loaded.inOrder {link : Option Link} {e : QueueEntry} {rest : List QueueEntry} {s t : State}
    (hl : Loaded link e rest s t) : InOrder t := by
  obtain ⟨h, hh, -, hphase, hstart, hstop, -, -, -, -, hplacing, hplaces⟩ := hl.race
  have hlane : ∀ n, h.lanes.get n = builtLane e.definition n := fun n => (hplaces n).1
  have hunplaced : ∀ n, h.placed n = none := fun n => by
    unfold Heat.placed
    rw [(hplaces n).2, hlane]
    rfl
  have hstate : ∀ n, (h.lanes.get n).state = .ready ∨ (h.lanes.get n).state = .vacant := fun n => by
    rw [hlane, builtLane]
    dsimp only
    split
    · exact .inl rfl
    · exact .inr rfl
  refine .of_some hh ⟨⟨fun n => ?_, fun n => ?_, ?_, ?_, ?_, fun n hn => ?_⟩, ⟨fun n => ?_, ?_, ?_, fun n => ?_⟩⟩
  · rw [hlane]
    exact builtLane_shaped _ n
  · rw [hphase]
    rcases hstate n with e | e <;> rw [e] <;> rfl
  · simp [hphase, RacePhase.past]
  · simp [hphase, hstart, RacePhase.started]
  · simp [hphase, hstop, RacePhase.past]
  · rw [(hplaces n).2]
    rfl
  · simp [hplacing, hunplaced]
  · rw [hplacing]
    exact List.nodup_nil
  · rw [hplacing]
    exact List.Pairwise.nil
  · rw [(hplaces n).2, hunplaced]
    rfl

theorem load_inOrder (link : Option Link) {s : State} (hs : InOrder s) : InOrder (load link s) := by
  cases hq : s.queue with
  | nil =>
    rw [load, hq]
    exact hs
  | cons e rest => exact (load_loaded link hq).inOrder

/-! ## Lane requests -/

/-- The tables of R47 and R123 by the states they take. -/
theorem taken_swimming {st : LaneState} (h : laneGate .wrong .wrong .taken .busy .wrong .wrong st = .taken) :
    st = .swimming := by
  cases st <;> simp_all [laneGate]

theorem taken_ready {st : LaneState} (h : laneGate .wrong .taken .wrong .busy .wrong .wrong st = .taken) : st = .ready := by
  cases st <;> simp_all [laneGate]

theorem taken_finished {st : LaneState} {g : LaneGate} (hg : g ≠ .taken)
    (h : laneGate .wrong .wrong .wrong .busy .taken g st = .taken) : st = .finished := by
  cases st <;> simp_all [laneGate]

theorem taken_holdRow {st : LaneState} (h : holdRow st = .taken) : st ≠ .released := by
  cases st <;> simp_all [holdRow, laneGate]

theorem taken_markRow {st : LaneState} (h : markRow st = .taken) : st = .swimming ∨ st = .finished := by
  cases st <;> simp_all [markRow, laneGate]

section
variable {b : Byte} {n : LaneNo} (hb : b.toNat = n.val) {s : State} (hs : InOrder s)
include hb hs

theorem laneRequest_inOrder (row : LaneState → LaneGate) (own : LaneNo → Heat → Lane → State → Reply)
    (hown : ∀ h, s.heat = some h → h.sound → row (h.lanes.get n).state = .taken →
      InOrder (own n h (h.lanes.get n) s).state) : InOrder (laneRequest b row own s).state := by
  cases hh : s.heat with
  | none => rwa [laneRequest_empty (laneOfByte_of_toNat hb) hh]
  | some h =>
    cases hrow : (row (h.lanes.get n).state).refusal with
    | none =>
      have htaken := (refusal_eq_none_iff _).mp hrow
      rw [laneRequest_taken (laneOfByte_of_toNat hb) hh htaken]
      exact hown h hh (hs h hh) htaken
    | some r => rwa [laneRequest_refused (laneOfByte_of_toNat hb) hh hrow]

omit hb hs in
/-- A READY lane scratched (R48). -/
theorem Heat.sound.scratched {h : Heat} (hs : h.sound) (hst : (h.lanes.get n).state = .ready) : (h.scratched n).sound := by
  have hlane : (h.scratched n).lanes.get n = (h.lanes.get n).scratch := modLane_get_self h n Lane.scratch
  have hdesk : (h.scratched n).desks.get n = (h.desks.get n).scratch := by
    rw [Heat.scratched, modDesk_get_self, modLane_desks]
  have hold := hs.shaped.lanes n
  have hphase := RacePhase.of_admits_ready (hst ▸ hs.shaped.admits n)
  have c : LaneChanged n h (h.scratched n) := by
    refine ⟨rfl, othersAsBefore_trans (modLane_othersAsBefore n h _) (modDesk_othersAsBefore n _ _), ?_, ?_, ?_, ?_⟩ <;>
      rw [hlane]
    · refine ⟨hold.expectation.trans (by simp [hst, Lane.scratch]), hold.collection.trans (by simp [hst, Lane.scratch]),
        hold.result.trans (by simp [hst, Lane.scratch]), by simp [Lane.scratch], fun hp => ?_, hold.rejected⟩
      exact absurd (hst.symm.trans (hold.pending hp)) nofun
    · rcases hphase with e | e <;> rw [e] <;> rfl
    · rcases hphase with e | e <;> rw [e] <;> exact nofun
    · exact nofun
  refine c.sound (by rw [hdesk]; rfl) ?_ hs
  rw [hs.shaped.placed_none (by simp [hst]) (by simp [hst]),
    (c.raceShaped hs.shaped).placed_none (by rw [hlane]; exact nofun) (by rw [hlane]; exact nofun)]

theorem performScratchLane_inOrder (l : Link) : InOrder (performScratchLane l b s).state := by
  refine laneRequest_inOrder hb hs _ _ fun h hh hsound hrow => ?_
  have hst := taken_ready hrow
  split
  · exact hs
  · exact .of_some ((scratch_heat l n s).trans (by rw [hh, Option.map_some])) (hsound.scratched hst)

omit hb hs in
/-- Tags written, and a VACANT lane made READY, before the start (R50). -/
theorem Heat.sound.assigned {h : Heat} (hs : h.sound) (items : List TagItem) (now : DeckTime)
    (hst : (h.lanes.get n).state ≠ .released)
    (hv : (h.lanes.get n).state = .vacant → h.phase = .loaded ∨ h.phase = .marks) :
    (h.modLane n (Lane.assigned items h now)).sound := by
  have hold := hs.shaped.lanes n
  by_cases hvac : (h.lanes.get n).state = .vacant
  · have hphase := hv hvac
    have c : LaneChanged n h (h.modLane n (Lane.assigned items h now)) := by
      refine ⟨rfl, modLane_othersAsBefore n h _, ?_, ?_, ?_, ?_⟩ <;>
        rw [modLane_get_self, Lane.assigned, if_pos hvac]
      · refine ⟨hold.expectation.trans (by simp [hvac]), hold.collection.trans (by simp [hvac]),
          hold.result.trans (by simp [hvac]), by simp, fun hp => ?_, hold.rejected⟩
        exact absurd (hvac.symm.trans (hold.pending hp)) nofun
      · rcases hphase with e | e <;> rw [e] <;> rfl
      · rcases hphase with e | e <;> rw [e] <;> exact nofun
      · exact nofun
    refine c.sound rfl (placed_congr rfl ?_) hs
    rw [modLane_get_self, Lane.assigned, if_pos hvac]
  · refine (LaneStep.modLane n h ?_ ?_ fun hl => ?_).sound hs hst <;> rw [Lane.assigned, if_neg hvac]
    exact hl.of_same rfl rfl rfl rfl rfl rfl rfl

theorem performAssignEntrant_inOrder (items : List TagItem) : InOrder (performAssignEntrant b items s).state := by
  refine laneRequest_inOrder hb hs _ _ fun h hh hsound hrow => ?_
  have hst : (h.lanes.get n).state ≠ .released := fun e => by rw [e] at hrow; cases hrow
  unfold assign
  split
  · exact hs
  split
  · exact hs
  split
  · exact hs
  unfold assignByState
  split
  · next hv =>
    split
    · exact hs
    split
    · next hp => exact .of_some (enterLane_heat items n hh hv) (hsound.assigned items _ hst fun _ => hp)
    · exact hs
  · next hv =>
    split
    · exact hs
    · exact .of_some (retag_heat items n hh hv) (hsound.assigned items _ hst fun e => absurd e hv)

theorem performSetLaneTiming_inOrder (timing : TimingBody) : InOrder (performSetLaneTiming b timing s).state := by
  unfold performSetLaneTiming
  split
  · exact hs
  refine laneRequest_inOrder hb hs _ _ fun h hh hsound hrow => ?_
  unfold setTiming
  split
  · exact hs
  · have hst : (h.lanes.get n).state ≠ .released := fun e => by rw [e] at hrow; cases hrow
    refine .of_steps hsound hh rfl hst (StepsLane.modLane _ n s (fun l => ?_) (fun l => ?_) fun l _ hl => ?_) <;>
      unfold Lane.setTiming <;> split
    iterate 4 rfl
    · next hswim => exact hl.congr rfl rfl rfl rfl rfl (fun _ => hswim) hl.rejected
    · exact hl.of_same rfl rfl rfl rfl rfl rfl rfl

theorem performPromote_inOrder (l : Link) (number : Word16) : InOrder (performPromote l b number s).state := by
  have hanswer : ∀ k u, (promoteAnswer n k u).state = u := fun k u => by
    unfold promoteAnswer
    split <;> rfl
  unfold performPromote
  split
  · exact hs
  refine laneRequest_inOrder hb hs _ _ fun h hh hsound hrow => ?_
  have hst := taken_swimming hrow
  unfold promote
  split
  · next x r _ _ =>
    split
    · exact hs
    · rw [hanswer]
      have hcut : StepsLane .swimming n s
          (s.modLane n fun l => { l with rejected := l.rejected.filter fun q => q.number != r.number }) :=
        StepsLane.modLane _ n s (fun _ => rfl) (fun _ => rfl) fun l _ hl =>
          hl.congr rfl rfl rfl rfl rfl hl.pending (Nat.le_trans (List.length_filter_le ..) hl.rejected)
      unfold promoteEntry
      dsimp only
      split
      · exact .of_steps hsound hh hst nofun
          (hcut.trans ((StepsLane.acceptLength n _ _ _ _ _).trans (judgeFrom_judged _ n _).stepsLane))
      · exact hs.of_keeps (KeepsOrder.openCollect_after hh hst hcut _ _ _)
          (((RaceOnly.modLane s n _).trans (RaceOnly.openCollect n _ _ _ _)).currentId)
  · exact hs

theorem performDeclareNoFinish_inOrder (l : Link) : InOrder (performDeclareNoFinish l b s).state :=
  laneRequest_inOrder hb hs _ _ fun _ hh hsound hrow =>
    .finishLane_after hsound hh (taken_swimming hrow) (.inl rfl) (abandonExchanges_exchanged s n).judged.stepsLane _ _ _

theorem performEnterFinish_inOrder (l : Link) (time : Word32) : InOrder (performEnterFinish l b time s).state := by
  refine laneRequest_inOrder hb hs _ _ fun h hh hsound hrow => ?_
  unfold enterFinish
  split
  · exact hs
  split
  · exact hs
  · exact .finishLane_after hsound hh (taken_swimming hrow) (.inl rfl) (StepsLane.addFinalSplit _ n s _ _) _ _ _

omit hb hs in
/-- The official time of a FINISHED lane replaced (R98). -/
theorem Heat.sound.adjusted {h : Heat} (hs : h.sound) (t old : Nat) (backup : Option Nat)
    (hst : (h.lanes.get n).state = .finished) : (h.adjusted n t old backup).sound := by
  refine Heat.shaped.replaced_sound (LaneChanged.raceShaped (n := n) (h := h) ?_ hs.shaped)
  have hlane : ((h.modLane n (Lane.adjust h.definition t old backup)).modDesk n (Desk.dropReasons finishReasons)).lanes.get n =
      (h.lanes.get n).adjust h.definition t old backup := modLane_get_self ..
  have hold := hs.shaped.lanes n
  refine ⟨rfl, othersAsBefore_trans (modLane_othersAsBefore n h _) (modDesk_othersAsBefore n _ _), ?_, ?_, fun _ => ?_, ?_⟩ <;>
    rw [hlane]
  · exact hold.congr rfl rfl rfl (by simp [Lane.adjust, hold.result.mpr (.inl hst)]) rfl hold.pending hold.rejected
  · exact hs.shaped.admits n
  · rfl
  · exact fun e => absurd (hst.symm.trans e) nofun

theorem performAdjustFinish_inOrder (l : Link) (time : Word32) : InOrder (performAdjustFinish l b time s).state := by
  refine laneRequest_inOrder hb hs _ _ fun h hh hsound hrow => ?_
  unfold adjustFinish
  split
  · split
    · exact hs
    · exact .of_some (replaceFinish_heat l _ _ _ n hh)
        ((hsound.adjusted _ _ _ (taken_finished (by decide) hrow)).checked n _ _)
  · exact hs
  · exact hs

/-! ## Result requests -/

omit hb hs in
/-- A hold set changed, no lane released by it. -/
theorem changeDesk_inOrder {h : Heat} (hh : s.heat = some h) (hsound : h.sound) (hrow : holdRow (h.lanes.get n).state = .taken)
    (c : HoldCause) (l : Option Link) {f : Desk → Desk} (hdq : ∀ k, (f k).dq = k.dq) (hplace : ∀ k, (f k).place = k.place) :
    InOrder (changeDesk n c l f s) :=
  .of_steps hsound hh rfl (taken_holdRow hrow) (StepsLane.changeDesk _ n s c l hdq hplace)

theorem performHoldLane_inOrder (l : Link) : InOrder (performHoldLane l b s).state := by
  refine laneRequest_inOrder hb hs _ _ fun h hh hsound hrow => ?_
  split
  · exact hs
  · exact changeDesk_inOrder hh hsound hrow _ _ (fun _ => rfl) fun _ => rfl

theorem performUnholdLane_inOrder (l : Link) : InOrder (performUnholdLane l b s).state := by
  refine laneRequest_inOrder hb hs _ _ fun h hh hsound hrow => ?_
  split
  · exact (changeDesk_inOrder hh hsound hrow _ _ (f := Desk.setHolder l false) (fun _ => rfl) fun _ => rfl).releaseCheck
  · exact hs

theorem performClearSystemHold_inOrder (l : Link) (reasons : Byte) : InOrder (performClearSystemHold l b reasons s).state := by
  unfold performClearSystemHold
  split
  · exact hs
  refine laneRequest_inOrder hb hs _ _ fun h hh hsound hrow => ?_
  split
  · exact hs
  · exact (changeDesk_inOrder hh hsound hrow _ _ (f := Desk.dropReasons _) (fun _ => rfl) fun _ => rfl).releaseCheck

theorem performReleaseLane_inOrder (l : Link) : InOrder (performReleaseLane l b s).state := by
  refine laneRequest_inOrder hb hs _ _ fun h hh hsound hrow => ?_
  split
  · next hfree =>
    exact .of_some ((releaseLane_heat n _ s).trans (by rw [hh, Option.map_some]))
      (hsound.releasedLane n _ _ (taken_finished (by decide) hrow) hfree.2)
  · exact hs

omit hb hs in
/-- A DQ mark written or taken away, the places following it (R130, R131). -/
theorem markDesk_inOrder {h : Heat} (hh : s.heat = some h) (hsound : h.sound) (hrow : markRow (h.lanes.get n).state = .taken)
    (c : HoldCause) (l : Option Link) (f : Desk → Desk) (hplace : ∀ k, (f k).place = k.place) :
    InOrder (replaceIfTimed (h.lanes.get n) (queueLane n (changeDesk n c l f s))) := by
  have hst : (h.lanes.get n).state ≠ .released := by rcases taken_markRow hrow with e | e <;> simp [e]
  have hmarked : (queueLane n (changeDesk n c l f s)).heat = some (h.modDesk n f) := by
    rw [queueLane_heat, changeDesk_heat, hh, Option.map_some]
  have hchanged : LaneChanged n h (h.modDesk n f) :=
    ⟨rfl, modDesk_othersAsBefore n h f, hsound.shaped.lanes n, hsound.shaped.admits n, fun _ => rfl, hst⟩
  unfold replaceIfTimed
  split
  · exact .of_some (by rw [recomputePlaces_heat, hmarked, Option.map_some]) (hchanged.raceShaped hsound.shaped).replaced_sound
  · next huntimed =>
    have hnone : ∀ k : Heat, k.lanes = h.lanes → k.placed n = none := fun k hk => by
      unfold Heat.placed
      rw [hk]
      cases (k.desks.get n).dq with
      | some _ => rfl
      | none => cases hres : (h.lanes.get n).result with
        | none => rfl
        | some core => cases core with
          | noFinish => rfl
          | time _ _ _ _ => exact absurd (by rw [hres]; rfl) huntimed
    exact .of_some hmarked (hchanged.sound (by rw [modDesk_get_self, hplace])
      ((hnone (h.modDesk n f) rfl).trans (hnone h rfl).symm) hsound)

theorem performDisqualify_inOrder (l : Link) (code : Byte) : InOrder (performDisqualify l b code s).state := by
  refine laneRequest_inOrder hb hs _ _ fun h hh hsound hrow => ?_
  split
  · exact hs
  · exact markDesk_inOrder hh hsound hrow _ _ _ fun _ => rfl

theorem performReinstate_inOrder (l : Link) : InOrder (performReinstate l b s).state := by
  refine laneRequest_inOrder hb hs _ _ fun h hh hsound hrow => ?_
  split
  · exact hs
  · exact markDesk_inOrder hh hsound hrow _ _ _ fun _ => rfl

/-- The lane requests, one by one. -/
theorem lanePerform_inOrder {c : Instr} (hc : laneOf c = some b) : InOrder (lanePerform c s).state := by
  cases c <;> cases hc
  case scratchLane l _ => exact performScratchLane_inOrder hb hs l
  case assignEntrant items => exact performAssignEntrant_inOrder hb hs items
  case setLaneTiming timing => exact performSetLaneTiming_inOrder hb hs timing
  case promoteTouch l _ number => exact performPromote_inOrder hb hs l number
  case declareNoFinish l _ => exact performDeclareNoFinish_inOrder hb hs l
  case enterFinish l _ time => exact performEnterFinish_inOrder hb hs l time
  case adjustFinish l _ time => exact performAdjustFinish_inOrder hb hs l time
  case readLane => exact laneRequest_inOrder hb hs _ _ fun _ _ _ _ => hs
  case readSplits first =>
    change InOrder (performReadSplits b first s).state
    unfold performReadSplits
    split
    · exact hs
    · exact laneRequest_inOrder hb hs _ _ fun _ _ _ _ => hs
  case holdLane l _ => exact performHoldLane_inOrder hb hs l
  case unholdLane l _ => exact performUnholdLane_inOrder hb hs l
  case clearSystemHold l _ reasons => exact performClearSystemHold_inOrder hb hs l reasons
  case releaseLane l _ => exact performReleaseLane_inOrder hb hs l
  case disqualify l _ code => exact performDisqualify_inOrder hb hs l code
  case reinstate l _ => exact performReinstate_inOrder hb hs l

end

/-! ## Finishes by time (R33, R86) -/

theorem resolveFinish_inOrder (n : LaneNo) {s : State} (hdue : collectDue n s = true) (hs : InOrder s) :
    InOrder (resolveFinish n s) := by
  obtain ⟨h, c, hh, hst, hc, -⟩ := collectDue_eq_true_iff.mp hdue
  cases hr : c.resolve h.definition.backupTolerance (s.inService (padInput n h.definition.finishEnd)) with
  | none =>
    have hsame : resolveFinish n s = s := by simp only [resolveFinish, hh, hc, hr]
    rwa [hsame]
  | some r =>
    obtain ⟨t, source, rs⟩ := r
    have hsteps : StepsLane .collect n s (resolving n t source s) :=
      (StepsLane.addFinalSplit _ n s t source).trans (.of_heat (State.modBoard_heat ..))
    rw [resolveFinish_eq hh hc hr]
    exact .finishLane_after (hs h hh) hh hst (.inr rfl) hsteps _ _ _

theorem overtimeLane_inOrder (s : State) (n : LaneNo) (hs : InOrder s) : InOrder (overtimeLane s n) := by
  unfold overtimeLane
  split
  · exact hs
  · next h hh =>
    split
    · next hst =>
      exact .finishLane_after (hs h hh) hh hst (.inl rfl) (abandonExchanges_exchanged s n).judged.stepsLane _ _ _
    · exact hs

theorem overtime_inOrder {s : State} (hs : InOrder s) : InOrder (overtime s) := by
  have hlanes : ∀ (ns : List LaneNo) t, InOrder t → InOrder (ns.foldl overtimeLane t) := by
    intro ns
    induction ns with
    | nil => exact fun _ ht => ht
    | cons n ns ih => exact fun t ht => ih _ (overtimeLane_inOrder t n ht)
  refine hlanes _ _ ((inOrder_withTimers hs (fun h => { h with overtimeFlag := true, overtimeTimer := false }) fun h =>
    ⟨true, false, h.advance, rfl⟩).congr ?_)
  rw [raceNotice_heat, heatEvent_heat]

/-! ## Records and lines -/

theorem moveFaults_inOrder (is : List (Fin 71)) (f : Fin 71 → FaultRecord → FaultRecord)
    (cls : Fin 71 → FaultRecord → FaultClass) (k : FaultCause) (l : Option Link) {s : State} (hs : InOrder s) :
    InOrder (moveFaults is f cls k l s) := by
  refine hs.of_keeps (KeepsOrder.moveFaults is f cls k l s) ?_
  rw [moveFaults, (RaceOnly.handServices _ _ _ _).currentId, State.currentId, State.currentId, writeFaults_heat]

theorem completeLines_inOrder (ls : List Line) {s : State} (hs : InOrder s) : InOrder (completeLines ls s) := by
  refine hs.of_keeps (KeepsOrder.completeLines ls s) ?_
  have hcounted : ∀ ms : List Line, (ms.foldl countLine s).currentId = s.currentId := fun ms => by
    rw [State.currentId, State.currentId, countLines_heat]
  rw [completeLines, (RaceOnly.handServices _ _ _ _).currentId]
  split
  · exact (RaceOnly.handTogether s _ _).currentId.trans (hcounted _)
  · exact (RaceOnly.handEvents s _ _).currentId.trans (hcounted _)

theorem expireLines_inOrder (ls : List Line) {s : State} (hs : InOrder s) : InOrder (expireLines ls s) := by
  refine hs.of_keeps (KeepsOrder.expireLines ls s) ?_
  rw [expireLines, (RaceOnly.handServices _ _ _ _).currentId, State.currentId, State.currentId, reportStucks_heat]

theorem senseLevel_heat (l : Line) (v : Level) (s : State) : (senseLevel l v s).heat = s.heat := by
  unfold senseLevel
  split <;> rfl

/-! ## The invariant -/

theorem inOrder_kept : KeptByOperations InOrder where
  congr hs _ hheat _ := hs.congr hheat
  lane hb hn hs := lanePerform_inOrder hn hs hb
  load link _ hs := load_inOrder link hs
  empties _ _ _ _ := .of_none rfl
  advance a _ hs := inOrder_withTimers hs _ fun h => ⟨h.overtimeFlag, h.overtimeTimer, a, rfl⟩
  starts d cause link s _ hh hp hs :=
    hs.of_keeps (KeepsOrder.startRace d cause link hh hp) (RaceOnly.startRace d cause link s).currentId
  resolves n _ hdue hs := resolveFinish_inOrder n hdue hs
  overtime _ hs := overtime_inOrder hs
  faults is f c k link _ hs := moveFaults_inOrder is f c k link hs
  completes ls _ _ hs := completeLines_inOrder ls hs
  expires ls _ _ hs := expireLines_inOrder ls hs
  senses l v s _ hs := hs.congr (senseLevel_heat l v s)
  begins _ _ hs := hs.congr rfl
  resets h _ _ := .of_none h.heat

/-- Settles O60: every operation on the race leaves it in order, from a race in order. -/
theorem stepsKeepTheRace : Obligations.StepsKeepTheRace := fun s t hs ht =>
  (inOrder_iff t).mp (inOrder_kept.step_next ((inOrder_iff s).mpr hs) ht)

end Sys2Proof.Machine
end

section
/-! What the deck, board and timer commands leave alone: every one writes records, decoders, race and board, and offers notices. -/

namespace Sys2Proof.Machine

open Sys2Proof

/-! ## Masks (R183) -/

/-- No link's mask has changed. -/
def MasksStay (s t : State) : Prop := ∀ l, (t.links.get l).mask = (s.links.get l).mask

namespace MasksStay

variable {s t u : State}

theorem refl (s : State) : MasksStay s s := fun _ => rfl

theorem trans (a : MasksStay s t) (b : MasksStay t u) : MasksStay s u := fun l => (b l).trans (a l)

theorem foldl {α : Type} {f : State → α → State} (hf : ∀ s a, MasksStay s (f s a)) (as : List α) (s : State) :
    MasksStay s (as.foldl f s) := by
  induction as generalizing s with
  | nil => exact refl s
  | cons a as ih => exact (hf s a).trans (ih _)

theorem of_raceOnly (h : RaceOnly s t) : MasksStay s t := fun l => (h.links l).mask

theorem writeFault (i : Fin 71) (c : FaultClass) (k : FaultCause) (l : Option Link) (q : FaultRecord) (s : State) :
    MasksStay s (Machine.writeFault i c k l q s) := by
  unfold Machine.writeFault
  dsimp only
  split
  · have hraise := of_raceOnly (RaceOnly.raise (q.notice i c k l s.deckTime) { s with faults := s.faults.set i.val q i.isLt })
    exact fun m => hraise m
  · exact refl s

theorem reportLine (i : Fin 71) (old new : Condition) (s : State) : MasksStay s (Machine.reportLine i old new s) := by
  unfold Machine.reportLine
  split
  · exact refl s
  · split
    · exact writeFault i _ _ none _ s
    · split <;> exact writeFault i _ _ none _ s

theorem superviseChange (i : Fin 71) (old new : Decoder) (s : State) : MasksStay s (Machine.superviseChange i old new s) := by
  unfold Machine.superviseChange
  refine trans ?_ (reportLine i _ _ _)
  split
  · exact writeFault i _ _ none _ s
  · exact refl s

theorem countLine (s : State) (l : Line) : MasksStay s (Machine.countLine s l) := by
  unfold Machine.countLine
  dsimp only
  split
  · exact refl s
  · split
    · exact refl s
    · exact superviseChange _ _ _ (s.modDecoder l _)

theorem reportStuck (s : State) (l : Line) : MasksStay s (Machine.reportStuck s l) := by
  unfold Machine.reportStuck
  split
  · exact refl s
  · exact writeFault _ _ _ none _ (s.modDecoder l _)

theorem completeLines (ls : List Line) (s : State) : MasksStay s (Machine.completeLines ls s) := by
  unfold Machine.completeLines
  refine trans ?_ (of_raceOnly (RaceOnly.handServices s _ _ _))
  have hcounted := foldl countLine (ls.filter fun l => (s.decoder l).candidateDue s.params l s.deckTime) s
  split
  · exact hcounted.trans (of_raceOnly (RaceOnly.handTogether s _ _))
  · exact hcounted.trans (of_raceOnly (RaceOnly.handEvents s _ _))

theorem expireLines (ls : List Line) (s : State) : MasksStay s (Machine.expireLines ls s) :=
  (foldl reportStuck _ s).trans (of_raceOnly (RaceOnly.handServices s s _ _))

theorem moveFaults (is : List (Fin 71)) (f : Fin 71 → FaultRecord → FaultRecord) (c : Fin 71 → FaultRecord → FaultClass)
    (k : FaultCause) (l : Option Link) (s : State) : MasksStay s (Machine.moveFaults is f c k l s) :=
  (foldl (fun t i => writeFault i _ k l _ t) is s).trans (of_raceOnly (RaceOnly.handServices s s is _))

end MasksStay

/-! ## The frame -/

/-- What the deck, board and timer commands leave of the hub and of the links. -/
structure OwnFrame (s t : State) : Prop where
  hub : KeepsHub s t
  links : ∀ l, (t.links.get l).unanswered = (s.links.get l).unanswered ∧ (t.links.get l).mask = (s.links.get l).mask ∧
    (t.links.get l).framer = (s.links.get l).framer

namespace OwnFrame

variable {s t u : State}

theorem refl (s : State) : OwnFrame s s := ⟨.refl s, fun _ => ⟨rfl, rfl, rfl⟩⟩

theorem of_supervises (ho : Owned s t) (hv : Supervises s t) (hm : MasksStay s t) : OwnFrame s t :=
  ⟨.of_owned ho hv, fun l => ⟨(ho.links l).unanswered, hm l, (ho.links l).framer⟩⟩

theorem of_raceOnly (h : RaceOnly s t) : OwnFrame s t := of_supervises h.owned (.of_raceOnly h) (.of_raceOnly h)

/-- A write of decoders and board alone. -/
theorem of_write (d : Vector Decoder 73) (b : Board) : OwnFrame s { s with decoders := d, board := b } :=
  ⟨⟨rfl, rfl, rfl, rfl, rfl, rfl, rfl, rfl, fun _ => rfl⟩, fun _ => ⟨rfl, rfl, rfl⟩⟩

theorem settle (h : OwnFrame s t) : OwnFrame s (Machine.settle t) where
  hub := h.hub.trans (.settle t)
  links l := by simpa using h.links l

theorem event {f : State → State} (hf : OwnFrame s (f s)) : OwnFrame s (Machine.event f s) := by
  unfold Machine.event
  split
  · exact hf.settle
  · exact refl s

theorem senseLevel (l : Line) (v : Level) (s : State) : OwnFrame s (Machine.senseLevel l v s) := by
  unfold Machine.senseLevel
  have hdecoder : ∀ f, OwnFrame s (s.modDecoder l f) := fun f => of_write (updAt s.decoders l.index f) s.board
  split
  · exact (hdecoder _).settle
  · exact hdecoder _

theorem modBoard (f : Board → Board) (s : State) : OwnFrame s (s.modBoard f) := of_write s.decoders (f s.board)

/-- Every deck, board and timer command. -/
theorem exec {c : Instr} (hc : ownCommand c = true) (s : State) : Ends (OwnFrame s) (exec c s) := by
  cases c <;> cases hc
  case sensedLevelChange l v =>
    change Ends (OwnFrame s) (execSensedLevelChange l v s)
    unfold execSensedLevelChange
    split
    · trivial
    · split
      · exact refl s
      · exact senseLevel l v s
  case candidateCompletes l =>
    exact event (of_supervises (.completeLines [l] s) (.completeLines [l] s) (.completeLines [l] s))
  case stuckTimerExpiry l =>
    exact event (of_supervises (.expireLines [l] s) (.expireLines [l] s) (.expireLines [l] s))
  case retryExpiry i =>
    exact event (of_supervises (.moveFaults _ _ _ _ _ s) (.moveFaults _ _ _ _ _ s) (.moveFaults _ _ _ _ _ s))
  case collecttimeExpiry n =>
    refine event ?_
    split
    · exact of_raceOnly (.resolveFinish n s)
    · exact refl s
  case overtimeExpiry => exact event (of_raceOnly (.overtimeIfDue s))
  case boardTransmissionCompletes => exact event (modBoard _ s)
  case clockTimerExpiry => exact event (modBoard _ s)
  case freezeTimerExpiry => exact event (modBoard _ s)
  case idleTimerExpiry => exact event (modBoard _ s)

end OwnFrame

/-- Settles O55: each of these commands writes records, decoders, race or board, and offers notices. -/
theorem ownCommandsFrame : Obligations.OwnCommandsFrame := by
  intro c s t hc ht
  have hframe := OwnFrame.exec hc s
  rw [ht] at hframe
  obtain ⟨hub, links⟩ := hframe
  exact ⟨hub.phase, hub.deckTime, hub.resetn, hub.resetPending, hub.params, hub.queue, hub.linkFaults, hub.pending,
    fun l => ⟨hub.outgoing l, links l⟩⟩

end Sys2Proof.Machine
end

section
/-! A pad or platform that leaves service, handed to its lane (R78, R104, R108, R113, R160). -/

namespace Sys2Proof.Machine

open Sys2Proof

/-! ## A pad (R78) -/

/-- A chain of inferences ends where the expected pad is in service, or at length N (R77). -/
theorem infer_stays {n : LaneNo} {s : State} {h : Heat} {x : Expectation} (fuel : Nat) (hh : s.heat = some h)
    (hx : (h.lanes.get n).expectation = some x)
    (hs : h.definition.lengths ≤ x.length ∨ s.inService (padInput n x.finish) = true) : infer n fuel s = s := by
  cases fuel with
  | zero => rfl
  | succ fuel =>
    simp only [infer, hh, hx]
    refine if_neg fun ⟨hlt, hout⟩ => ?_
    rcases hs with hle | hin
    · omega
    · rw [hin] at hout
      cases hout

theorem PadLeft.same {n : LaneNo} {e : End} {t : State} {h : Heat}
    (hno : ∀ x, (h.lanes.get n).state = .swimming → (h.lanes.get n).expectation = some x → x.finish = e →
      h.definition.lengths ≤ x.length) : PadLeft n e t h h where
  race := ⟨rfl, rfl, rfl, fun _ _ => ⟨rfl, rfl⟩⟩
  inferred x hst hx hend hlt := absurd (hno x hst hx hend) (Nat.not_le.mpr hlt)
  stays _ := rfl

section
variable {n : LaneNo} {e : End} {u t : State} {h : Heat} {x : Expectation}

/-- The missed length with the chain behind it and its judging, as R78 says. -/
theorem PadLeft.misses {k g : Heat} (hst : (h.lanes.get n).state = .swimming) (hx : (h.lanes.get n).expectation = some x)
    (hend : x.finish = e) (hlt : x.length < h.definition.lengths) (hi : Inferred n (h.skipExpected n x) k)
    (hj : Judged n k g)
    (hstay : t.inService (padInput n (h.definition.endOf (x.length + 1))) = true ∨ h.definition.lengths ≤ x.length + 1 →
      k = h.skipExpected n x) : PadLeft n e t h g := by
  obtain ⟨more, y, leg, hkl, hmore, -⟩ := hi.lane
  obtain ⟨xs, r, hgl, -⟩ := hj.lane
  rw [skipExpected_lane] at hkl
  have hlane := hgl
  rw [hkl] at hlane
  have hrace : g.definition = h.definition ∧ g.phase = h.phase ∧ g.startTime = h.startTime := by
    rw [hj.rest, hi.rest]
    exact ⟨rfl, rfl, rfl⟩
  have hothers := othersAsBefore_trans (skipExpected_othersAsBefore h n x) (othersAsBefore_trans hi.others hj.others)
  refine ⟨⟨hrace.1, hrace.2.1, hrace.2.2, hothers⟩, fun z _ hz _ _ => ?_, fun hno => ?_⟩
  · obtain rfl : x = z := Option.some.inj (hx.symm.trans hz)
    have hreason : (g.desks.get n).hold.reasons.skippedLength = true := by
      rw [hj.skippedLength]
      exact hi.skippedLength (skipExpected_skippedLength h n x)
    refine ⟨hreason, ?_, ?_, ?_, ?_, ?_, ?_, ⟨more, ?_, hmore⟩, fun hexp => ?_⟩
    · rw [hlane]
      exact hst
    iterate 5 rw [hlane]; rfl
    · rw [hlane]
      exact List.append_assoc ..
    · have hspan : lastTimedLength ((h.lanes.get n).splits ++ [missedEntry h.definition x.length]) =
          lastTimedLength (h.lanes.get n).splits := lastTimedLength_untimed _ (by simp [missedEntry])
      rw [hgl, hstay hexp, skipExpected_lane]
      refine ⟨rfl, rfl, ?_⟩
      simp only [Lane.expect, Lane.span, offset_eq_offsetByTable, offsetByTable, hspan]
  · rcases hno with hno | hno
    · exact absurd hst hno
    · rcases hno x hx with hne | hle
      · exact absurd hend hne
      · exact absurd hlt (Nat.not_lt.mpr hle)

/-- The expected pad of a SWIMMING lane left service below N: the missed length, and what the judging behind it leaves. -/
theorem padLost_misses (hu : u.heat = some h) (hst : (h.lanes.get n).state = .swimming)
    (hx : (h.lanes.get n).expectation = some x) (hend : x.finish = e) (hlt : x.length < h.definition.lengths)
    (hout : u.inService (padInput n e) = false) (ht : t.faults = u.faults) :
    ∃ g, (judgeFrom n (u.splitCount n) (padLost n e u)).heat = some g ∧ PadLeft n e t h g := by
  have hlost : padLost n e u = inferAll n u := by simp only [padLost, hu, hst, hx, if_pos hend]
  obtain ⟨fuel, hskips⟩ := inferAll_skips hu hx hlt (hend ▸ hout)
  have hskipped := skipExpected_heat n x hu
  obtain ⟨k, hk, hi⟩ := infer_inferred n fuel _ _ hskipped
  obtain ⟨g, hg, hj⟩ := judgeFrom_judged (infer n fuel (skipExpected n x u)) n (u.splitCount n) k hk
  rw [hlost, hskips]
  refine ⟨g, hg, .misses hst hx hend hlt hi hj fun hstay => ?_⟩
  have hserve : (skipExpected n x u).inService (padInput n (h.definition.endOf (x.length + 1))) =
      t.inService (padInput n (h.definition.endOf (x.length + 1))) := by
    rw [State.inService, State.inService, skipExpected_faults, ht]
  have hexpects : ((h.skipExpected n x).lanes.get n).expectation.map (fun y => (y.length, y.finish)) =
      some (x.length + 1, h.definition.endOf (x.length + 1)) := by
    rw [skipExpected_lane]
    rfl
  obtain ⟨y, hy, hyx⟩ := Option.map_eq_some_iff.mp hexpects
  obtain ⟨hlen, hfinish⟩ := Prod.mk.inj hyx
  have hstays : infer n fuel (skipExpected n x u) = skipExpected n x u := by
    refine infer_stays fuel hskipped hy ?_
    rw [hlen, hfinish, hserve]
    exact hstay.symm
  exact Option.some.inj (by rw [← hk, hstays, hskipped])

theorem padLost_same (hu : u.heat = some h)
    (hno : ∀ x, (h.lanes.get n).state = .swimming → (h.lanes.get n).expectation = some x → x.finish = e →
      h.definition.lengths ≤ x.length) : padLost n e u = u := by
  simp only [padLost, hu]
  split
  · next x hst hx =>
    split
    · next hend => exact inferAll_stays n u h x hu hx (.inl (hno x hst hx hend))
    · rfl
  · rfl

theorem padLost_left (hu : u.heat = some h) (hout : u.inService (padInput n e) = false) (ht : t.faults = u.faults) :
    ∃ g, (judgeFrom n (u.splitCount n) (padLost n e u)).heat = some g ∧ PadLeft n e t h g := by
  by_cases hno : ∀ x, (h.lanes.get n).state = .swimming → (h.lanes.get n).expectation = some x → x.finish = e →
      h.definition.lengths ≤ x.length
  · rw [padLost_same hu hno, judgeFrom_splitCount rfl]
    exact ⟨h, hu, .same hno⟩
  · simp only [not_forall, Nat.not_le] at hno
    obtain ⟨x, hst, hx, hend, hlt⟩ := hno
    exact padLost_misses hu hst hx hend hlt hout ht

/-! ## A platform (R108, R113) -/

/-- Where no reaction record and no exchange record of the lane is armed for the platform, the race stays as R104 says. -/
theorem PlatformLeft.same
    (hr : ∀ r, (h.lanes.get n).state = .swimming → h.reactionAt n e ≠ some r)
    (hx : (∃ r, h.reactionAt n e = some r) ∨ (h.lanes.get n).unfinished = false ∨ h.exchangeAt n e = none) :
    PlatformLeft n e h h where
  race := ⟨rfl, rfl, rfl, fun _ _ => ⟨rfl, rfl⟩⟩
  reaction r hst he hreaction harmed := absurd (reactionAt_armed he hreaction harmed) (hr r hst)
  exchange before x after hst hno hxs hend harming hrelease hverdict hfirst _ := by
    have harmed : x.armed = true := by
      simp [Exchange.armed, Option.isSome_iff_ne_none.mpr harming, hrelease, hverdict]
    rcases hx with ⟨r, hr⟩ | hx | hx
    · rw [reactionAt_unarmed hno] at hr
      cases hr
    · rw [(unfinished_iff _).mpr (.inr hst)] at hx
      cases hx
    · rw [exchangeAt_armed hxs hend harmed hfirst] at hx
      cases hx
  stays _ := rfl

/-- A reaction record armed after the start takes UNMEASURED (R108). -/
theorem PlatformLeft.reacts {r : Reaction} (hst : (h.lanes.get n).state = .swimming) (hr : h.reactionAt n e = some r) :
    PlatformLeft n e h (h.modLane n fun l => { l with reaction := some r.lost }) where
  race := ⟨rfl, rfl, rfl, modLane_othersAsBefore n h _⟩
  reaction q _ he hq harmed := by
    obtain rfl : r = q := Option.some.inj (hr.symm.trans (reactionAt_armed he hq harmed))
    exact ⟨modLane_get_self .., rfl⟩
  exchange _ _ _ _ hno _ _ _ _ _ _ _ := by
    rw [reactionAt_unarmed hno] at hr
    cases hr
  stays hno := by
    rcases hno with hunf | ⟨-, hno⟩
    · rw [(unfinished_iff _).mpr (.inr (.inl hst))] at hunf
      cases hunf
    · rw [reactionAt_unarmed (hno.resolve_left (not_not_intro hst))] at hr
      cases hr

/-- An exchange record given up with its platform (R113). -/
theorem giveVerdict_unjudged {before after : List Exchange} {y : Exchange} (hu : u.heat = some h)
    (hy : RecordAmong n before after y h) :
    (giveVerdict n y (.unjudged .platformService) u).heat =
      some ((h.withExchanges n (before ++ { y with verdict := .unjudged .platformService } :: after)).modDesk n
        (Desk.addReason .exchangeUnjudged)) := by
  have hwritten := hy.modExchange_heat hu { y with verdict := .unjudged .platformService }
  simp only [giveVerdict, completeExchange, Verdict.reason, addReason_heat, raise_heat, hwritten, Option.map_some]

/-- The exchange record the platform is armed for is UNJUDGED (R113). -/
theorem PlatformLeft.exchanges {y : Exchange} (hu : u.heat = some h) (hunf : (h.lanes.get n).unfinished = true)
    (hr : h.reactionAt n e = none) (hy : h.exchangeAt n e = some y) :
    ∃ g, (giveVerdict n y (.unjudged .platformService) u).heat = some g ∧ PlatformLeft n e h g := by
  obtain ⟨g, hg, hx⟩ := giveVerdict_exchanged u n y (.unjudged .platformService) h hu
  have hrace : g.definition = h.definition ∧ g.phase = h.phase ∧ g.startTime = h.startTime := by
    rw [hx.rest]
    exact ⟨rfl, rfl, rfl⟩
  refine ⟨g, hg, ⟨hrace.1, hrace.2.1, hrace.2.2, hx.others⟩, fun r _ he hreaction harmed => ?_,
    fun before x after _ _ hxs hend harming hrelease hverdict hfirst halone => ?_, fun hno => ?_⟩
  · rw [reactionAt_armed he hreaction harmed] at hr
    cases hr
  · have harmed : x.armed = true := by
      simp [Exchange.armed, Option.isSome_iff_ne_none.mpr harming, hrelease, hverdict]
    obtain rfl : x = y := Option.some.inj ((exchangeAt_armed hxs hend harmed hfirst).symm.trans hy)
    rw [giveVerdict_unjudged hu ⟨hxs, halone⟩] at hg
    obtain rfl := Option.some.inj hg
    refine ⟨withExchanges_get_self .., ?_⟩
    rw [modDesk_get_self]
    rfl
  · rcases hno with hno | ⟨hno, -⟩
    · rw [hunf] at hno
      cases hno
    · rw [exchangeAt_unarmed hno] at hy
      cases hy

theorem platformLost_left (hu : u.heat = some h) : ∃ g, (platformLost n e u).heat = some g ∧ PlatformLeft n e h g := by
  unfold platformLost
  simp only [hu]
  split
  · next hunf =>
    split
    · next r hr =>
      split
      · next hst => exact ⟨_, writeReaction_heat hu none, .reacts hst hr⟩
      · next hst => exact ⟨h, hu, .same (fun _ h => absurd h hst) (.inl ⟨r, hr⟩)⟩
    · next y hr hy => exact PlatformLeft.exchanges hu hunf hr hy
    · next hr hy => exact ⟨h, hu, .same (fun r _ hsome => by rw [hr] at hsome; cases hsome) (.inr (.inr hy))⟩
  · next hunf =>
    have hns : (h.lanes.get n).state ≠ .swimming := fun hst => hunf ((unfinished_iff _).mpr (.inr (.inl hst)))
    exact ⟨h, hu, .same (fun _ hst => absurd hst hns) (.inr (.inl (Bool.eq_false_iff.mpr hunf)))⟩

end

end Sys2Proof.Machine
end

section
/-! One candidate counted, one timer run out: the record it moves, what it reports, and the service it hands on (R136, R142, R143,
R150 to R155, R160). -/

namespace Sys2Proof.Machine

open Sys2Proof

/-! ## The service changes of one input (R160) -/

/-- What was judged before an event's end matters by its race alone. -/
theorem handServices_congr (before : State) {j k : State} (is : List (Fin 71)) (s : State) (h : j.heat = k.heat) :
    handServices before j is s = handServices before k is s := by
  have hlane : ∀ lost u n, settleLane j lost u n = settleLane k lost u n := fun lost u n => by
    simp only [settleLane, judgeTakeoffs, newTakeoffs, State.splitCount, State.exchangesOf, h]
  simp only [handServices, funext fun u => funext fun n => hlane (leftService before s is) u n]

theorem leftService_one (s u : State) (i : Fin 71) :
    leftService s u [i] = if s.inService i = true ∧ u.inService i = false then [i] else [] := by
  simp [leftService, List.filter_cons]

/-- An input that is no pad and no platform concerns no lane (R88, R160). -/
theorem handServices_laneless {before s : State} {is : List (Fin 71)} {i : Fin 71} (h : leftService before s is = [i])
    (hpad : ∀ n e, padInput n e ≠ i) (hplatform : ∀ n e, platformInput n e ≠ i) : handServices before s is s = s := by
  rw [handServices, h]
  rw [foldl_lanes_idle (losePads [i]) s fun m => losePads_none _ _ _ fun e he => hpad m e (List.mem_singleton.mp he)]
  refine foldl_lanes_idle _ s fun m => ?_
  rw [settleLane_none _ _ _ _ fun e he => hplatform m e (List.mem_singleton.mp he), judgeLane_same _ _ _ rfl]

theorem pad_input (n : LaneNo) (e : End) : (Line.pad e n).input = some (padInput n e) := by
  cases e <;> exact dif_pos (by simp only [Line.index]; omega)

theorem platform_input (n : LaneNo) (e : End) : (Line.platform e n).input = some (platformInput n e) := by
  cases e <;> exact dif_pos (by simp only [Line.index]; omega)

theorem line_of_input {l m : Line} {i : Fin 71} (hl : l.input = some i) (hm : m.input = some i) : l = m :=
  (lineOfInput_of_input hl).symm.trans (lineOfInput_of_input hm)

/-- Reports on one input leave the race to the service they change. -/
theorem handServices_handed {l : Line} {i : Fin 71} {s j u : State} (hi : l.input = some i) (hu : u.heat = s.heat)
    (hj : j.heat = s.heat) : ServiceHanded l i s (handServices s j l.input.toList u) := by
  have hserve : ∀ k, (handServices s j l.input.toList u).inService k = u.inService k := fun k => by
    rw [State.inService, State.inService, handServices_faults]
  have hfaults : (handServices s j l.input.toList u).faults = u.faults := handServices_faults ..
  have hjudged : handServices s j l.input.toList u = handServices s u l.input.toList u :=
    handServices_congr s _ u (hj.trans hu.symm)
  have hleft : leftService s u l.input.toList = if s.inService i = true ∧ u.inService i = false then [i] else [] := by
    rw [hi]
    exact leftService_one s u i
  refine ⟨fun hstays => ?_, fun hin hout => ?_⟩
  · have hnone : leftService s u l.input.toList = [] := by
      rw [hleft, if_neg]
      rintro ⟨hin, hout⟩
      rcases hstays with h | h
      · rw [h] at hin
        cases hin
      · rw [hserve, hout] at h
        cases h
    rw [hjudged, handServices_none _ _ _ _ hnone fun _ => rfl, hu]
  · rw [hserve] at hout
    rw [if_pos ⟨hin, hout⟩] at hleft
    cases l with
    | pad e n =>
      obtain rfl : padInput n e = i := Option.some.inj ((pad_input n e).symm.trans hi)
      intro h hh
      obtain ⟨g, hg, hpad⟩ := padLost_left (u := u) (hu.trans hh) hout hfaults
      exact ⟨g, by rw [hjudged, handServices_pad s u _ e n hleft, hg], hpad⟩
    | platform e n =>
      obtain rfl : platformInput n e = i := Option.some.inj ((platform_input n e).symm.trans hi)
      intro h hh
      obtain ⟨g, hg, hplatform⟩ := platformLost_left (u := u) (e := e) (n := n) (hu.trans hh)
      exact ⟨g, by rw [hjudged, handServices_platform s u _ e n hleft, hg], hplatform⟩
    | _ =>
      change (handServices s j _ u).heat = s.heat
      rw [hjudged, handServices_laneless hleft ?_ ?_, hu]
      · exact fun m e he => nomatch line_of_input ((pad_input m e).trans (congrArg some he)) hi
      · exact fun m e he => nomatch line_of_input ((platform_input m e).trans (congrArg some he)) hi

/-! ## One candidate -/

section
variable {l : Line} {i : Fin 71} {s : State} {c : Candidate}

/-- A fault level is no deck event (R139). -/
theorem deliver_fault {old new : Level} (hf : old.isFault = true ∨ new.isFault = true) (since : DeckTime) (u : State) :
    deliver l old new since u = u := by
  unfold deliver
  split
  case h_8 => rfl
  all_goals rcases hf with hf | hf <;> cases hf

theorem deliverCounted_of_some (hc : (s.decoder l).candidate = some c) (u : State) :
    deliverCounted s u l = deliverGated l (s.decoder l).counted c.level c.since u := by
  simp only [deliverCounted, hc]

theorem deliverCounted_fault (hc : (s.decoder l).candidate = some c)
    (hf : (s.decoder l).counted.isFault = true ∨ c.level.isFault = true) (u : State) : deliverCounted s u l = u := by
  rw [deliverCounted_of_some hc, deliverGated, deliver_fault hf, ite_self]

theorem DeckRaises.deliverCounted (l : Line) (s u : State) : RaisesKinds deckKinds u (Machine.deliverCounted s u l) :=
  DeckRaises.handEvents s [l] u

/-- The reports of one counted candidate, and none behind them (R155). -/
theorem completeLine_noticed (hi : l.input = some i) (hdue : (s.decoder l).candidateDue s.params l s.deckTime = true) :
    FaultsNoticed (countedRaised s i) s (completeLines [l] s) := by
  have hreports := countLine_raised s l
  rw [hi] at hreports
  rw [completeLines_one s l hdue]
  exact .of_reports hreports ((DeckRaises.deliverCounted l s _).trans (DeckRaises.handServices s _ _ _))

theorem completeLine_get (hi : l.input = some i) (hdue : (s.decoder l).candidateDue s.params l s.deckTime = true)
    (j : Fin 71) : (completeLines [l] s).faults.get j = if j = i then countedRecord s j else s.faults.get j := by
  obtain rfl := lineOfInput_of_input hi
  rw [completeLines_get [lineOfInput i] (List.nodup_singleton _)]
  by_cases hj : j = i
  · subst hj
    rw [if_pos ⟨List.mem_singleton_self _, hdue⟩, if_pos rfl]
  · rw [if_neg hj, if_neg]
    rintro ⟨hmem, -⟩
    have hinput := congrArg Line.input (List.mem_singleton.mp hmem)
    rw [lineOfInput_input, lineOfInput_input] at hinput
    exact hj (Option.some.inj hinput)

theorem completeLine_decoders (hc : (s.decoder l).candidate = some c)
    (hdue : (s.decoder l).candidateDue s.params l s.deckTime = true) :
    (completeLines [l] s).decoders = (countedAt l c.level c.since s).decoders := by
  rw [completeLines_one s l hdue, handServices_decoders]
  have hdelivered : (deliverCounted s (countLine s l) l).decoders = (countLine s l).decoders :=
    (RaceOnly.deliverCounted s _ l).decoders
  rw [hdelivered, countLine_decoders, countedAt]
  simp only [State.modDecoder]
  exact updAt_congr _ _ _ _ (by
    have hcounts : Decoder.counts l (s.decoder l) = (s.decoder l).count l c := by simp only [Decoder.counts, hc]
    exact hcounts)

/-- A candidate that is no deck event: the race is what the change of service makes of it. -/
theorem completeLine_handed (hi : l.input = some i) (hdue : (s.decoder l).candidateDue s.params l s.deckTime = true)
    (hsame : deliverCounted s (countLine s l) l = countLine s l) : ServiceHanded l i s (completeLines [l] s) := by
  have hu : (countLine s l).heat = s.heat := (RecordsOnly.countLine s l).heat
  rw [completeLines_one s l hdue, hsame]
  refine handServices_handed hi hu ?_
  split
  · rfl
  · exact hu

end

end Sys2Proof.Machine
end

section
/-! The statements about candidates, line conditions, STUCK and retry timers (R136, R142, R143, R150 to R155). -/

namespace Sys2Proof.Machine

open Sys2Proof

/-! ## Levels, conditions and classes -/

theorem levelCondition_eq_none_iff (v : Level) : levelCondition v = .none ↔ v.isFault = false := by
  cases v <;> simp [levelCondition, Level.isFault]

theorem levelCondition_ne_stuck (v : Level) : levelCondition v ≠ .stuck := by
  cases v <;> simp [levelCondition]

theorem levelCondition_of_fault {v : Level} (h : v.isFault = true) : levelCondition v ≠ .none := fun hn => by
  rw [(levelCondition_eq_none_iff v).mp hn] at h
  cases h

theorem levelCondition_inj_of_fault {v w : Level} (h : v.isFault = true) (hvw : v ≠ w) :
    levelCondition v ≠ levelCondition w := by
  cases v <;> cases w <;> simp_all [levelCondition, Level.isFault]

theorem conditionClass_line {l : Line} {i : Fin 71} (hi : l.input = some i) (hl : l.fourLevel = true) {c : Condition}
    (hc : c ≠ .stuck) : conditionClass i c = lineClass l := by
  rw [conditionClass_of_line i hc, conditionClass, lineOfInput_of_input hi]
  cases l <;> cases hl <;> rfl

theorem conditionClass_stuck {l : Line} {i : Fin 71} (hi : l.input = some i) (hl : l.hasStuckTimer = true) :
    conditionClass i .stuck = stuckClass l := by
  rw [conditionClass, lineOfInput_of_input hi]
  cases l <;> cases hl <;> rfl

/-! ## Service kept by a report -/

/-- The end of a condition returns no input that is out of service (R152). -/
theorem endedRecord_out (now : DeckTime) {r : FaultRecord} (h : r.state.inService = false) :
    (endedRecord now r).state.inService = false := by
  cases hs : r.state <;> simp_all [endedRecord, FaultState.inService]

/-- The end of a condition takes no input out of service. -/
theorem endedRecord_in (now : DeckTime) {r : FaultRecord} (h : r.state.inService = true) :
    (endedRecord now r).state.inService = true := by
  cases hs : r.state <;> simp_all [endedRecord, FaultState.inService]

/-- A line condition that changes kind or ends takes no input out of service (R151, R152). -/
theorem lineMoves_in (p : Params) (i : Fin 71) (now : DeckTime) {old : Condition} (new : Condition) {r : FaultRecord}
    (ho : old ≠ .none) (h : r.state.inService = true) : (r.lineMoves p i now old new).state.inService = true := by
  unfold FaultRecord.lineMoves
  split
  · exact h
  · split
    · rw [FaultRecord.ends_eq]
      exact endedRecord_in now h
    · exact h

/-! ## A candidate that is due -/

section
variable {l : Line} {i : Fin 71} {s : State} {c : Candidate}

theorem candidateDue_of_lasted (hc : (s.decoder l).candidate = some c)
    (hle : s.params.deglitch l (s.decoder l).counted c.level ≤ elapsed c.since s.deckTime) :
    (s.decoder l).candidateDue s.params l s.deckTime = true := by
  simp [Decoder.candidateDue, hc, hle]

theorem countedRecord_of_some (hi : l.input = some i) (hc : (s.decoder l).candidate = some c) :
    countedRecord s i = (s.faults.get i).follows s.params i s.deckTime ((s.decoder l).stuck == .expired)
      (levelCondition (s.decoder l).counted) (levelCondition c.level) := by
  obtain rfl := lineOfInput_of_input hi
  simp only [countedRecord, hc]

theorem countedRaised_of_some (hi : l.input = some i) (hc : (s.decoder l).candidate = some c) :
    countedRaised s i = changeRaised s.params i s.deckTime ((s.decoder l).stuck == .expired)
      (levelCondition (s.decoder l).counted) (levelCondition c.level) (s.faults.get i) (countedRecord s i) := by
  obtain rfl := lineOfInput_of_input hi
  simp only [countedRaised, hc]

/-- Between two levels that are no fault only the end of STUCK moves the record. -/
theorem countedRecord_quiet (hi : l.input = some i) (hc : (s.decoder l).candidate = some c)
    (ho : (s.decoder l).counted.isFault = false) (hn : c.level.isFault = false) :
    countedRecord s i = if (s.decoder l).stuck = .expired then endedRecord s.deckTime (s.faults.get i) else s.faults.get i := by
  rw [countedRecord_of_some hi hc, (levelCondition_eq_none_iff _).mpr ho, (levelCondition_eq_none_iff _).mpr hn,
    FaultRecord.follows, FaultRecord.lineMoves, if_pos rfl]
  simp only [beq_iff_eq]

/-- An input out of service hands on no event, whatever its line is counted as (R144). -/
theorem deliverCounted_out (hi : l.input = some i) (hc : (s.decoder l).candidate = some c) (hout : s.inService i = false) :
    deliverCounted s (countLine s l) l = countLine s l := by
  by_cases hf : (s.decoder l).counted.isFault = true ∨ c.level.isFault = true
  · exact deliverCounted_fault hc hf _
  · obtain ⟨ho, hn⟩ := not_or.mp hf
    have hrecord : (countLine s l).faults.get i = countedRecord s i := by
      rw [countLine_get, if_pos (lineOfInput_of_input hi).symm]
    have hstays : (countLine s l).lineInService l = false := by
      simp only [State.lineInService, hi, State.inService, hrecord,
        countedRecord_quiet hi hc (Bool.eq_false_iff.mpr ho) (Bool.eq_false_iff.mpr hn)]
      split
      · exact endedRecord_out s.deckTime hout
      · exact hout
    rw [deliverCounted_of_some hc, deliverGated, hstays]
    rfl

/-- No candidate due, nothing completes (log 2). -/
theorem completeLine_early (h : (s.decoder l).candidateDue s.params l s.deckTime = false) : completeLines [l] s = s := by
  have hnone : [l].filter (fun l => (s.decoder l).candidateDue s.params l s.deckTime) = [] := by simp [h]
  simp only [completeLines, hnone]
  exact handServices_none s s s [] rfl fun _ => rfl

end

theorem exec_candidateCompletes {s : State} (l : Line) (hrun : s.phase = .running) :
    exec (.candidateCompletes l) s = .next (settle (completeLines [l] s)) :=
  congrArg Host.Outcome.next (event_running hrun _)

/-- Settles O48: the decoder counts its candidate, and an input out of service hands on nothing. -/
theorem candidateCounts : Obligations.CandidateCounts := by
  intro l s hrun
  refine ⟨fun c hc hle => ?_, fun hearly => ?_⟩
  · have hdue := candidateDue_of_lasted hc hle
    refine ⟨_, exec_candidateCompletes l hrun, completeLine_decoders hc hdue, fun i hi hout => ?_⟩
    exact (completeLine_handed hi hdue (deliverCounted_out hi hc hout)).1 (.inl hout)
  · rw [exec_candidateCompletes l hrun, completeLine_early]
    refine Bool.eq_false_iff.mpr fun hdue => ?_
    obtain ⟨c, hc, hle⟩ := (candidateDue_iff ..).mp hdue
    exact absurd (hearly c hc) (Nat.not_lt.mpr hle)

/-! ## Line conditions (R142, R150 to R152) -/

/-- What one change of counted level reports of an input, no STUCK condition standing. -/
theorem changeRaised_unstuck (p : Params) (i : Fin 71) (now : DeckTime) {old new : Condition} (h : old ≠ new)
    (r q : FaultRecord) :
    changeRaised p i now false old new r q =
      faultRaised p i (conditionClass i .short) (if old = .none then .begins else if new = .none then .ends else .kind) now r
        q := by
  simp [changeRaised, h]

/-- Settles O49: the report moves the record by the rules of its kind, and the service it changes is handed on. -/
theorem lineConditions : Obligations.LineConditions := by
  intro l i old new since s hrun hl hi hstuck hold hc hle
  subst hold
  have hdue : (s.decoder l).candidateDue s.params l s.deckTime = true := candidateDue_of_lasted hc hle
  have hcount : ((s.decoder l).stuck == .expired) = false := beq_eq_false_iff_ne.mpr hstuck
  have hrecord : (completeLines [l] s).faults.get i =
      (s.faults.get i).lineMoves s.params i s.deckTime (levelCondition (s.decoder l).counted) (levelCondition new) := by
    rw [completeLine_get hi hdue, if_pos rfl, countedRecord_of_some hi hc, hcount, FaultRecord.follows, if_neg nofun]
  have hnoticed := completeLine_noticed hi hdue
  have hraised : countedRaised s i = changeRaised s.params i s.deckTime false (levelCondition (s.decoder l).counted)
      (levelCondition new) (s.faults.get i) ((completeLines [l] s).faults.get i) := by
    rw [countedRaised_of_some hi hc, hcount, completeLine_get hi hdue, if_pos rfl]
  have hclass : conditionClass i .short = lineClass l := conditionClass_line hi hl nofun
  have hhanded : (s.decoder l).counted.isFault = true ∨ new.isFault = true → ServiceHanded l i s (completeLines [l] s) :=
    fun hf => completeLine_handed hi hdue (deliverCounted_fault hc hf _)
  have hnone : ∀ {v : Level}, v.isFault = false → levelCondition v = .none := (levelCondition_eq_none_iff _).mpr
  rw [hraised] at hnoticed
  refine ⟨_, exec_candidateCompletes l hrun, fun j hj => by rw [completeLine_get hi hdue, if_neg hj], fun ho hn => ?_,
    fun ho hn hne => ?_, fun ho hn => ?_, fun ho hn => ?_, fun ho hn hreporting hwait => ?_, fun _ hn => hhanded (.inr hn),
    fun ho => ?_, fun ho hn hne => ?_, fun ho hn => ?_, fun ho hn => ?_⟩
  · rwa [changeRaised_unstuck _ _ _ (by rw [hnone ho]; exact (levelCondition_of_fault hn).symm), hnone ho, if_pos rfl, hclass]
      at hnoticed
  · rwa [changeRaised_unstuck _ _ _ (levelCondition_inj_of_fault ho hne), if_neg (levelCondition_of_fault ho),
      if_neg (levelCondition_of_fault hn), hclass] at hnoticed
  · rwa [changeRaised_unstuck _ _ _ (by rw [hnone hn]; exact levelCondition_of_fault ho),
      if_neg (levelCondition_of_fault ho), hnone hn, if_pos rfl, hclass] at hnoticed
  · rw [hnone ho, hnone hn] at hnoticed
    exact hnoticed
  · rw [hrecord, FaultRecord.lineMoves, hnone ho, if_neg (levelCondition_of_fault hn).symm, if_pos rfl,
      FaultRecord.begins_eq _ _ hreporting hwait, conditionClass_line hi hl (levelCondition_ne_stuck new)]
  · refine (hhanded (.inl ho)).1 ?_
    by_cases hin : s.inService i = true
    · refine .inr ?_
      rw [State.inService, hrecord]
      exact lineMoves_in _ _ _ _ (levelCondition_of_fault ho) hin
    · exact .inl (Bool.eq_false_iff.mpr hin)
  · rw [hrecord, FaultRecord.lineMoves, if_neg (levelCondition_inj_of_fault ho hne), if_neg (levelCondition_of_fault ho),
      if_neg (levelCondition_of_fault hn)]
    rfl
  · rw [hrecord, FaultRecord.lineMoves, hnone hn, if_neg (levelCondition_of_fault ho), if_neg (levelCondition_of_fault ho),
      if_pos rfl, FaultRecord.ends_eq]
  · refine vector_ext_get fun j => ?_
    by_cases hj : j = i
    · subst hj
      rw [hrecord, FaultRecord.lineMoves, hnone ho, hnone hn, if_pos rfl]
    · rw [completeLine_get hi hdue, if_neg hj]

/-! ## STUCK (R143) -/

section
variable {l : Line} {i : Fin 71} {s : State}

theorem exec_stuckTimerExpiry (l : Line) (hrun : s.phase = .running) :
    exec (.stuckTimerExpiry l) s = .next (settle (expireLines [l] s)) :=
  congrArg Host.Outcome.next (event_running hrun _)

theorem expireLine_eq (hi : l.input = some i) (hdue : (s.decoder l).stuckDue s.params s.deckTime = true) :
    expireLines [l] s = handServices s s l.input.toList (reportStuck s l) := by
  have hone : [l].filter (fun l => (s.decoder l).stuckDue s.params s.deckTime) = [l] := by simp [hdue]
  simp only [expireLines, hone, hi, List.filterMap_cons, List.filterMap_nil, Option.toList_some]
  rfl

theorem expireLine_early (h : (s.decoder l).stuckDue s.params s.deckTime = false) : expireLines [l] s = s := by
  have hnone : [l].filter (fun l => (s.decoder l).stuckDue s.params s.deckTime) = [] := by simp [h]
  simp only [expireLines, hnone]
  exact handServices_none s s s [] rfl fun _ => rfl

theorem reportStuck_of_input (hi : l.input = some i) :
    reportStuck s l = reportFault i .stuck .begins (FaultRecord.begins s.params (conditionClass i .stuck) .stuck)
      (s.modDecoder l fun d => { d with stuck := .expired }) := by
  simp only [reportStuck, hi]

/-- A line ACTIVE for StuckTime. -/
theorem expireLine_stuck (hrun : s.phase = .running) (hl : l.hasStuckTimer = true) (hi : l.input = some i)
    (hdue : (s.decoder l).stuckDue s.params s.deckTime = true) :
    ∃ t, exec (.stuckTimerExpiry l) s = .next (settle t) ∧
      FaultsNoticed (faultRaised s.params i (stuckClass l) .begins s.deckTime (s.faults.get i) (t.faults.get i)) s t ∧
      t.decoders = (s.modDecoder l fun d => { d with stuck := .expired }).decoders ∧
      ((s.faults.get i).state ≠ .reporting → (s.faults.get i).state ≠ .retryWait →
        t.faults.get i = beganRecord (s.params.mode (stuckClass l)) (stuckClass l) .stuck (s.faults.get i)) ∧
      ServiceHanded l i s t ∧ ∀ j, j ≠ i → t.faults.get j = s.faults.get j := by
  have hclass := conditionClass_stuck hi hl
  have hget : ∀ j, (handServices s s l.input.toList (reportStuck s l)).faults.get j =
      if j = i then (s.faults.get i).begins s.params (stuckClass l) .stuck else s.faults.get j := fun j => by
    rw [handServices_faults, reportStuck_of_input hi, reportFault_get, hclass]
    rfl
  have hreports := reportStuck_raised s l
  rw [hi, Option.map_some, Option.getD_some, stuckRaised, hclass] at hreports
  have hself := hget i
  rw [if_pos rfl] at hself
  refine ⟨_, exec_stuckTimerExpiry l hrun, ?_⟩
  rw [expireLine_eq hi hdue]
  refine ⟨?_, ?_, fun hreporting hwait => ?_, ?_, fun j hj => by rw [hget, if_neg hj]⟩
  · rw [hself]
    exact .of_reports hreports (DeckRaises.handServices s s _ _)
  · rw [handServices_decoders, reportStuck_of_input hi, reportFault_decoders]
  · rw [hself, FaultRecord.begins_eq _ _ hreporting hwait]
  · exact handServices_handed hi (RecordsOnly.reportStuck s l).heat rfl

theorem endedRecord_state (now : DeckTime) (r : FaultRecord) :
    (endedRecord now r).state ≠ .reporting ∧ (endedRecord now r).state ≠ .retryWait := by
  cases hs : r.state <;> simp [endedRecord, hs]

/-- No deck event follows a change to IDLE of a line with a stuck timer. -/
theorem deliver_stuckLine_idle (hl : l.hasStuckTimer = true) (old : Level) (since : DeckTime) (u : State) :
    deliver l old .idle since u = u := by
  cases l <;> cases hl <;> cases old <;> rfl

/-- STUCK ends with the change to IDLE. -/
theorem completeLine_stuckEnds {since : DeckTime} (hrun : s.phase = .running) (hl : l.hasStuckTimer = true)
    (hi : l.input = some i) (hstuck : (s.decoder l).stuck = .expired) (hold : (s.decoder l).counted = .active)
    (hc : (s.decoder l).candidate = some ⟨.idle, since⟩) (hle : s.params.deglitch l .active .idle ≤ elapsed since s.deckTime) :
    ∃ t, exec (.candidateCompletes l) s = .next (settle t) ∧
      t.faults.get i = endedRecord s.deckTime (s.faults.get i) ∧
      FaultsNoticed (faultRaised s.params i (stuckClass l) .ends s.deckTime (s.faults.get i) (t.faults.get i)) s t ∧
      (∀ j, j ≠ i → t.faults.get j = s.faults.get j) ∧ t.heat = s.heat := by
  have hdue : (s.decoder l).candidateDue s.params l s.deckTime = true := candidateDue_of_lasted hc (hold ▸ hle)
  have hcounted : countedRecord s i = endedRecord s.deckTime (s.faults.get i) := by
    rw [countedRecord_quiet hi hc (by rw [hold]; rfl) rfl, if_pos hstuck]
  have hrecord : (completeLines [l] s).faults.get i = endedRecord s.deckTime (s.faults.get i) := by
    rw [completeLine_get hi hdue, if_pos rfl, hcounted]
  have hnoticed := completeLine_noticed hi hdue
  rw [countedRaised_of_some hi hc, hstuck, hold, hcounted] at hnoticed
  have hsame : deliverCounted s (countLine s l) l = countLine s l := by
    rw [deliverCounted_of_some hc, deliverGated, deliver_stuckLine_idle hl, ite_self]
  refine ⟨_, exec_candidateCompletes l hrun, hrecord, ?_, fun j hj => by rw [completeLine_get hi hdue, if_neg hj], ?_⟩
  · rw [hrecord, ← conditionClass_stuck hi hl]
    simpa [changeRaised, levelCondition] using hnoticed
  · refine (completeLine_handed hi hdue hsame).1 ?_
    by_cases hin : s.inService i = true
    · refine .inr ?_
      rw [State.inService, hrecord]
      exact endedRecord_in s.deckTime hin
    · exact .inl (Bool.eq_false_iff.mpr hin)

/-- STUCK ends and a line condition begins (R143, log 13). -/
theorem completeLine_stuckFaults {new : Level} {since : DeckTime} {middle : FaultRecord} (hrun : s.phase = .running)
    (hl : l.hasStuckTimer = true) (hi : l.input = some i) (hfour : l.fourLevel = true)
    (hstuck : (s.decoder l).stuck = .expired) (hold : (s.decoder l).counted = .active)
    (hc : (s.decoder l).candidate = some ⟨new, since⟩) (hn : new.isFault = true)
    (hle : s.params.deglitch l .active new ≤ elapsed since s.deckTime)
    (hmiddle : middle = endedRecord s.deckTime (s.faults.get i)) :
    ∃ t, exec (.candidateCompletes l) s = .next (settle t) ∧ t.decoders = (countedAt l new since s).decoders ∧
      t.faults.get i = beganRecord (s.params.mode (lineClass l)) (lineClass l) (levelCondition new) middle ∧
      FaultsNoticed
        (faultRaised s.params i (stuckClass l) .ends s.deckTime (s.faults.get i) middle ++
          faultRaised s.params i (lineClass l) .begins s.deckTime middle (t.faults.get i)) s t ∧
      ServiceHanded l i s t ∧ ∀ j, j ≠ i → t.faults.get j = s.faults.get j := by
  have hdue : (s.decoder l).candidateDue s.params l s.deckTime = true := candidateDue_of_lasted hc (hold ▸ hle)
  have hcond := (levelCondition_of_fault hn).symm
  obtain ⟨hreporting, hwait⟩ := endedRecord_state s.deckTime (s.faults.get i)
  have hcounted : countedRecord s i =
      beganRecord (s.params.mode (lineClass l)) (lineClass l) (levelCondition new) middle := by
    rw [countedRecord_of_some hi hc, hstuck, hold, FaultRecord.follows, if_pos (beq_self_eq_true _), FaultRecord.lineMoves, hmiddle]
    change (if Condition.none = levelCondition new then _ else if Condition.none = Condition.none then _ else _) = _
    rw [if_neg hcond, if_pos rfl, FaultRecord.begins_eq _ _ hreporting hwait,
      conditionClass_line hi hfour (levelCondition_ne_stuck new)]
  have hrecord : (completeLines [l] s).faults.get i =
      beganRecord (s.params.mode (lineClass l)) (lineClass l) (levelCondition new) middle := by
    rw [completeLine_get hi hdue, if_pos rfl, hcounted]
  have hnoticed := completeLine_noticed hi hdue
  rw [countedRaised_of_some hi hc, hstuck, hold, hcounted] at hnoticed
  refine ⟨_, exec_candidateCompletes l hrun, completeLine_decoders hc hdue, hrecord, ?_,
    completeLine_handed hi hdue (deliverCounted_fault hc (.inr hn) _), fun j hj => by rw [completeLine_get hi hdue, if_neg hj]⟩
  have hnone : levelCondition .active = .none := rfl
  rw [hrecord, ← conditionClass_stuck hi hl, ← conditionClass_line hi hfour (c := .short) nofun, hmiddle] at *
  simpa only [changeRaised, hnone, beq_self_eq_true, if_true, if_neg hcond] using hnoticed

/-! ## Retry timers (R153) -/

theorem exec_retryExpiry (i : Fin 71) (hrun : s.phase = .running) :
    exec (.retryExpiry i) s = .next (settle (expireRetries [i] s)) :=
  congrArg Host.Outcome.next (event_running hrun _)

theorem expireRetry_early (h : (s.faults.get i).retryDue s.params s.deckTime = false) : expireRetries [i] s = s := by
  have hnone : [i].filter (fun i => (s.faults.get i).retryDue s.params s.deckTime) = [] := by simp [h]
  simp only [expireRetries, hnone, moveFaults, List.foldl_nil]
  exact handServices_none s s s [] rfl fun _ => rfl

/-- A retry timer run out: the record clears, with one notice (log 27). -/
theorem expireRetry_clears {c : FaultClass} (hrun : s.phase = .running) (hc : (s.faults.get i).serviceClass = some c)
    (hdue : (s.faults.get i).retryDue s.params s.deckTime = true) :
    ∃ t, exec (.retryExpiry i) s = .next (settle t) ∧
      FaultsNoticed [faultNotice i c .retryExpiry s.deckTime (t.faults.get i)] s t ∧
      t.faults.get i = judgedOnClear s.params i c (clearRecord (s.faults.get i)) ∧
      (∀ j, j ≠ i → t.faults.get j = s.faults.get j) ∧ t.heat = s.heat ∧ t.decoders = s.decoders := by
  have hget := expireRetries_get [i] (List.nodup_singleton i) s
  have hself : (expireRetries [i] s).faults.get i = (s.faults.get i).expires s.params i := by
    rw [hget, if_pos ⟨List.mem_singleton_self i, hdue⟩]
  have hone : [i].filter (fun i => (s.faults.get i).retryDue s.params s.deckTime) = [i] := by simp [hdue]
  have hclass : (s.faults.get i).classOf i = c := by rw [FaultRecord.classOf, hc]; rfl
  have hmoved : ((s.faults.get i).expires s.params i).state ≠ (s.faults.get i).state := fun heq =>
    FaultRecord.expires_state s.params i (s.faults.get i) (heq.trans (FaultRecord.retryDue_state hdue))
  refine ⟨_, exec_retryExpiry i hrun, ?_, ?_, fun j hj => ?_, expireRetries_heat _ (List.nodup_singleton i) s,
    moveFaults_decoders ..⟩
  · have hnoticed := moveFaults_noticed (List.nodup_singleton i) (fun i r => r.expires s.params i) FaultRecord.classOf
      .retryExpiry s
    rw [List.flatMap_cons, List.flatMap_nil, List.append_nil, hclass, faultRaised, if_neg fun h => hmoved h.1] at hnoticed
    rw [hself, expireRetries, hone]
    exact hnoticed
  · rw [hself, FaultRecord.expires_eq _ _ hc]
  · rw [hget, if_neg fun h => hj (List.mem_singleton.mp h.1)]

end

/-- Settles O50: each report by its own, then the service it changes handed on. -/
theorem stuckAndRetryTimers : Obligations.StuckAndRetryTimers := by
  refine ⟨fun l i s hrun hl hi => ⟨fun hstuck hle => ?_, fun hearly => ?_, fun since hstuck hold hc hle => ?_,
    fun new since middle hfour hstuck hold hc hn hle hmiddle => ?_⟩, fun i s hrun => ⟨fun a c limit hst ha hc hlimit =>
      ⟨fun hle => ?_, fun hlt => ?_⟩, fun hst => ?_⟩⟩
  · exact expireLine_stuck hrun hl hi ((stuckDue_iff ..).mpr ⟨hstuck, hle⟩)
  · rw [exec_stuckTimerExpiry l hrun, expireLine_early]
    refine Bool.eq_false_iff.mpr fun hdue => ?_
    obtain ⟨hrunning, hle⟩ := (stuckDue_iff ..).mp hdue
    rcases hearly with hne | hlt
    · exact hne hrunning
    · exact absurd hle (Nat.not_le.mpr hlt)
  · exact completeLine_stuckEnds hrun hl hi hstuck hold hc hle
  · exact completeLine_stuckFaults hrun hl hi hfour hstuck hold hc hn hle hmiddle
  · refine expireRetry_clears hrun hc ?_
    simp [FaultRecord.retryDue, FaultRecord.retryLimit, hst, ha, hc, hlimit, hle]
  · rw [exec_retryExpiry i hrun, expireRetry_early]
    simp [FaultRecord.retryDue, FaultRecord.retryLimit, hst, ha, hc, hlimit, hlt]
  · rw [exec_retryExpiry i hrun, expireRetry_early]
    simp [FaultRecord.retryDue, hst]

end Sys2Proof.Machine
end

section
/-! The statements about MARKS and RECALL (R25, R26, R29 to R32, R62, R105, R107). -/

namespace Sys2Proof.Machine

open Sys2Proof

/-! ## A line of no lane completes -/

/-- A change between levels that are no fault, of a line of no lane: counted, then handed to its owner; no lane is judged for it. -/
theorem exec_deckLine {l : Line} {old new : Level} {since : DeckTime} {s : State} (h : Completes l old new since s)
    (hl : Line.isLane l = false) (ho : old.isFault = false) (hn : new.isFault = false) :
    exec (.candidateCompletes l) s = .next (settle (deliver l old new since (countedAt l new since s))) := by
  have hfaults : (deliver l old new since (countedAt l new since s)).faults = s.faults :=
    (RaceOnly.deliver l old new since (countedAt l new since s)).faults
  rw [exec_candidateCompletes l h.running, completeLines_one s l h.candidateDue, countLine_quiet h ho hn,
    deliverCounted_quiet h, hl, if_neg Bool.false_ne_true,
    handServices_none _ _ _ _ (leftService_nil _ hfaults) fun _ => rfl]

/-! ## Marks in another race state -/

theorem marksRise_idle {s : State} (h : s.raceState ≠ .loaded) : marksRise s = s := by
  cases hh : s.heat with
  | none => simp only [marksRise, hh]
  | some g =>
    have hp : g.phase ≠ .loaded := fun hp => h ((raceState_eq_iff s .loaded).mpr ⟨g, hh, hp⟩)
    simp only [marksRise, hh, if_neg hp]

theorem marksFall_idle {s : State} (h : s.raceState ≠ .marks) : marksFall s = s := by
  cases hh : s.heat with
  | none => simp only [marksFall, hh]
  | some g =>
    have hp : g.phase ≠ .marks := fun hp => h ((raceState_eq_iff s .marks).mpr ⟨g, hh, hp⟩)
    simp only [marksFall, hh, if_neg hp]

theorem marksFall_marks {s : State} {h : Heat} (hh : s.heat = some h) (hp : h.phase = .marks) :
    marksFall s = cancelMarks .marksOff s := by
  simp only [marksFall, hh, if_pos hp]

/-- Settles O30: each level is counted, then the race follows it in the one state that its rule names. -/
theorem marksAndTheirCancellation : Obligations.MarksAndTheirCancellation := by
  intro since s
  refine ⟨fun h hh hc hp => ?_, fun hc hp => ?_, fun h hh hc hp => ?_, fun hc hp => ?_⟩
  · obtain ⟨g, hg, hrest, hlanes⟩ := marksRise_heat (s := countedAt .marks .active since s) hh hp
    refine ⟨_, g, exec_deckLine hc rfl rfl rfl, (settle_heat _).trans hg, by rw [hrest], by rw [hrest], by rw [hrest], hlanes⟩
  · rw [exec_deckLine hc rfl rfl rfl, deliver, marksRise_idle (s := countedAt .marks .active since s) hp]
  · obtain ⟨g, hg, hrest, hlanes, hdesks⟩ := cancelMarks_heat .marksOff (s := countedAt .marks .idle since s) hh
    refine ⟨_, g, exec_deckLine hc rfl rfl rfl, ?_, by rw [hrest], by rw [hrest], by rw [hrest], hlanes, hdesks⟩
    rw [settle_heat, deliver, marksFall_marks (s := countedAt .marks .idle since s) hh hp, hg]
  · rw [exec_deckLine hc rfl rfl rfl, deliver, marksFall_idle (s := countedAt .marks .idle since s) hp]

/-! ## Recall -/

theorem lane_recall_eq (l : Lane) : l.recall = recalledLane l := rfl

namespace QueuesOnly

variable {b c : Board}

theorem headerPending (h : QueuesOnly b c) : c.headerPending = b.headerPending := by
  rw [QueuesOnly] at h
  rw [h]

theorem clock (h : QueuesOnly b c) : c.clockDue = b.clockDue ∧ c.clockTimer = b.clockTimer := by
  rw [QueuesOnly] at h
  rw [h]
  exact ⟨rfl, rfl⟩

end QueuesOnly

/-- The board after an honoured recall: the header owed, the clock stopped (R32, R165, R169). -/
theorem honourRecall_board {s : State} {h : Heat} (hh : s.heat = some h) :
    (honourRecall s).board.headerPending = true ∧ (honourRecall s).board.clockDue = false ∧
      (honourRecall s).board.clockTimer = none := by
  simp only [honourRecall, hh]
  generalize hstopped : State.modBoard _ Board.stopClock = u
  have hqueues : ∀ v : State, QueuesOnly v.board
      (allLanes.foldl (fun s n => changeDesk n .recall none Desk.recall s)
        ((h.lanesWhere fun l => l.state != .vacant).foldl (fun s n => queueLane n s) v)).board := fun v =>
    (QueuesOnly.foldl (f := fun s n => queueLane n s) (fun s n => .queueLane n s.board) _ v).trans
      (.foldl (f := fun s n => changeDesk n .recall none Desk.recall s) (fun s n => .of_eq (changeDesk_board ..)) _ _)
  have hevent := heatEvent_queuesOnly .recall (nextRecall h.recalls) u
  have hlast := hqueues (owesHeader (heatEvent .recall (nextRecall h.recalls) u))
  refine ⟨hlast.headerPending, hlast.clock.1.trans (hevent.clock.1.trans ?_), hlast.clock.2.trans (hevent.clock.2.trans ?_)⟩
  · rw [← hstopped]
    rfl
  · rw [← hstopped]
    rfl

/-- The race time of R31's test, written out. -/
theorem recallTime_eq (h : Heat) (capture : DeckTime) :
    h.recallTime capture =
      if 2147483648 ≤ (capture - h.startTime.getD 0).toNat then 0 else (capture - h.startTime.getD 0).toNat :=
  if_congr decide_eq_true_iff rfl rfl

/-- No lane has a result to lose (R31). -/
theorem openLanes_iff (h : Heat) : h.lanesWhere Lane.closesRecall = [] ↔
    ∀ n, (h.lanes.get n).state ≠ .collect ∧ (h.lanes.get n).state ≠ .finished ∧ (h.lanes.get n).state ≠ .released := by
  rw [lanesWhere_nil]
  refine forall_congr' fun n => ?_
  rw [← Bool.not_eq_true, KeepsOrder.closesRecall_iff]
  simp only [not_or]

section
variable {s : State} {h : Heat} {capture : DeckTime}

theorem takeRecall_honoured (hh : s.heat = some h) (hp : h.phase = .running) (ht : h.recallTime capture < s.params.recallWindow)
    (hopen : h.lanesWhere Lane.closesRecall = []) : takeRecall capture s = honourRecall s := by
  have htest : h.recallTest s.params (h.recallTime capture) = none := by
    rw [Heat.recallTest, if_neg (Nat.not_le.mpr ht), if_neg (not_not_intro hopen)]
  simp only [takeRecall, hh, hp, htest]

theorem takeRecall_refused (hh : s.heat = some h) (hp : h.phase = .running)
    (hrefused : s.params.recallWindow ≤ h.recallTime capture ∨ h.lanesWhere Lane.closesRecall ≠ []) :
    takeRecall capture s =
      raise (.recallIgnored .running (h.recallTime capture)
        (some (if s.params.recallWindow ≤ h.recallTime capture then .window else .result))) s := by
  have htest : h.recallTest s.params (h.recallTime capture) =
      some (if s.params.recallWindow ≤ h.recallTime capture then .window else .result) := by
    rw [Heat.recallTest]
    split
    · rfl
    · next hwindow => rw [if_pos (hrefused.resolve_left hwindow)]
  simp only [takeRecall, hh, hp, htest]

theorem takeRecall_ignored (hh : s.heat = some h) (hp : h.phase = .loaded ∨ h.phase = .review ∨ h.phase = .final) :
    takeRecall capture s = raise (.recallIgnored h.phase.state capture.toNat none) s := by
  rcases hp with hp | hp | hp <;> simp only [takeRecall, hh, hp, RacePhase.state]

theorem takeRecall_marks (hh : s.heat = some h) (hp : h.phase = .marks) : takeRecall capture s = cancelMarks .recall s := by
  simp only [takeRecall, hh, hp]

theorem takeRecall_empty (hh : s.heat = none) : takeRecall capture s = raise (.recallIgnored .empty capture.toNat none) s := by
  simp only [takeRecall, hh]

end

/-- Settles O31: the line is counted, then the race state and R31's test say what the recall is. -/
theorem recallJudged : Obligations.RecallJudged := by
  refine ⟨fun since s hc hh => ?_, fun since s h t hh hc ht => ⟨fun hp hwindow hlanes => ?_, fun hp hrefused => ?_,
    fun hp => ?_, fun hp => ?_⟩⟩
  · rw [exec_deckLine hc rfl rfl rfl, deliver, takeRecall_empty (s := countedAt .recall .active since s) hh]
  all_goals rw [← recallTime_eq] at ht
  all_goals have hcounted : (countedAt .recall .active since s).heat = some h := hh
  all_goals rw [exec_deckLine hc rfl rfl rfl, deliver]
  · rw [takeRecall_honoured hcounted hp (ht ▸ hwindow) ((openLanes_iff h).mpr hlanes)]
    obtain ⟨g, hg, hrest, hdesks⟩ := honourRecall_heat hcounted
    refine ⟨_, g, rfl, hg, by rw [hrest]; rfl, by rw [hrest]; rfl, by rw [hrest]; rfl, by rw [hrest]; rfl, by rw [hrest]; rfl,
      by rw [hrest]; rfl, fun n => ?_, hdesks, honourRecall_board hcounted⟩
    rw [hrest]
    exact vector_get_map ..
  · rw [takeRecall_refused hcounted hp, ht]
    · rfl
    · refine hrefused.imp (fun hw => ht ▸ hw) fun ⟨n, hn⟩ hopen => ?_
      obtain ⟨hcollect, hfinished, hreleased⟩ := (openLanes_iff h).mp hopen n
      rcases hn with hn | hn | hn
      · exact hcollect hn
      · exact hfinished hn
      · exact hreleased hn
  · rw [takeRecall_ignored hcounted hp]
  · rw [takeRecall_marks hcounted hp]
    obtain ⟨g, hg, hrest, hlanes, -⟩ := cancelMarks_heat .recall hcounted
    exact ⟨_, g, rfl, (settle_heat _).trans hg, by rw [hrest], by rw [hrest], hlanes⟩

end Sys2Proof.Machine
end

section
/-! The notices and the board of a start (R21, R39, R80, R108, R116, R164, R169). -/

namespace Sys2Proof.Machine

open Sys2Proof

/-! ## An operation on each of some lanes, with its notices -/

/-- One lane alone has its record changed, as `R` says; its notices of the kinds `K` are those that `F` reads off its record before
and after. -/
def LaneReports (K : NoticeKind → Prop) (F : NoticeKind → LaneNo → Lane → Lane → List Notice) (R : Lane → Lane → Prop)
    (n : LaneNo) (s t : State) : Prop :=
  ∀ h, s.heat = some h → ∃ g qs, t.heat = some g ∧ (∀ m, m ≠ n → g.lanes.get m = h.lanes.get m) ∧
    R (h.lanes.get n) (g.lanes.get n) ∧ Raised qs s t ∧ ∀ k, K k → ofKind k qs = F k n (h.lanes.get n) (g.lanes.get n)

/-- Operations on lanes, one behind the other, tell of their lanes in that order. -/
theorem foldl_reports {K : NoticeKind → Prop} {F : NoticeKind → LaneNo → Lane → Lane → List Notice}
    {R : Lane → Lane → Prop} {f : State → LaneNo → State} {I : State → Prop} (hf : ∀ s n, I s → LaneReports K F R n s (f s n) ∧ I (f s n))
    {ns : List LaneNo} (hd : ns.Nodup) {s : State} {h : Heat} (hi : I s) (hh : s.heat = some h) :
    ∃ g qs, (ns.foldl f s).heat = some g ∧ I (ns.foldl f s) ∧ (∀ m ∉ ns, g.lanes.get m = h.lanes.get m) ∧
      (∀ m ∈ ns, R (h.lanes.get m) (g.lanes.get m)) ∧ Raised qs s (ns.foldl f s) ∧
      ∀ k, K k → ofKind k qs = ns.flatMap fun n => F k n (h.lanes.get n) (g.lanes.get n) := by
  induction ns generalizing s h with
  | nil => exact ⟨h, [], hh, hi, fun _ _ => rfl, nofun, Raised.nil rfl, fun _ _ => rfl⟩
  | cons n ns ih =>
    obtain ⟨hn, hd⟩ := List.nodup_cons.mp hd
    obtain ⟨hone, hi⟩ := hf s n hi
    obtain ⟨k, ms, hk, kothers, kr, hms, kms⟩ := hone h hh
    obtain ⟨g, qs, hg, gi, gothers, gr, hqs, kqs⟩ := ih hd hi hk
    have hne : ∀ m ∈ ns, m ≠ n := fun m hm hmn => hn (hmn ▸ hm)
    refine ⟨g, ms ++ qs, hg, gi, fun m hm => ?_, fun m hm => ?_, hms.append hqs, fun q hq => ?_⟩
    · obtain ⟨hmn, hmns⟩ := not_or.mp (List.mem_cons.not.mp hm)
      exact (gothers m hmns).trans (kothers m hmn)
    · rcases List.mem_cons.mp hm with rfl | hm
      · rw [gothers m hn]
        exact kr
      · rw [← kothers m (hne m hm)]
        exact gr m hm
    · have hrest : ∀ m ∈ ns, F q m (k.lanes.get m) (g.lanes.get m) = F q m (h.lanes.get m) (g.lanes.get m) := fun m hm => by
        rw [kothers m (hne m hm)]
      rw [ofKind_append, kms q hq, kqs q hq, List.flatMap_cons, gothers n hn, List.flatMap_congr hrest]

theorem flatMap_filter_eq {α β : Type} (p : α → Bool) (f : α → List β) (as : List α) :
    (as.filter p).flatMap f = as.flatMap fun a => if p a = true then f a else [] := by
  induction as with
  | nil => rfl
  | cons a as ih =>
    rw [List.flatMap_cons, ← ih, List.filter_cons]
    split <;> simp

theorem filterMap_filter_eq {α β : Type} (p : α → Bool) (f : α → Option β) (as : List α) :
    (as.filter p).filterMap f = as.flatMap fun a => if p a = true then (f a).toList else [] := by
  rw [← flatMap_filter_eq, List.filterMap_eq_flatMap_toList]

/-! ## One lane started -/

/-- The REACTION notice of a record lost at the start (R108). -/
def Reaction.lostNotice (n : LaneNo) (r : Reaction) : Notice := .reaction n r.early true none r.release r.reaction

theorem Reaction.lostNotice_kind (n : LaneNo) (r : Reaction) : (r.lostNotice n).kind = .reaction := rfl

theorem Reaction.lostNotice_lost (n : LaneNo) (r : Reaction) : r.lost.lostNotice n = r.lostNotice n := rfl

/-- The REACTION notices of a lane at a start, by the record it has: one when the platform of a BLOCK start is out of service. -/
def lostReactions (d : Definition) (out : LaneNo → Bool) (n : LaneNo) (m : Lane) : List Notice :=
  if d.startKind = .block ∧ out n = true then (m.reaction.map (Reaction.lostNotice n)).toList else []

/-- The notices of a lane in the first part of a start, by kind; HOLD_CHANGE left out. -/
def startReports (d : Definition) (out : LaneNo → Bool) (k : NoticeKind) (n : LaneNo) (l m : Lane) : List Notice :=
  if l.state = .ready then
    if k = .split then m.splits.map fun e => .split n e none
    else if k = .reaction then lostReactions d out n m
    else []
  else []

/-- The platforms of the start end that are out of service. -/
def platformOut (d : Definition) (s : State) (n : LaneNo) : Bool := !s.inService (platformInput n d.startEnd)

theorem ofKind_self {k : NoticeKind} {ns : List Notice} (h : ∀ q ∈ ns, q.kind = k) : ofKind k ns = ns := by
  rw [ofKind, List.filter_eq_self]
  exact fun q hq => by rw [h q hq, beq_self_eq_true]

theorem SplitsGrow.inferAll (n : LaneNo) (p : Option Promotion) (s : State) : SplitsGrow n p s (inferAll n s) := by
  unfold Machine.inferAll
  split
  · exact refl n p s
  · exact infer n _ p s

section
variable {n : LaneNo} {s : State} {h : Heat}

/-- The platform test of a start tells of a record it loses, and of nothing else (R108). -/
theorem testStartPlatform_raised (hh : s.heat = some h) :
    Raised (if platformOut h.definition s n = true then ((h.lanes.get n).reaction.map (Reaction.lostNotice n)).toList else [])
      s (testStartPlatform n s) := by
  cases hr : (h.lanes.get n).reaction with
  | none =>
    have hsame : testStartPlatform n s = s := by simp only [testStartPlatform, hh, hr]
    rw [hsame, Option.map_none, Option.toList_none, ite_self]
    exact Raised.nil rfl
  | some r =>
    cases hserve : s.inService (platformInput n h.definition.startEnd) with
    | true =>
      have hsame : testStartPlatform n s = s := by simp only [testStartPlatform, hh, hr, hserve, if_true]
      rw [hsame, platformOut, hserve]
      exact Raised.nil rfl
    | false =>
      have hlost : testStartPlatform n s = raise (r.lostNotice n) (s.modLane n fun l => { l with reaction := some r.lost }) := by
        simp only [testStartPlatform, hh, hr, hserve]
        rfl
      rw [hlost, platformOut, hserve]
      exact (Raised.nil (State.modLane_links s n _)).append (Raised.one _ _)

/-- The platform test of a lane that starts now. -/
theorem startedPlatform_raised (start : DeckTime) {m : Lane} (hh : s.heat = some h)
    (hm : m.reaction = (h.lanes.get n).startReaction h.definition start (s.inService (platformInput n h.definition.startEnd))) :
    Raised (lostReactions h.definition (platformOut h.definition s) n m) s
      (testStartPlatform n (queueLane n (s.modLane n (Lane.start h.definition start)))) := by
  have hu : (queueLane n (s.modLane n (Lane.start h.definition start))).heat =
      some (h.modLane n (Lane.start h.definition start)) := by
    rw [queueLane_heat, State.modLane_heat, hh, Option.map_some]
  have hserve : platformOut (h.modLane n (Lane.start h.definition start)).definition
      (queueLane n (s.modLane n (Lane.start h.definition start))) n = platformOut h.definition s n := rfl
  have hraised : Raised _ s _ := Raised.append (t := queueLane n (s.modLane n (Lane.start h.definition start))) (Raised.nil rfl)
    (testStartPlatform_raised (n := n) hu)
  rw [hserve, modLane_get_self] at hraised
  rw [lostReactions, hm]
  cases hkind : h.definition.startKind with
  | water => simpa [Lane.start, hkind] using hraised
  | block =>
    cases hout : s.inService (platformInput n h.definition.startEnd) with
    | true => simpa [platformOut, hout] using hraised
    | false => simpa [platformOut, hout, hkind, Lane.start, Lane.startReaction, Reaction.lostNotice_lost] using hraised

theorem lostReactions_kind {d : Definition} {out : LaneNo → Bool} {m : Lane} :
    ∀ q ∈ lostReactions d out n m, q.kind = .reaction := by
  intro q hq
  rw [lostReactions] at hq
  split at hq
  · obtain ⟨r, -, rfl⟩ : ∃ r, m.reaction = some r ∧ r.lostNotice n = q := by simpa using hq
    exact r.lostNotice_kind n
  · exact absurd hq List.not_mem_nil

/-- A lane started tells of its platform, then of the entries the inference wrote (R21, R77, R80, R108). -/
theorem startLane_ready_reports (start : DeckTime) (hh : s.heat = some h) (hst : (h.lanes.get n).state = .ready) :
    ∃ g qs, (startLane start s n).heat = some g ∧ (∀ m, m ≠ n → g.lanes.get m = h.lanes.get m) ∧
      Raised (lostReactions h.definition (platformOut h.definition s) n (g.lanes.get n) ++ qs) s (startLane start s n) ∧
      (∀ q ∈ qs, q.kind = .split ∨ q.kind = .holdChange) ∧
      ofKind .split qs = (g.lanes.get n).splits.map fun e => .split n e none := by
  obtain ⟨g, hg, hone, hstarted⟩ := startLane_started start hh hst
  obtain ⟨sp, x, leg, hlane⟩ := hstarted.lane
  have htested := testStartPlatform_heat start (n := n) hh
  have hreaction := startedPlatform_raised (n := n) (m := g.lanes.get n) start hh (by rw [hlane])
  have hgrow : SplitsGrow n none (testStartPlatform n (queueLane n (s.modLane n (Lane.start h.definition start))))
      (startLane start s n) := by
    have hlast := (SplitsGrow.expectLength n 1 0 none (testStartPlatform n
      (queueLane n (s.modLane n (Lane.start h.definition start))))).trans (.inferAll n none _)
    simpa only [startLane, hh, if_pos hst] using hlast
  obtain ⟨g', es, qs, hg', hsplits, hqs, kqs, sqs⟩ := hgrow _ htested
  obtain rfl : g = g' := Option.some.inj (hg.symm.trans hg')
  have hall : (g.lanes.get n).splits = es := by
    rw [hsplits, modLane_get_self]
    exact List.nil_append es
  refine ⟨g, qs, hg, fun m hm => (hone.others m hm).1, hreaction.append hqs, kqs, ?_⟩
  rw [sqs, hall]
  exact List.map_congr_left fun e _ => by rw [splitNotice, ite_self]

theorem startLane_reports (start : DeckTime) (hh : s.heat = some h) :
    LaneReports (· ≠ .holdChange) (startReports h.definition (platformOut h.definition s)) (fun _ _ => True) n s
      (startLane start s n) := by
  intro h' hh'
  obtain rfl := Option.some.inj (hh.symm.trans hh')
  by_cases hst : (h.lanes.get n).state = .ready
  · obtain ⟨g, qs, hg, hothers, hraised, kqs, sqs⟩ := startLane_ready_reports start hh hst
    refine ⟨g, _, hg, hothers, trivial, hraised, fun k hk => ?_⟩
    rw [startReports, if_pos hst, ofKind_append]
    have hrest : k ≠ .split → ofKind k qs = [] := fun hks => ofKind_nil_of fun q hq hqk =>
      (kqs q hq).elim (fun hq => hks (hqk.symm.trans hq)) fun hq => hk (hqk.symm.trans hq)
    have hplatform : k ≠ .reaction → ofKind k (lostReactions h.definition (platformOut h.definition s) n (g.lanes.get n)) = [] :=
      fun hkr => ofKind_nil_of fun q hq hqk => hkr (hqk.symm.trans (lostReactions_kind q hq))
    split
    · next hks => rw [hplatform (hks ▸ nofun), hks, sqs, List.nil_append]
    · next hks =>
      rw [hrest hks, List.append_nil]
      split
      · next hkr => rw [hkr, ofKind_self lostReactions_kind]
      · next hkr => exact hplatform hkr
  · have hsame : startLane start s n = s := by simp only [startLane, hh, if_neg hst]
    refine ⟨h, [], by rw [hsame, hh], fun _ _ => rfl, trivial, Raised.nil (by rw [hsame]), fun k _ => ?_⟩
    rw [startReports, if_neg hst]
    rfl

end

/-! ## The board of a start -/

/-- A board that has been given lane updates to show, and nothing else. -/
def LanesOnly (b c : Board) : Prop := c = { b with laneQueue := c.laneQueue }

namespace LanesOnly

theorem refl (b : Board) : LanesOnly b b := rfl

theorem of_eq {b c : Board} (h : c = b) : LanesOnly b c := h ▸ refl b

theorem trans {a b c : Board} (h : LanesOnly a b) (k : LanesOnly b c) : LanesOnly a c := by
  unfold LanesOnly at h k ⊢
  rw [h] at k
  exact k

theorem queueLane (n : LaneNo) (b : Board) : LanesOnly b (b.queueLane n) := by
  unfold Board.queueLane
  split <;> rfl

theorem foldl {α : Type} {f : State → α → State} (hf : ∀ s a, LanesOnly s.board (f s a).board) (as : List α) (s : State) :
    LanesOnly s.board (as.foldl f s).board := by
  induction as generalizing s with
  | nil => exact refl _
  | cons a as ih => exact (hf s a).trans (ih (f s a))

theorem addMissed (n : LaneNo) (k : Nat) (s : State) : LanesOnly s.board (Machine.addMissed n k s).board := by
  have hsplit : ∀ e, LanesOnly s.board (addSplit n e none s).board := fun e => by
    unfold addSplit
    split
    · exact refl _
    · dsimp only
      split
      · exact queueLane n _
      · exact refl _
  unfold Machine.addMissed
  split
  · exact refl _
  · exact (hsplit _).trans (of_eq (addReason_board ..))

theorem infer (n : LaneNo) (fuel : Nat) (s : State) : LanesOnly s.board (Machine.infer n fuel s).board := by
  induction fuel generalizing s with
  | zero => exact refl _
  | succ fuel ih =>
    unfold Machine.infer
    split
    · exact refl _
    · split
      · exact refl _
      · next x _ =>
        split
        · exact (addMissed n x.length s).trans (ih _)
        · exact refl _

theorem inferAll (n : LaneNo) (s : State) : LanesOnly s.board (Machine.inferAll n s).board := by
  unfold Machine.inferAll
  split
  · exact refl _
  · exact infer n _ s

theorem testStartPlatform (n : LaneNo) (s : State) : LanesOnly s.board (Machine.testStartPlatform n s).board := by
  unfold Machine.testStartPlatform
  split
  · exact refl _
  · split
    · exact refl _
    · split <;> exact refl _

theorem startLane (start : DeckTime) (s : State) (n : LaneNo) : LanesOnly s.board (Machine.startLane start s n).board := by
  unfold Machine.startLane
  split
  · exact refl _
  · split
    · exact ((queueLane n s.board).trans (testStartPlatform n _)).trans (inferAll n _)
    · exact refl _

theorem judgeStart (s : State) (n : LaneNo) : LanesOnly s.board (Machine.judgeStart s n).board := by
  have hjudge : ∀ (u : State) (k : Nat), LanesOnly u.board (judgeFrom n k u).board := fun u k => by
    unfold judgeFrom
    split
    · exact refl _
    · exact foldl (fun v e => of_eq (judgeEntry_board n v e)) _ u
  exact (of_eq (armExchange_board n 1 s)).trans (hjudge _ 0)

variable {b c : Board}

theorem clock (h : LanesOnly b c) : c.clockDue = b.clockDue ∧ c.clockTimer = b.clockTimer := by
  rw [LanesOnly] at h
  rw [h]
  exact ⟨rfl, rfl⟩

theorem freezeUsed (h : LanesOnly b c) : c.freezeUsed = b.freezeUsed := by
  rw [LanesOnly] at h
  rw [h]

theorem events (h : LanesOnly b c) : c.events = b.events := by
  rw [LanesOnly] at h
  rw [h]

end LanesOnly

end Sys2Proof.Machine
end

section
/-! The statement about START RACE and the START line (R21, R27, R28, R39, R65, R80, R105, R108, R109, R116). -/

namespace Sys2Proof.Machine

open Sys2Proof

/-! ## The started race -/

theorem endOf_one (d : Definition) : d.endOf 1 = d.startEnd.other := rfl

theorem exchanges_length (d : Definition) : d.exchanges.length = d.legs - 1 := by
  simp [Definition.exchanges]

section
variable {start : DeckTime} {cause : RaceCause} {link : Option Link} {s : State} {h : Heat}

/-- The board a start leaves: its START item, the clock due, the freeze unused (R164, R169, R170). -/
theorem startRace_board (hh : s.heat = some h) :
    (startRace start cause link s).board.clockDue = true ∧
      (startRace start cause link s).board.clockTimer = some ⟨s.deckTime, s.params.clockInterval⟩ ∧
      (startRace start cause link s).board.freezeUsed = false ∧
      (s.board.events.length < 4 →
        (startRace start cause link s).board.events = s.board.events ++ [⟨.start, h.definition.id, h.recalls⟩]) := by
  have hlanes : LanesOnly (raceBegun start cause link h s).board (startRace start cause link s).board := by
    rw [startRace_eq start cause link hh]
    exact (LanesOnly.foldl (LanesOnly.startLane start) _ _).trans (.foldl LanesOnly.judgeStart _ _)
  have hbegun : (raceNotice cause link (s.modHeat fun k => k.begun start)).heat = some (h.begun start) := by
    rw [raceNotice_heat, State.modHeat_heat, hh, Option.map_some]
  have hheat : heatEvent .start h.recalls (raceNotice cause link (s.modHeat fun k => k.begun start)) =
      queueEvent ⟨.start, h.definition.id, h.recalls⟩ (raceNotice cause link (s.modHeat fun k => k.begun start)) := by
    simp only [heatEvent, hbegun]
    rfl
  refine ⟨hlanes.clock.1, hlanes.clock.2.trans ?_, hlanes.freezeUsed, fun hroom => hlanes.events.trans ?_⟩
  · rw [raceBegun, boardStart, hheat]
    rfl
  · rw [raceBegun, boardStart, hheat]
    exact congrArg (fun b : Board => b.events)
      (if_pos hroom : s.board.queueEvent ⟨.start, h.definition.id, h.recalls⟩ = _)

/-- The race, its lanes and the board a start leaves (R27). -/
theorem startRace_started (hh : s.heat = some h) :
    ∃ g, (startRace start cause link s).heat = some g ∧ Started start s (startRace start cause link s) h g := by
  obtain ⟨g, hg, hrest, hlanes⟩ := startRace_starts start cause link hh
  have ho := RaceOnly.startRace start cause link s
  refine ⟨g, hg, ?_⟩
  refine
    { phase := by rw [hrest]; rfl
      startTime := by rw [hrest]; rfl
      overtimeFlag := by rw [hrest]; rfl
      overtimeTimer := by rw [hrest]; rfl
      definition := by rw [hrest]; rfl
      recalls := by rw [hrest]; rfl
      swimming := fun n hst => ?_
      expecting := fun n hst hpad => ?_
      missed := fun n hst hpad hlen => ?_
      reaction := fun n hst => ?_
      others := fun n => (hlanes n).2
      board := startRace_board hh
      rest := ⟨ho.phase, ho.deckTime, ho.params, ho.queue, ho.faults, ho.linkFaults, ho.resetn, ho.resetPending, ho.pending⟩ }
  all_goals obtain ⟨l, k, hstarted, hjudged⟩ := (hlanes n).1 hst
  all_goals obtain ⟨sp, x, leg, hl⟩ := hstarted.lane
  all_goals obtain ⟨xs, r, hm, hcount, hends, hr⟩ := hjudged.lane
  · rw [hm]
    refine ⟨by rw [hl]; rfl, by rw [hl]; rfl, by rw [hl]; rfl, by rw [hl]; rfl, by rw [hl]; rfl, by rw [hl]; rfl,
      by rw [hl]; rfl, ?_⟩
    rw [← exchanges_length, hcount, hl]
    rfl
  · rw [hm]
    exact hstarted.expecting hpad
  · obtain ⟨a, b, hj⟩ := hjudged.desk
    rw [hm, hj]
    exact hstarted.missed hpad hlen
  · have hlr : l.reaction =
        (h.lanes.get n).startReaction h.definition start (s.inService (platformInput n h.definition.startEnd)) := by rw [hl]
    rw [hm]
    refine ⟨fun hkind => ?_, fun hkind hout => ?_, fun hkind hin hpad => ?_⟩
    · have hnone : l.reaction = none := by rw [hlr, Lane.startReaction, hkind]
      rw [hnone] at hends
      exact hends.elim id id
    · have hlost : l.reaction = some ((h.lanes.get n).reaction.getD (Reaction.new start)).lost := by
        simp only [hlr, Lane.startReaction, hkind, hout, Bool.false_eq_true, if_false]
      rw [hlost] at hends
      exact hends.elim (fun hr => ⟨_, hr, rfl, rfl⟩) fun hr => ⟨_, hr, rfl, rfl⟩
    · rw [hr (hstarted.expecting (.inl hpad)).2, hlr, Lane.startReaction, hkind]
      simp only [hin, if_true]
      rfl

/-! ## Its notices -/

theorem platformOut_congr {d : Definition} {t : State} (hf : t.faults = s.faults) : platformOut d t = platformOut d s := by
  funext n
  rw [platformOut, platformOut, State.inService, State.inService, hf]

/-- What judging leaves of a lane's record tells the same of its platform. -/
theorem StartJudged.lostNotice {l m : Lane} {k j : Desk} (hj : StartJudged l k m j) (n : LaneNo) :
    m.reaction.map (Reaction.lostNotice n) = l.reaction.map (Reaction.lostNotice n) := by
  obtain ⟨xs, r, hm, -, hends, -⟩ := hj.lane
  rw [hm]
  rcases hends with hr | hr
  · rw [hr]
  · rw [hr, Option.map_map]
    rfl

theorem StartJudged.splits {l m : Lane} {k j : Desk} (hj : StartJudged l k m j) : m.splits = l.splits := by
  obtain ⟨xs, r, hm, -⟩ := hj.lane
  rw [hm]

theorem mem_ofKind {k : NoticeKind} {q : Notice} {ns : List Notice} : q ∈ ofKind k ns ↔ q ∈ ns ∧ q.kind = k := by
  rw [ofKind, List.mem_filter, beq_iff_eq]

/-- RACE_STATE comes first (R39); the board's part tells nothing. -/
theorem raceBegun_raised (hcause : cause ≠ .lastFinish) (hh : s.heat = some h) :
    Raised [.raceState .running cause link (some h.definition.id) h.recalls (some start) none] s
      (raceBegun start cause link h s) := by
  have hbegun : (s.modHeat fun k => k.begun start).heat = some (h.begun start) := by
    rw [State.modHeat_heat, hh, Option.map_some]
  have hnotice : raceNotice cause link (s.modHeat fun k => k.begun start) =
      raise (.raceState .running cause link (some h.definition.id) h.recalls (some start) none)
        (s.modHeat fun k => k.begun start) := by
    simp only [raceNotice, hbegun, Heat.raceNotice, if_neg hcause]
    rfl
  have hboard : (raceBegun start cause link h s).links = (raceNotice cause link (s.modHeat fun k => k.begun start)).links := by
    rw [raceBegun, boardStart, State.modBoard_links, heatEvent_links]
  rw [Raised, hboard, hnotice]
  rfl

/-- The first part of a start and its notices. -/
theorem startLanes_reports (hcause : cause ≠ .lastFinish) (hh : s.heat = some h) :
    ∃ g qs, (allLanes.foldl (startLane start) (raceBegun start cause link h s)).heat = some g ∧
      Raised (.raceState .running cause link (some h.definition.id) h.recalls (some start) none :: qs) s
        (allLanes.foldl (startLane start) (raceBegun start cause link h s)) ∧
      ∀ k, k ≠ .holdChange → ofKind k qs =
        allLanes.flatMap fun n => startReports h.definition (platformOut h.definition s) k n (h.lanes.get n) (g.lanes.get n) := by
  let I : State → Prop := fun u => u.faults = s.faults ∧ ∃ k, u.heat = some k ∧ k.definition = h.definition
  have hlane : ∀ u n, I u → LaneReports (· ≠ .holdChange) (startReports h.definition (platformOut h.definition s))
      (fun _ _ => True) n u
      (startLane start u n) ∧ I (startLane start u n) := fun u n ⟨hf, k, hk, hdef⟩ => by
    refine ⟨?_, (RaceOnly.startLane start u n).faults.trans hf, ?_⟩
    · rw [← platformOut_congr hf, ← hdef]
      exact startLane_reports start hk
    · by_cases hst : (k.lanes.get n).state = .ready
      · obtain ⟨g, hg, hone, -⟩ := startLane_started start hk hst
        exact ⟨g, hg, by rw [hone.rest, hdef]⟩
      · exact ⟨k, by simp only [startLane, hk, if_neg hst], hdef⟩
  obtain ⟨g, qs, hg, -, -, -, hqs, kqs⟩ := foldl_reports hlane (List.nodup_finRange 10)
    ⟨(RaceOnly.raceBegun start cause link).faults, _, raceBegun_heat start cause link hh, rfl⟩
    (raceBegun_heat start cause link hh)
  exact ⟨g, qs, hg, (raceBegun_raised hcause hh).append hqs, kqs⟩

/-- The notices of the first part: their kinds, the SPLIT and the REACTION notices in lane order. -/
structure StartReported (d : Definition) (out : LaneNo → Bool) (h g : Heat) (qs : List Notice) : Prop where
  kinds : ∀ q ∈ qs, q.kind = .split ∨ q.kind = .reaction ∨ q.kind = .holdChange
  splits : ofKind .split qs =
    (allLanes.filter fun n => (h.lanes.get n).state == .ready).flatMap fun n =>
      (g.lanes.get n).splits.map fun e => .split n e none
  reactions : ofKind .reaction qs =
    (allLanes.filter fun n => (h.lanes.get n).state == .ready && d.startKind == .block && out n).filterMap fun n =>
      (g.lanes.get n).reaction.map (Reaction.lostNotice n)

theorem startReported_of_reports {d : Definition} {out : LaneNo → Bool} {g : Heat} {qs : List Notice}
    (hk : ∀ k, k ≠ .holdChange → ofKind k qs =
      allLanes.flatMap fun n => startReports d out k n (h.lanes.get n) (g.lanes.get n)) : StartReported d out h g qs where
  kinds := fun q hq => by
    by_contra hother
    obtain ⟨hsplit, hother⟩ := not_or.mp hother
    obtain ⟨hreaction, hhold⟩ := not_or.mp hother
    have hnone := hk q.kind hhold
    simp only [startReports, if_neg hsplit, if_neg hreaction, ite_self] at hnone
    have hnil : ofKind q.kind qs = [] := hnone.trans (List.flatMap_eq_nil_iff.mpr fun _ _ => rfl)
    exact List.not_mem_nil (hnil ▸ mem_ofKind.mpr ⟨hq, rfl⟩)
  splits := by
    rw [hk .split nofun, flatMap_filter_eq]
    refine List.flatMap_congr fun n _ => ?_
    simp only [startReports, if_true, beq_iff_eq]
  reactions := by
    rw [hk .reaction nofun, filterMap_filter_eq]
    refine List.flatMap_congr fun n _ => ?_
    by_cases hst : (h.lanes.get n).state = .ready
    · simp [startReports, hst, lostReactions]
    · simp [startReports, hst]

/-- A start's notices: the first part's, then those of the judging (R21, R116). -/
theorem startRace_noticed (hcause : cause ≠ .lastFinish) (hh : s.heat = some h) :
    ∃ g, (startRace start cause link s).heat = some g ∧ StartNoticed start cause link s (startRace start cause link s) h g := by
  obtain ⟨k, qs, hk, hqs, kqs⟩ := startLanes_reports (start := start) (link := link) hcause hh
  obtain ⟨hkinds, hsplits, hreactions⟩ := startReported_of_reports kqs
  obtain ⟨g, hg, -, hjudged, -⟩ := judgeLanes_judged (ns := h.lanesWhere fun l => l.state == .ready) hk
    ((List.nodup_finRange 10).filter _)
  obtain ⟨js, hjs, kjs⟩ := RaisesKinds.foldl (f := judgeStart) (ks := judgingKinds)
    (fun u n => (armExchange_raises n 1 u).trans (judgeFrom_raises n 0 _)) (h.lanesWhere fun l => l.state == .ready)
    (allLanes.foldl (startLane start) (raceBegun start cause link h s))
  have hready : ∀ n, (h.lanes.get n).state = .ready →
      StartJudged (k.lanes.get n) (k.desks.get n) (g.lanes.get n) (g.desks.get n) := fun n hn => hjudged n ((mem_startedLanes h n).mpr hn)
  have hnosplit : ∀ q ∈ js, q.kind ≠ .split := fun q hq => ne_split_of_mem_judgingKinds (kjs q hq)
  have hnoreaction : ∀ q ∈ js, q.kind ≠ .reaction := fun q hq hr => by simpa [hr, judgingKinds] using kjs q hq
  rw [startRace_eq start cause link hh]
  refine ⟨g, hg, qs ++ js, hqs.append hjs, ?_, fun q hq => ?_, ?_, ?_⟩
  · refine List.pairwise_append.mpr ⟨?_, List.pairwise_of_forall_mem_list fun a _ b hb _ => hnosplit b hb,
      fun a _ b hb _ => hnosplit b hb⟩
    refine List.pairwise_of_forall_mem_list fun a ha b _ hx => ?_
    rcases hkinds a ha with e | e | e <;> rw [e] at hx <;> cases hx
  · rcases List.mem_append.mp hq with hq | hq
    · exact (hkinds q hq).imp_right (Or.imp_right .inr)
    · exact ((mem_judgingKinds _).mp (kjs q hq)).elim (fun hx => .inr (.inr (.inl hx))) fun hx => .inr (.inr (.inr hx))
  · rw [ofKind_append, ofKind_nil_of hnosplit, List.append_nil, hsplits]
    refine List.flatMap_congr fun n hn => ?_
    rw [(hready n (by simpa using (List.mem_filter.mp hn).2)).splits]
  · rw [ofKind_append, ofKind_nil_of hnoreaction, List.append_nil, hreactions]
    refine List.filterMap_congr fun n hn => ?_
    have hst : (h.lanes.get n).state = .ready := by
      obtain ⟨hst, -⟩ : (h.lanes.get n).state = .ready ∧ _ := by simpa [and_assoc] using (List.mem_filter.mp hn).2
      exact hst
    exact ((hready n hst).lostNotice n).symm

end

/-! ## A start begun by a request or by its line -/

section
variable {start : DeckTime} {cause : RaceCause} {link : Option Link} {s t u : State} {h g : Heat}

/-- A start reads neither links nor decoders. -/
theorem Started.restate (k : Started start u t h g) (hu : u = { s with links := u.links, decoders := u.decoders }) :
    Started start s t h g := by
  generalize u.links = ls, u.decoders = ds at hu
  subst hu
  exact ⟨k.phase, k.startTime, k.overtimeFlag, k.overtimeTimer, k.definition, k.recalls, k.swimming, k.expecting, k.missed,
    k.reaction, k.others, k.board, k.rest⟩

/-- What a start tells does not hang on a decoder. -/
theorem StartNoticed.restate (k : StartNoticed start cause link u t h g) (hu : u = { s with decoders := u.decoders }) :
    StartNoticed start cause link s t h g := by
  generalize u.decoders = ds at hu
  subst hu
  obtain ⟨ns, hraised, hrest⟩ := k
  exact ⟨ns, hraised.trans (raiseAll_links_congr _ rfl), hrest⟩

theorem startEvent_starts (hh : s.heat = some h) (hp : h.phase = .loaded ∨ h.phase = .marks) :
    startEvent start s = startRace start .startLine none s := by
  simp only [startEvent, hh, if_pos hp]

theorem not_beforeStart {h : Heat} (hh : s.heat = some h) (hl : s.raceState ≠ .loaded) (hm : s.raceState ≠ .marks) :
    ¬(h.phase = .loaded ∨ h.phase = .marks) := fun hp =>
  hp.elim (fun hp => hl ((raceState_eq_iff s .loaded).mpr ⟨h, hh, hp⟩)) fun hp =>
    hm ((raceState_eq_iff s .marks).mpr ⟨h, hh, hp⟩)

theorem startEvent_idle (hl : s.raceState ≠ .loaded) (hm : s.raceState ≠ .marks) : startEvent start s = s := by
  cases hh : s.heat with
  | none => simp only [startEvent, hh]
  | some h => simp only [startEvent, hh, if_neg (not_beforeStart hh hl hm)]

theorem performStartRace_line (l : Link) (hin : s.inService 70 = true) : performStartRace l s = refuse .lineInService s :=
  if_pos hin

theorem performStartRace_wrong (l : Link) (hout : s.inService 70 = false) (hl : s.raceState ≠ .loaded)
    (hm : s.raceState ≠ .marks) : performStartRace l s = wrongRace s := by
  have hline : ¬ s.inService startInput = true := Bool.eq_false_iff.mp hout
  cases hh : s.heat with
  | none => simp only [performStartRace, if_neg hline, hh]
  | some h => simp only [performStartRace, if_neg hline, hh, if_neg (not_beforeStart hh hl hm)]

theorem performStartRace_starts (l : Link) (hout : s.inService 70 = false) (hh : s.heat = some h)
    (hp : h.phase = .loaded ∨ h.phase = .marks) :
    performStartRace l s = done (le4 s.deckTime.toNat) (startRace s.deckTime .startRequest (some l) s) := by
  have hline : ¬ s.inService startInput = true := Bool.eq_false_iff.mp hout
  simp only [performStartRace, if_neg hline, hh, if_pos hp]

theorem exec_startRace_taken {l : Link} (tag : Byte) (h : Takes l s) :
    exec (.startRace l tag) s = .next (answered l tag 0x06 (performStartRace l (counted l s)).result
      (performStartRace l (counted l s)).data (performStartRace l (counted l s)).state) :=
  congrArg Host.Outcome.next (arrive_taken h tag 0x06 (performStartRace l))

/-- What a start leaves and what it tells, of one race. -/
theorem startRace_result (hcause : cause ≠ .lastFinish) (hh : s.heat = some h) :
    ∃ g, (startRace start cause link s).heat = some g ∧ Started start s (startRace start cause link s) h g ∧
      StartNoticed start cause link s (startRace start cause link s) h g := by
  obtain ⟨g, hg, hstarted⟩ := startRace_started (start := start) (cause := cause) (link := link) hh
  obtain ⟨g', hg', hnoticed⟩ := startRace_noticed (start := start) (link := link) hcause hh
  obtain rfl : g = g' := Option.some.inj (hg.symm.trans hg')
  exact ⟨g, hg, hstarted, hnoticed⟩

end

/-- Settles O29: request and START event start the race alike, each gated by its own service and race state. -/
theorem startRequestAndStartLine : Obligations.StartRequestAndStartLine := by
  refine ⟨fun l tag s htakes => ⟨fun hin => ?_, fun hout hl hm => ?_, fun h hout hh hp => ?_⟩,
    fun since s hc => ⟨fun h hh hp => ?_, fun hl hm => ?_⟩⟩
  · rw [exec_startRace_taken tag htakes, performStartRace_line (s := counted l s) l hin]
    rfl
  · rw [exec_startRace_taken tag htakes, performStartRace_wrong (s := counted l s) l hout hl hm]
    rfl
  · have hcounted : (counted l s).heat = some h := hh
    obtain ⟨g, hg, hstarted, hnoticed⟩ := startRace_result (start := s.deckTime) (cause := .startRequest) (link := some l) nofun
      hcounted
    refine ⟨_, g, ?_, hg, hstarted.restate rfl, hnoticed⟩
    rw [exec_startRace_taken tag htakes, performStartRace_starts (s := counted l s) l hout hcounted hp]
    rfl
  · have hcounted : (countedAt .start .active since s).heat = some h := hh
    obtain ⟨g, hg, hstarted, hnoticed⟩ := startRace_result (start := since) (cause := .startLine) (link := none) nofun hcounted
    refine ⟨_, g, ?_, hg, hstarted.restate rfl, hnoticed.restate rfl⟩
    rw [exec_deckLine hc rfl rfl rfl, deliver, startEvent_starts hcounted hp]
  · rw [exec_deckLine hc rfl rfl rfl, deliver, startEvent_idle (s := countedAt .start .active since s) hl hm]

end Sys2Proof.Machine
end

section
/-! The statement about overtime (R33, R35, R56, R99, R114): what the end of each swimmer leaves, and where the race goes. -/

namespace Sys2Proof.Machine

open Sys2Proof

/-! ## Flag and timer through a finish -/

section
variable {h : Heat} {n : LaneNo}

theorem finalised_timer (p : Params) (now : DeckTime) : (h.finalised p now).overtimeTimer = h.overtimeTimer := by
  unfold Heat.finalised
  split <;> rfl

theorem reviewed_timer (now : DeckTime) (ht : h.overtimeTimer = false) : (h.reviewed now).overtimeTimer = false := by
  unfold Heat.reviewed
  split
  · rfl
  · exact ht

theorem checked_timer (p : Params) (now : DeckTime) : (h.checked n p now).overtimeTimer = h.overtimeTimer := by
  unfold Heat.checked Heat.releasedLane
  split
  · split
    · rfl
    · exact finalised_timer p now
  · rfl

/-- No finish starts the overtime timer. -/
theorem finishedLane_timer (core : ResultCore) (rs : List Reason) (p : Params) (now : DeckTime) (ht : h.overtimeTimer = false) :
    (h.finishedLane n core rs p now).overtimeTimer = false := by
  have hended : (h.endedLane n core rs).overtimeTimer = false := by
    unfold Heat.endedLane
    dsimp only
    split <;> exact ht
  rw [finishedLane_eq, finalised_timer]
  exact reviewed_timer now ((checked_timer p now).trans hended)

end

/-! ## One lane at overtime -/

/-- A SWIMMING lane ended by overtime (R33, R99, R114). -/
structure SwimmerEnded (l m : Lane) : Prop where
  state : m.state = .finished ∨ m.state = .released
  result : m.result = some .noFinish
  expectation : m.expectation = none
  pendingTiming : m.pendingTiming = none
  splits : m.splits = l.splits
  rejected : m.rejected = l.rejected
  leg : m.leg = l.leg
  exchanges : ∀ x ∈ m.exchanges, x.verdict ≠ .pending

/-- A lane at overtime: a swimmer is ended, any other lane is left as it is. -/
def OvertimeEnds (l m : Lane) : Prop := (l.state = .swimming → SwimmerEnded l m) ∧ (l.state ≠ .swimming → m = l)

/-- The FINISH notice of a lane at overtime (R56). -/
def overtimeFinish (_ : NoticeKind) (n : LaneNo) (l _ : Lane) : List Notice :=
  if l.state = .swimming then [.finish n .noFinish none] else []

theorem SwimmerEnded.ended {l m : Lane} (h : SwimmerEnded l m) : m.unfinished = false := by
  rcases h.state with hst | hst <;> rw [Lane.unfinished, hst]

section
variable {n : LaneNo} {s : State} {h : Heat}

theorem overtimeLane_swimming (hh : s.heat = some h) (hst : (h.lanes.get n).state = .swimming) :
    overtimeLane s n = finishWithoutTime n none s := by
  simp only [overtimeLane, hh, if_pos hst]

theorem overtimeLane_other (hh : s.heat = some h) (hst : (h.lanes.get n).state ≠ .swimming) : overtimeLane s n = s := by
  simp only [overtimeLane, hh, if_neg hst]

theorem finishedState_ended (n : LaneNo) (g : Heat) : finishedState n g = .finished ∨ finishedState n g = .released := by
  unfold finishedState
  split
  · exact .inr rfl
  · exact .inl rfl

/-- Of the notices of a finish without a time one is its FINISH. -/
theorem finishNoticed_finish {core : ResultCore} {t : State} {g : Heat} (hn : FinishNoticed n core none [] s t g) :
    ∃ qs, Raised qs s t ∧ ofKind .finish qs = [.finish n core none] := by
  obtain ⟨before, after, hraised, -, kbefore, -, kafter, -⟩ := hn
  have hbefore : ofKind .finish before = [] := ofKind_nil_of fun q hq => by
    rcases kbefore q hq with e | e | e <;> rw [e] <;> nofun
  have hafter : ofKind .finish after = [] := ofKind_nil_of fun q hq => by
    rcases kafter q hq with e | e | e | e <;> rw [e] <;> nofun
  refine ⟨_, hraised, ?_⟩
  rw [ofKind_append, hbefore, List.nil_append, ofKind, List.filter_cons_of_pos rfl]
  exact congrArg _ hafter

/-- The race after one lane of overtime: what stays, and R35's test of it. -/
structure OvertimeStep (n : LaneNo) (now : DeckTime) (h g : Heat) : Prop where
  definition : g.definition = h.definition
  startTime : g.startTime = h.startTime
  overtimeFlag : g.overtimeFlag = h.overtimeFlag
  overtimeTimer : h.overtimeTimer = false → g.overtimeTimer = false
  others : ∀ m, m ≠ n → g.lanes.get m = h.lanes.get m
  lane : OvertimeEnds (h.lanes.get n) (g.lanes.get n)
  idle : (h.lanes.get n).state ≠ .swimming → g = h
  stays : (∃ m, m ≠ n ∧ (h.lanes.get m).unfinished = true) → g.phase = h.phase
  ends : (h.lanes.get n).state = .swimming → h.phase = .running → (∀ m, m ≠ n → (h.lanes.get m).unfinished = false) →
    (g.phase = .review ∨ g.phase = .final) ∧ g.stopTime = some (h.raceTime now)

theorem overtimeLane_steps (hh : s.heat = some h) :
    ∃ g qs, (overtimeLane s n).heat = some g ∧ OvertimeStep n s.deckTime h g ∧ Raised qs s (overtimeLane s n) ∧
      ofKind .finish qs = overtimeFinish .finish n (h.lanes.get n) (g.lanes.get n) := by
  by_cases hst : (h.lanes.get n).state = .swimming
  · obtain ⟨g, hg, hfin, hnoticed, hsplits, hexch⟩ := finishWithoutTime_finishes n none hh
    obtain ⟨g', hg', hframe⟩ := ((LaneOnly.abandonExchanges n s).trans (LaneOnly.finishLane n _ none [] _)).race h hh
    obtain rfl : g = g' := Option.some.inj (hg.symm.trans hg')
    obtain ⟨qs, hqs, kqs⟩ := finishNoticed_finish hnoticed
    rw [overtimeLane_swimming hh hst]
    refine ⟨g, qs, hg, ?_, hqs, by rw [kqs, overtimeFinish, if_pos hst]⟩
    obtain ⟨hexpectation, hpending, -⟩ := hfin.gone
    obtain ⟨-, hleg, -, -, -, hrejected⟩ := hfin.kept
    exact
      { definition := hframe.definition
        startTime := hframe.startTime
        overtimeFlag := hframe.overtimeFlag
        overtimeTimer := fun ht => by
          obtain ⟨g0, hg0, hx⟩ := abandonExchanges_exchanged s n h hh
          have hfinished : g = g0.finishedLane n .noFinish [] (abandonExchanges n s).params (abandonExchanges n s).deckTime := by
            refine Option.some.inj (hg.symm.trans ?_)
            rw [finishWithoutTime, finishLane_heat, hg0, Option.map_some]
          rw [hfinished]
          exact finishedLane_timer _ _ _ _ (by rw [hx.rest]; exact ht)
        others := fun m hm => (hfin.others m hm).1
        lane := ⟨fun _ => ⟨hfin.state ▸ finishedState_ended n g, hfin.result, hexpectation, hpending, hsplits, hrejected, hleg,
          hexch⟩, fun hne => absurd hst hne⟩
        idle := fun hne => absurd hst hne
        stays := fun hm => (hfin.stays hm).1
        ends := fun _ => hfin.ends }
  · rw [overtimeLane_other hh hst]
    exact ⟨h, [], hh,
      { definition := rfl
        startTime := rfl
        overtimeFlag := rfl
        overtimeTimer := id
        others := fun _ _ => rfl
        lane := ⟨fun h => absurd h hst, fun _ => rfl⟩
        idle := fun _ => rfl
        stays := fun _ => rfl
        ends := fun h => absurd h hst }, Raised.nil rfl, by rw [overtimeFinish, if_neg hst]; rfl⟩

end

/-! ## The race during overtime -/

/-- The race RUNNING while a lane is unfinished, or past RUNNING with none (R35). -/
def OvertimePhase (t : Nat) (k : Heat) : Prop :=
  (k.phase = .running ∧ ∃ m, (k.lanes.get m).unfinished = true) ∨
    ((k.phase = .review ∨ k.phase = .final) ∧ k.stopTime = some t ∧ ∀ m, (k.lanes.get m).unfinished = false)

theorem OvertimeEnds.unfinished_iff {l m : Lane} (h : OvertimeEnds l m) :
    m.unfinished = true ↔ l.unfinished = true ∧ l.state ≠ .swimming := by
  by_cases hst : l.state = .swimming
  · rw [(h.1 hst).ended]
    exact iff_of_false Bool.false_ne_true fun hx => hx.2 hst
  · rw [h.2 hst]
    exact ⟨fun hu => ⟨hu, hst⟩, fun hu => hu.1⟩

theorem OvertimeStep.phase {n : LaneNo} {now : DeckTime} {h g : Heat} (st : OvertimeStep n now h g)
    (hp : OvertimePhase (h.raceTime now) h) : OvertimePhase (h.raceTime now) g := by
  by_cases hst : (h.lanes.get n).state = .swimming
  · rcases hp with ⟨hrun, -⟩ | ⟨-, -, hnone⟩
    · by_cases hother : ∃ m, m ≠ n ∧ (h.lanes.get m).unfinished = true
      · obtain ⟨m, hm, hu⟩ := hother
        exact .inl ⟨(st.stays ⟨m, hm, hu⟩).trans hrun, m, by rw [st.others m hm, hu]⟩
      · have hlast : ∀ m, m ≠ n → (h.lanes.get m).unfinished = false := fun m hm =>
          Bool.eq_false_iff.mpr fun hu => hother ⟨m, hm, hu⟩
        obtain ⟨hphase, hstop⟩ := st.ends hst hrun hlast
        refine .inr ⟨hphase, hstop, fun m => ?_⟩
        by_cases hm : m = n
        · rw [hm]
          exact (st.lane.1 hst).ended
        · rw [st.others m hm, hlast m hm]
    · have hunfinished := hnone n
      rw [Lane.unfinished, hst] at hunfinished
      cases hunfinished
  · rw [st.idle hst]
    exact hp

/-- What overtime leaves of the race while its lanes are ended: `h` the race it found, at deck time `now`. -/
structure OvertimeRace (now : DeckTime) (h : Heat) (u : State) : Prop where
  deckTime : u.deckTime = now
  race : ∃ k, u.heat = some k ∧ k.definition = h.definition ∧ k.startTime = h.startTime ∧ k.overtimeFlag = true ∧
    k.overtimeTimer = false ∧
    ((∃ m, (h.lanes.get m).unfinished = true) → OvertimePhase (h.raceTime now) k)

theorem overtimeLane_reports {now : DeckTime} {h : Heat} {u : State} (n : LaneNo) (hu : OvertimeRace now h u) :
    LaneReports (· = .finish) overtimeFinish OvertimeEnds n u (overtimeLane u n) ∧ OvertimeRace now h (overtimeLane u n) := by
  obtain ⟨hdeck, k, hk, hdef, hstart, hflag, htimer, hphase⟩ := hu
  obtain ⟨g, qs, hg, st, hqs, kqs⟩ := overtimeLane_steps (n := n) hk
  refine ⟨fun k' hk' => ?_, (RaceOnly.overtimeLane u n).deckTime.trans hdeck, g, hg, st.definition.trans hdef,
    st.startTime.trans hstart, st.overtimeFlag.trans hflag, st.overtimeTimer htimer, fun hopen => ?_⟩
  · obtain rfl := Option.some.inj (hk.symm.trans hk')
    exact ⟨g, qs, hg, st.others, st.lane, hqs, fun q hq => by rw [hq, kqs]⟩
  · have hsame : k.raceTime u.deckTime = h.raceTime now := by rw [hdeck, Heat.raceTime, Heat.raceTime, hstart]
    rw [← hsame]
    refine st.phase ?_
    rw [hsame]
    exact hphase hopen

/-! ## Overtime -/

section
variable {s : State} {h : Heat}

/-- The race overtime leaves, and the notices in their order (R33, R35, R39, R56). -/
theorem overtime_ends (hh : s.heat = some h) (hrun : h.phase = .running) :
    ∃ g qs, (overtime s).heat = some g ∧ OvertimeRace s.deckTime h (overtime s) ∧
      (∀ n, OvertimeEnds (h.lanes.get n) (g.lanes.get n)) ∧
      Raised (.raceState .running .overtime none (some h.definition.id) h.recalls h.startTime none :: qs) s (overtime s) ∧
      ofKind .finish qs = allLanes.flatMap fun n => overtimeFinish .finish n (h.lanes.get n) (g.lanes.get n) := by
  let k : Heat := { h with overtimeFlag := true, overtimeTimer := false }
  let u : State := s.modHeat fun h => { h with overtimeFlag := true, overtimeTimer := false }
  have hu : u.heat = some k := by rw [State.modHeat_heat, hh, Option.map_some]
  let v : State := heatEvent .overtime (hundredths s.params.raceTimeLimit) u
  have hv : v.heat = some k := (heatEvent_heat ..).trans hu
  have hnotice : raceNotice .overtime none v =
      raise (.raceState .running .overtime none (some h.definition.id) h.recalls h.startTime none) v := by
    simp only [raceNotice, hv, Heat.raceNotice]
    rw [hrun]
    rfl
  have hraised : Raised [.raceState .running .overtime none (some h.definition.id) h.recalls h.startTime none] s
      (raceNotice .overtime none v) := by
    rw [hnotice]
    exact Raised.append (t := v) (Raised.nil (heatEvent_links ..)) (Raised.one _ _)
  have hi : OvertimeRace s.deckTime h (raceNotice .overtime none v) := by
    refine ⟨?_, k, by rw [raceNotice_heat, hv], rfl, rfl, rfl, rfl, fun hopen => .inl ⟨hrun, hopen⟩⟩
    exact (((RaceOnly.modHeat s (fun h => { h with overtimeFlag := true, overtimeTimer := false }) fun _ => rfl).trans
      (RaceOnly.heatEvent _ _ u)).trans (RaceOnly.raceNotice _ _ v)).deckTime
  obtain ⟨g, qs, hg, gi, -, gr, hqs, kqs⟩ := foldl_reports (fun _ n => overtimeLane_reports n) (List.nodup_finRange 10) hi
    ((raceNotice_heat ..).trans hv)
  exact ⟨g, qs, hg, gi, fun n => gr n (List.mem_finRange n), hraised.append hqs, kqs .finish rfl⟩

theorem exec_overtimeExpiry (hrun : s.phase = .running) : exec .overtimeExpiry s = .next (settle (overtimeIfDue s)) :=
  congrArg Host.Outcome.next (event_running hrun _)

end

/-- Settles O32: overtime ends the swimmers in lane order, and R35 is tested by what they leave. -/
theorem overtimeFinishesTheSwimmers : Obligations.OvertimeFinishesTheSwimmers := by
  intro s hrunning
  rw [exec_overtimeExpiry hrunning]
  refine ⟨fun h hh hrun htimer hlimit => ?_, fun hno => ?_⟩
  · have hdue : overtimeDue s = true := (overtimeDue_iff ..).mpr ⟨h, hh, hrun, htimer, hlimit⟩
    obtain ⟨g, qs, hg, ⟨-, g', hg', hdef, hstart, hflag, htimer, hphase⟩, hlanes, hqs, kqs⟩ := overtime_ends hh hrun
    obtain rfl : g = g' := Option.some.inj (hg.symm.trans hg')
    have hunfinished : ∀ n, (g.lanes.get n).unfinished = true ↔
        (h.lanes.get n).state = .collect ∨ (h.lanes.get n).state = .ready := fun n => by
      rw [(hlanes n).unfinished_iff, unfinished_iff]
      cases (h.lanes.get n).state <;> simp
    refine ⟨overtime s, g, by rw [overtimeIfDue, if_pos hdue], hg, ⟨qs, hqs, ?_⟩, hflag, htimer, hdef, hstart, fun n hst => ?_,
      fun n hst => (hlanes n).2 hst, fun ⟨n, hst⟩ => ?_, fun hnone ⟨n, hst⟩ => ?_⟩
    · rw [kqs, List.map_eq_flatMap, flatMap_filter_eq]
      exact List.flatMap_congr fun n _ => by simp only [overtimeFinish, beq_iff_eq]
    · have hended := (hlanes n).1 hst
      exact ⟨hended.state, hended.result, hended.expectation, hended.pendingTiming, hended.splits, hended.rejected, hended.leg,
        hended.exchanges⟩
    · have hopen : (h.lanes.get n).unfinished = true := (unfinished_iff _).mpr (hst.elim (fun h => .inr (.inr h)) .inl)
      rcases hphase ⟨n, hopen⟩ with ⟨hrun, -⟩ | ⟨-, -, hended⟩
      · exact hrun
      · exact absurd ((hunfinished n).mpr hst) (Bool.eq_false_iff.mp (hended n))
    · rcases hphase ⟨n, (unfinished_iff _).mpr (.inr (.inl hst))⟩ with ⟨-, m, hm⟩ | ⟨hpast, hstop, -⟩
      · obtain ⟨hcollect, hready⟩ := hnone m
        exact absurd ((hunfinished m).mp hm) (not_or.mpr ⟨hcollect, hready⟩)
      · exact ⟨hpast, hstop⟩
  · have hdue : ¬ overtimeDue s = true := fun hdue => by
      obtain ⟨h, hh, hrun, htimer, hlimit⟩ := (overtimeDue_iff ..).mp hdue
      rcases hno with hnone | ⟨h', hh', hno⟩
      · rw [hnone] at hh
        cases hh
      · obtain rfl := Option.some.inj (hh.symm.trans hh')
        rcases hno with hphase | hoff | hlt
        · exact hphase hrun
        · rw [htimer] at hoff
          cases hoff
        · exact absurd hlimit (Nat.not_le.mpr hlt)
    rw [overtimeIfDue, if_neg hdue]

end Sys2Proof.Machine
end

section
/-! The statement about the writes of AutoAdvance and RaceTimeLimit that the race follows (R24, R34). -/

namespace Sys2Proof.Machine

open Sys2Proof

variable {l : Link} {tag : Byte} {w : Word32} {s : State} {h : Heat}

/-! ## AutoAdvance -/

theorem valueNoticed_heat (l : Link) (p : ParamId) (v : Int) (s : State) : (valueNoticed l p v s).heat = s.heat := rfl

/-- AutoAdvance moved: what its owner does is all that follows. -/
theorem exec_autoAdvance {v : Int} (htakes : Takes l s) (hw : decodeParamValue .autoAdvance w = some v)
    (hv : ParamId.autoAdvance.admits v = true) (hnew : v ≠ s.params.value .autoAdvance) :
    exec (.setParameter l tag 18 w) s =
      .next (answered l tag 0x17 .done (writeAnswer .autoAdvance v s) (autoAdvanceWritten (valueNoticed l .autoAdvance v s))) := by
  have hexec := exec_setParameter_admitted (tag := tag) htakes hw hv
  rw [followedByOvertime_write (p := .autoAdvance) (.inl nofun), writeParameter_new hnew] at hexec
  exact hexec

theorem autoAdvanceWritten_on (hon : s.params.autoAdvance = true) (hh : s.heat = some h) :
    (autoAdvanceWritten s).heat =
      some (if h.phase = .final ∧ h.advance = none then { h with advance := some ⟨s.deckTime, s.params.advanceDelay⟩ }
        else h) := by
  simp only [autoAdvanceWritten, hon, if_true, hh]
  split
  · rw [startAdvance, State.modHeat_heat, hh, Option.map_some]
  · exact hh

theorem autoAdvanceWritten_off (hoff : s.params.autoAdvance = false) (hh : s.heat = some h) :
    (autoAdvanceWritten s).heat = some { h with advance := none } := by
  simp only [autoAdvanceWritten, hoff, Bool.false_eq_true, if_false]
  rw [State.modHeat_heat, hh, Option.map_some]

theorem autoAdvance_value_on (hon : s.params.autoAdvance = true) : s.params.value .autoAdvance = 1 := by
  simp only [Params.value, hon]
  rfl

theorem autoAdvance_value_off (hoff : s.params.autoAdvance = false) : s.params.value .autoAdvance = 0 := by
  simp only [Params.value, hoff]
  rfl

/-- AutoAdvance turned on (R24). -/
theorem setParameter_autoAdvanceOn (htakes : Takes l s) (hh : s.heat = some h) (hoff : s.params.autoAdvance = false) :
    ∃ t, exec (.setParameter l tag 18 1) s = .next t ∧ t.heat =
      some (if h.phase = .final ∧ h.advance = none then { h with advance := some ⟨s.deckTime, s.params.advanceDelay⟩ }
        else h) := by
  refine ⟨_, exec_autoAdvance (v := 1) htakes rfl rfl (by rw [autoAdvance_value_off hoff]; decide), ?_⟩
  exact autoAdvanceWritten_on (s := valueNoticed l .autoAdvance 1 s) rfl hh

/-- AutoAdvance turned off (R24). -/
theorem setParameter_autoAdvanceOff (htakes : Takes l s) (hh : s.heat = some h) (hon : s.params.autoAdvance = true) :
    ∃ t, exec (.setParameter l tag 18 0) s = .next t ∧ t.heat = some { h with advance := none } := by
  refine ⟨_, exec_autoAdvance (v := 0) htakes rfl rfl (by rw [autoAdvance_value_on hon]; decide), ?_⟩
  exact autoAdvanceWritten_off (s := valueNoticed l .autoAdvance 0 s) rfl hh

/-! ## RaceTimeLimit -/

theorem raceTimeLimit_admits (hlo : 600000 ≤ w.toNat) (hhi : w.toNat ≤ 59400000) :
    ParamId.raceTimeLimit.admits (w.toNat : Int) = true := by
  have hbounds : (600000 : Int) ≤ w.toNat ∧ (w.toNat : Int) ≤ 59400000 := by omega
  exact Bool.and_eq_true_iff.mpr ⟨decide_eq_true hbounds.1, decide_eq_true hbounds.2⟩

/-- The state a write of RaceTimeLimit leaves before any overtime: answered and settled (R184). -/
def limitWritten (l : Link) (tag : Byte) (w : Word32) (s : State) : State :=
  answered l tag 0x17 .done (writeAnswer .raceTimeLimit (w.toNat : Int) s)
    (writeParameter l .raceTimeLimit (w.toNat : Int) (counted l s))

theorem limitWritten_eq : limitWritten l tag w s =
    answered l tag 0x17 .done (writeAnswer .raceTimeLimit (w.toNat : Int) s) (valueNoticed l .raceTimeLimit (w.toNat : Int) s) := by
  rw [limitWritten]
  by_cases h : (w.toNat : Int) = s.params.value .raceTimeLimit
  · rw [writeParameter_same h]
  · rw [writeParameter_new h]
    rfl

theorem exec_raceTimeLimit (htakes : Takes l s) (hlo : 600000 ≤ w.toNat) (hhi : w.toNat ≤ 59400000) :
    exec (.setParameter l tag 17 w) s = .next (followedByOvertime s (limitWritten l tag w s)) :=
  exec_setParameter_admitted (p := .raceTimeLimit) htakes rfl (raceTimeLimit_admits hlo hhi)

theorem limitWritten_limit : (limitWritten l tag w s).params.raceTimeLimit = w.toNat := by
  rw [limitWritten_eq]
  rfl

theorem limitWritten_heat : (limitWritten l tag w s).heat = s.heat := by
  rw [limitWritten_eq]
  rfl

theorem limitWritten_deckTime : (limitWritten l tag w s).deckTime = s.deckTime := by
  rw [limitWritten_eq]
  rfl

theorem limitWritten_running (htakes : Takes l s) : (limitWritten l tag w s).phase = .running := by
  rw [limitWritten_eq]
  exact htakes.running

/-- The overtime that may follow moves no parameter. -/
theorem followed_limit : (followedByOvertime s (limitWritten l tag w s)).params.raceTimeLimit = w.toNat := by
  rw [(KeepsHub.followedByOvertime s _).params, limitWritten_limit]

/-- At or below the race time, overtime follows (R34). -/
theorem followed_overtime (htakes : Takes l s) (hh : s.heat = some h) (hrun : h.phase = .running) (htimer : h.overtimeTimer = true)
    (hle : w.toNat ≤ h.raceTime s.deckTime) (hnew : w.toNat ≠ s.params.raceTimeLimit) :
    ∃ g, (followedByOvertime s (limitWritten l tag w s)).heat = some g ∧ g.overtimeFlag = true ∧
      ∀ n, (g.lanes.get n).state ≠ .swimming := by
  have hheat : (limitWritten l tag w s).heat = some h := limitWritten_heat.trans hh
  have hdue : overtimeDue (limitWritten l tag w s) = true :=
    (overtimeDue_iff _).mpr ⟨h, hheat, hrun, htimer, by rwa [limitWritten_limit, limitWritten_deckTime]⟩
  have hfollows : followedByOvertime s (limitWritten l tag w s) = settle (overtime (limitWritten l tag w s)) := by
    rw [followedByOvertime, limitWritten_limit, if_pos hnew.symm, event_running (limitWritten_running htakes), overtimeIfDue,
      if_pos hdue]
  obtain ⟨g, -, hg, ⟨-, g', hg', -, -, hflag, -⟩, hlanes, -⟩ := overtime_ends hheat hrun
  obtain rfl : g = g' := Option.some.inj (hg.symm.trans hg')
  refine ⟨g, by rw [hfollows, settle_heat, hg], hflag, fun n hst => ?_⟩
  by_cases hswam : (h.lanes.get n).state = .swimming
  · rcases ((hlanes n).1 hswam).state with hend | hend <;> rw [hend] at hst <;> cases hst
  · rw [(hlanes n).2 hswam] at hst
    exact hswam hst

/-- Above the race time, or outside RUNNING, the race stays. -/
theorem followed_stays (htakes : Takes l s) (hh : s.heat = some h)
    (hstays : h.phase ≠ .running ∨ h.raceTime s.deckTime < w.toNat) :
    (followedByOvertime s (limitWritten l tag w s)).heat = some h := by
  have hheat : (limitWritten l tag w s).heat = some h := limitWritten_heat.trans hh
  have hdue : ¬ overtimeDue (limitWritten l tag w s) = true := fun hdue => by
    obtain ⟨k, hk, hrun, -, hle⟩ := (overtimeDue_iff _).mp hdue
    obtain rfl := Option.some.inj (hheat.symm.trans hk)
    rw [limitWritten_limit, limitWritten_deckTime] at hle
    exact hstays.elim (fun hne => hne hrun) fun hlt => Nat.not_lt.mpr hle hlt
  rw [followedByOvertime]
  split
  · rw [event_running (limitWritten_running htakes), overtimeIfDue, if_neg hdue, settle_heat, hheat]
  · exact hheat

/-- Settles O23: AutoAdvance by its owner, RaceTimeLimit by the overtime that may follow the write. -/
theorem writesTheRaceFollows : Obligations.WritesTheRaceFollows := by
  refine ⟨fun l tag s h htakes hh => ⟨fun hoff hp ha => ?_, fun hoff hno => ?_,
      fun hon => setParameter_autoAdvanceOff htakes hh hon⟩,
    fun l tag w s h htakes hh hlo hhi => ⟨fun hrun htimer hle hnew => ?_, fun hstays => ?_⟩⟩
  · obtain ⟨t, ht, hheat⟩ := setParameter_autoAdvanceOn (tag := tag) htakes hh hoff
    exact ⟨t, ht, by rw [hheat, if_pos ⟨hp, ha⟩]⟩
  · obtain ⟨t, ht, hheat⟩ := setParameter_autoAdvanceOn (tag := tag) htakes hh hoff
    exact ⟨t, ht, by rw [hheat, if_neg fun hc => hno.elim (fun hp => hp hc.1) fun ha => ha hc.2]⟩
  · obtain ⟨g, hg, hflag, hlanes⟩ := followed_overtime (tag := tag) htakes hh hrun htimer hle hnew
    exact ⟨_, g, exec_raceTimeLimit htakes hlo hhi, followed_limit, hg, hflag, hlanes⟩
  · exact ⟨_, exec_raceTimeLimit htakes hlo hhi, followed_limit, followed_stays htakes hh hstays⟩

end Sys2Proof.Machine
end
